-- ==== Sys2Proof/Word.lean ====
section
/-! DEFINITION. The word types of Flaique and their plainest arithmetic (R36, R37, R41), and the fields of a
matrix command frame (R66), with the names of planes and issue classes. -/

namespace Sys2Proof

/-- A scalar token's 64 bits, a general register, an address token (R11, R37, R135). -/
abbrev Word := BitVec 64

/-- One instruction word (R16, R55). -/
abbrev Word32 := BitVec 32

/-- One byte of memory. -/
abbrev Byte := BitVec 8

/-- A data-plane token: 64 bytes, byte 0 in the low bits (R36). -/
abbrev Vec := BitVec 512

/-- A 9-bit target field (R20). -/
abbrev Tgt := BitVec 9

/-- Bits `hi` down to `lo` of a natural number. -/
def bits (x hi lo : Nat) : Nat := (x >>> lo) % 2 ^ (hi + 1 - lo)

/-- The two's-complement reading of the low `w` bits of `x` (R41). -/
def sgn (w x : Nat) : Int := if x % 2 ^ w < 2 ^ (w - 1) then (x % 2 ^ w : Nat) else (x % 2 ^ w : Nat) - (2 ^ w : Nat)

/-- The low `w` bits of an integer, as an unsigned number (R41). -/
def wrap (w : Nat) (x : Int) : Nat := (x % (2 ^ w : Nat)).toNat

/-- Sign extension of the low `w` bits of `x` to a scalar token (R37). -/
def sext (w x : Nat) : Word := BitVec.ofInt 64 (sgn w x)

/-- The number a byte list spells, least significant byte first (R36). -/
def ofBytes : List Byte → Nat
  | [] => 0
  | b :: bs => b.toNat + 256 * ofBytes bs

/-- The `n` low bytes of `x`, least significant first (R36). -/
def toBytes : Nat → Nat → List Byte
  | 0, _ => []
  | n + 1, x => BitVec.ofNat 8 x :: toBytes n (x / 256)

/-- The two planes of tokens (R57). -/
inductive Plane where
  | ctl
  | data
  deriving DecidableEq, Repr

/-- The issue classes of the PE's per-cycle mix (R19). -/
inductive IssueClass where
  | control
  | data
  | memory
  | channel
  deriving DecidableEq, Repr

/-- The fields of a matrix command besides CMD (R66). -/
structure MCmd where
  acc : BitVec 2
  a : BitVec 1
  aslot : BitVec 5
  bslot : BitVec 5
  chunks : BitVec 3
  mdim : BitVec 6
  ndim : BitVec 6
  fmt : BitVec 4
  cspec : BitVec 26
  deriving DecidableEq, Repr

end Sys2Proof
end

