-- ==== Sys2Proof/Syntax.lean ====
section
/-! DEFINITION. The instructions and steps of Flaique version 1: one constructor for every row of
spec/opcode_table.json, in the table's order.

A constructor of a 32-bit word carries the row's fields as the table letters them (`t`, `u` are the targets
T1, T0 of R20; `q`, `p`, `d` are SEQ, PD, SD of R30). A matrix command carries the frame fields of R66, an AG word
the fields of R298. A step of the device that no word encodes carries the place or the entry of a pending
list that it concerns, and the values the outside world supplies with it. -/

namespace Sys2Proof

/-- What a request on a device link asks of an exported window (R365): a read of bytes, a write, an atomic of R144 with its code,
size in bytes, operand and a CAS's new value, a RED of R146, a merge of pairs into the fibre at that place with its mode (R150). -/
inductive RemoteOp where
  | read (n : Nat)
  | write (bytes : List (BitVec 8))
  | amo (code size : Nat) (b new : BitVec 64)
  | red (code size : Nat) (b : BitVec 64)
  | merge (mode : Nat) (pairs : List (Nat × Nat))
  deriving DecidableEq, Repr

/-- One constructor per row of the opcode table. -/
inductive Instr where
  /-- Exit to the block OFF words from the current header when the block completes (R91) -/
  | br (o : BitVec 23)
  /-- Exit to the block OFF words away and write the fall-through address to x.lnk at completion (R91) -/
  | call (o : BitVec 23)
  /-- Make the target block current and put the task in YIELDED at completion (R91) -/
  | ybr (o : BitVec 23)
  /-- Exit to the block whose word address arrives in slot a (R92) -/
  | brx
  /-- Exit to a computed block address and write the fall-through address to x.lnk (R92) -/
  | callx
  /-- Exit to the block named by x.lnk as committed before dispatch (R92) -/
  | ret
  /-- End the task, leaving it IDLE with its registers kept (R94) -/
  | tend
  /-- Complete the block, then raise the TRAP fault with the code from slot a (R95) -/
  | trap
  /-- Let the block complete, then stop the task in FAULTED with code 0x31 (R96) -/
  | bkpt
  /-- Send the committed value of a g register at dispatch, or wait while it is pending for a copy (R97) -/
  | get (g : BitVec 6) (t : BitVec 9) (u : BitVec 9)
  /-- Send a sign-extended 16-bit immediate at dispatch (R98) -/
  | movi (i : BitVec 16) (u : BitVec 9)
  /-- Shift operand a left by 16 and OR in a zero-extended immediate (R98) -/
  | movhi (i : BitVec 16) (u : BitVec 9)
  /-- Pass operand a to both targets (R99) -/
  | flowMov (t : BitVec 9) (u : BitVec 9)
  /-- Send the data to T1 or T0 by the condition and send nothing to the other side (R23) -/
  | steerD (t : BitVec 9) (u : BitVec 9)
  /-- Send the data to one side by the condition and null to the other side (R23) -/
  | steerN (t : BitVec 9) (u : BitVec 9)
  /-- Pass on the first non-null token of two slots (R22) -/
  | flowMerge (t : BitVec 9) (u : BitVec 9)
  /-- Send null to both targets whatever the trigger holds (R99) -/
  | flowNull (t : BitVec 9) (u : BitVec 9)
  /-- Pass operand a once both slots have arrived (R99) -/
  | flowJoin (t : BitVec 9) (u : BitVec 9)
  /-- Pass a when the condition in c is non-zero, else b (R99) -/
  | sel (t : BitVec 9) (u : BitVec 9)
  /-- Take or peek the oldest token of a control or pulse port, waiting while it is empty (R204) -/
  | recv (p : BitVec 6) (e : BitVec 1) (t : BitVec 9) (u : BitVec 9)
  /-- Arrive at a local barrier once earlier memory operations are performed at paddock scope (R207) -/
  | arrive (b : BitVec 7) (t : BitVec 9) (u : BitVec 9)
  /-- Arrive at a local barrier at once, ordering nothing (R207) -/
  | arriveRlx (b : BitVec 7) (t : BitVec 9) (u : BitVec 9)
  /-- Wait for the completion of the recorded or current barrier phase and send its number (R208) -/
  | wait (b : BitVec 7) (t : BitVec 9) (u : BitVec 9)
  /-- Set a barrier's count, optionally reset it, and set its REM flag (R206) -/
  | barcfg (b : BitVec 7) (t : BitVec 9) (u : BitVec 9)
  /-- Send an arrival, with or without release, to a barrier of another PE of the paddock (R209) -/
  | rarrive (e : BitVec 2) (t : BitVec 9) (u : BitVec 9)
  /-- The target PE applies a remote arrival, or drops it and writes a noted record when REM is 0 (R209) -/
  | remoteArrivalApply (k : Nat)
  /-- Take the next index of the task's range, or steal a range, or return null (R210) -/
  | rnext (t : BitVec 9) (u : BitVec 9)
  /-- A victim PE answers a steal request by splitting its range, forwarding it, or replying empty (R211) -/
  | stealRequest (k : Nat)
  /-- The reply to a steal reaches the waiting RNEXT, which takes the stolen range or returns null (R210) -/
  | stealReply (k : Nat)
  /-- Send the value a special register held at dispatch (R100) -/
  | getx (x : BitVec 7) (t : BitVec 9) (u : BitVec 9)
  /-- Write a special register at completion and pass the operand on (R101) -/
  | putx (x : BitVec 7) (t : BitVec 9) (u : BitVec 9)
  /-- Perform one integer operation selected by the code at 64 or 32 bits (R103) -/
  | ialu (w : BitVec 1) (c : BitVec 6) (t : BitVec 9) (u : BitVec 9)
  /-- Add a sign-extended immediate to operand a (R105) -/
  | addi (i : BitVec 16) (u : BitVec 9)
  /-- AND operand a with a zero-extended immediate (R105) -/
  | andi (i : BitVec 16) (u : BitVec 9)
  /-- OR operand a with a zero-extended immediate (R105) -/
  | ori (i : BitVec 16) (u : BitVec 9)
  /-- XOR operand a with a zero-extended immediate (R105) -/
  | xori (i : BitVec 16) (u : BitVec 9)
  /-- Shift operand a left by a 6-bit immediate (R105) -/
  | shli (i : BitVec 6) (u : BitVec 9)
  /-- Shift operand a logically right by a 6-bit immediate (R105) -/
  | shri (i : BitVec 6) (u : BitVec 9)
  /-- Shift operand a arithmetically right by a 6-bit immediate (R105) -/
  | sari (i : BitVec 6) (u : BitVec 9)
  /-- Give 1 when operand a equals the sign-extended immediate (R105) -/
  | cmpeqi (i : BitVec 16) (u : BitVec 9)
  /-- Give 1 when operand a is signed-less than the sign-extended immediate (R105) -/
  | cmplti (i : BitVec 16) (u : BitVec 9)
  /-- Give 1 when operand a is unsigned-less than the zero-extended immediate (R105) -/
  | cmpltui (i : BitVec 16) (u : BitVec 9)
  /-- Multiply operand a by a sign-extended immediate, keeping the low 64 bits (R105) -/
  | muli (i : BitVec 16) (u : BitVec 9)
  /-- Perform one scalar floating-point operation in F32, F16 or BF16 with RNE (R106) -/
  | falu (f : BitVec 3) (c : BitVec 4) (t : BitVec 9) (u : BitVec 9)
  /-- Perform one F32 floating-point operation rounded by x.rm (R106) -/
  | faluDyn (c : BitVec 4) (t : BitVec 9) (u : BitVec 9)
  /-- Convert one scalar between formats with the rounding and SAT of the word (R109) -/
  | cvt (d : BitVec 4) (s : BitVec 4) (h : BitVec 2) (a : BitVec 1) (m : BitVec 2) (u : BitVec 9)
  /-- Convert a float to an integer with the rounding in x.rm (R110) -/
  | cvtx (d : BitVec 4) (s : BitVec 4) (u : BitVec 9)
  /-- Switch one cluster bank between cache, scratchpad and FIFO modes and send a trigger when done (R218) -/
  | bmode (t : BitVec 9) (u : BitVec 9)
  /-- Check and write a shape record into x.shpN at once (R287) -/
  | mshape (n : BitVec 3) (f : BitVec 4) (t : BitVec 9) (u : BitVec 9)
  /-- Fork a shaped copy to the cluster copy unit and mark its token register pending or write a negative code (R288) -/
  | acopy (g : BitVec 6) (t : BitVec 9) (u : BitVec 9)
  /-- Once the token register is free, the queue has room and earlier operations are performed, the copy is checked and taken by the copy unit (R288) -/
  | copyStart (k : Nat)
  /-- A copy into a ring reserves the next free slot, waiting while none is free (R292) -/
  | ringReserve (k : Nat)
  /-- When every byte is written the copy unit writes 0 to the token register and releases waiting GETs (R289) -/
  | copyComplete (k : Nat)
  /-- Wait for a published ring slot and deliver its address or sequence number (R296) -/
  | rbwait (s : BitVec 1) (t : BitVec 9) (u : BitVec 9)
  /-- Release the oldest delivered ring slot and send a freed-slot notice to the producer (R296) -/
  | rbrel (t : BitVec 9) (u : BitVec 9)
  /-- Check a ring handle and geometry and open the ring unbound (R296) -/
  | rbopen (t : BitVec 9) (u : BitVec 9)
  /-- Wait for producer writes in flight, discard undelivered slots, unbind and close the ring (R296) -/
  | rbclose (t : BitVec 9) (u : BitVec 9)
  /-- Load a sign-extended byte (R139) -/
  | ldb (q : BitVec 5) (p : BitVec 2) (d : BitVec 2) (o : BitVec 7) (u : BitVec 9)
  /-- Load a zero-extended byte (R139) -/
  | ldbz (q : BitVec 5) (p : BitVec 2) (d : BitVec 2) (o : BitVec 7) (u : BitVec 9)
  /-- Load a sign-extended halfword (R139) -/
  | ldh (q : BitVec 5) (p : BitVec 2) (d : BitVec 2) (o : BitVec 7) (u : BitVec 9)
  /-- Load a zero-extended halfword (R139) -/
  | ldhz (q : BitVec 5) (p : BitVec 2) (d : BitVec 2) (o : BitVec 7) (u : BitVec 9)
  /-- Load a sign-extended word (R139) -/
  | ldw (q : BitVec 5) (p : BitVec 2) (d : BitVec 2) (o : BitVec 7) (u : BitVec 9)
  /-- Load a zero-extended word (R139) -/
  | ldwz (q : BitVec 5) (p : BitVec 2) (d : BitVec 2) (o : BitVec 7) (u : BitVec 9)
  /-- Load a doubleword (R139) -/
  | ldd (q : BitVec 5) (p : BitVec 2) (d : BitVec 2) (o : BitVec 7) (u : BitVec 9)
  /-- Store the low byte of operand b (R140) -/
  | stb (q : BitVec 5) (p : BitVec 2) (d : BitVec 2) (o : BitVec 16)
  /-- Store the low halfword of operand b (R140) -/
  | sth (q : BitVec 5) (p : BitVec 2) (d : BitVec 2) (o : BitVec 16)
  /-- Store the low word of operand b (R140) -/
  | stw (q : BitVec 5) (p : BitVec 2) (d : BitVec 2) (o : BitVec 16)
  /-- Store the doubleword of operand b (R140) -/
  | std (q : BitVec 5) (p : BitVec 2) (d : BitVec 2) (o : BitVec 16)
  /-- A fired memory operation issues once its chain predecessor has issued, been nulled or is the block start (R31) -/
  | memoryIssue (pe slot : Nat)
  /-- A load's value returns from the home or a live cached copy and updates timestamps (R244) -/
  | loadResponse (pe slot : Nat) (cached : Bool)
  /-- Read-modify-write one word or doubleword at its home and return the old value (R144) -/
  | amo (q : BitVec 5) (p : BitVec 2) (d : BitVec 2) (c : BitVec 4) (z : BitVec 2) (e : BitVec 1) (u : BitVec 9)
  /-- Compare and swap one word or doubleword at its home, with arity 3 (R144) -/
  | amoCas (q : BitVec 5) (p : BitVec 2) (d : BitVec 2) (z : BitVec 2) (e : BitVec 1) (u : BitVec 9)
  /-- Perform an atomic at the home and deliver the old value to a port, memory or nowhere (R145) -/
  | amod (q : BitVec 5) (p : BitVec 2) (d : BitVec 2) (c : BitVec 4) (z : BitVec 2)
  /-- The old value of an AMOD is sent to its port or stored, or dropped with a noted record (R145) -/
  | amodDelivery (k : Nat)
  /-- Apply a commutative update without a result, at the home or a per-die partial line (R146) -/
  | red (q : BitVec 5) (p : BitVec 2) (d : BitVec 2) (c : BitVec 4) (z : BitVec 2) (e : BitVec 1)
  /-- A partial RED line evicted from its slice is sent home and applied for its die (R241) -/
  | partialLineEvict (k : Nat)
  /-- Deliver a trigger once earlier memory operations are performed at the scope, and with J once copies and scans are done (R147) -/
  | fence (q : BitVec 5) (p : BitVec 2) (d : BitVec 2) (e : BitVec 2) (j : BitVec 1) (u : BitVec 9)
  /-- Fold the fibre and probe one coordinate (R152) -/
  | fprb (q : BitVec 5) (p : BitVec 2) (d : BitVec 2) (u : BitVec 9)
  /-- Merge one pair into a fibre as one batch (R150) -/
  | fins (q : BitVec 5) (p : BitVec 2) (d : BitVec 2) (m : BitVec 2)
  /-- Check a fibre header, take its reservation from the pen and make it live (R149) -/
  | fnew (q : BitVec 5) (p : BitVec 2) (d : BitVec 2) (u : BitVec 9)
  /-- Discard partials, return every unit to the pen and clear the header state (R149) -/
  | fdel (q : BitVec 5) (p : BitVec 2) (d : BitVec 2) (u : BitVec 9)
  /-- Discard partials and every pair of a fibre, keeping its reservation (R149) -/
  | fclr (q : BitVec 5) (p : BitVec 2) (d : BitVec 2) (u : BitVec 9)
  /-- Fold the fibre and return its pair count (R149) -/
  | fcnt (q : BitVec 5) (p : BitVec 2) (d : BitVec 2) (u : BitVec 9)
  /-- Post the seal at every partial home, fold and seal the fibre (R149) -/
  | fseal (q : BitVec 5) (p : BitVec 2) (d : BitVec 2) (u : BitVec 9)
  /-- Clear the sealed bit of a fibre (R149) -/
  | funseal (q : BitVec 5) (p : BitVec 2) (d : BitVec 2) (u : BitVec 9)
  /-- Read one counter of a fibre header without folding (R149) -/
  | fstat (q : BitVec 5) (p : BitVec 2) (d : BitVec 2) (u : BitVec 9)
  /-- After earlier operations are performed, hand a graph launch to the Drover and return its code (R111) -/
  | glaunch (t : BitVec 9) (u : BitVec 9)
  /-- Emit a trace record when tracing is on, then send a trigger (R112) -/
  | note (t : BitVec 9) (u : BitVec 9)
  /-- Read one of the slot's event counters (R113) -/
  | perf (t : BitVec 9) (u : BitVec 9)
  /-- Start a wait of a given number of cycles (R114) -/
  | waitt (t : BitVec 9) (u : BitVec 9)
  /-- The count of a WAITT runs out and its trigger is delivered (R114) -/
  | waittExpire (pe slot idx : Nat)
  /-- After earlier operations are performed, start streaming a coordinate range of a fibre into a ring (R155) -/
  | fscan (t : BitVec 9) (u : BitVec 9)
  /-- With ring credit, the home folds the fibre and fills the next ring slot with pairs (R155) -/
  | fscanSlot (k : Nat)
  /-- Send the committed value of a vector register at dispatch (R118) -/
  | vget (v : BitVec 5) (t : BitVec 9) (u : BitVec 9)
  /-- Copy a scalar into every lane of a vector (R119) -/
  | splat (w : BitVec 2) (t : BitVec 9) (u : BitVec 9)
  /-- Read one lane out as a zero-extended scalar (R120) -/
  | vext (w : BitVec 2) (l : BitVec 5) (t : BitVec 9) (u : BitVec 9)
  /-- Pass a data token to both targets (R122) -/
  | vflowMov (t : BitVec 9) (u : BitVec 9)
  /-- Steer a data token by a control condition, sending nothing to the other side (R122) -/
  | vflowSteerD (t : BitVec 9) (u : BitVec 9)
  /-- Steer a data token by a control condition, sending null to the other side (R122) -/
  | vflowSteerN (t : BitVec 9) (u : BitVec 9)
  /-- Pass on the first non-null data token of two slots (R122) -/
  | vflowMerge (t : BitVec 9) (u : BitVec 9)
  /-- Send null data tokens to both targets (R122) -/
  | vflowNull (t : BitVec 9) (u : BitVec 9)
  /-- Pass data operand a once both slots have arrived (R122) -/
  | vflowJoin (t : BitVec 9) (u : BitVec 9)
  /-- Select each byte from a or b by bit 7 of the mask byte (R122) -/
  | vsel (t : BitVec 9) (u : BitVec 9)
  /-- Take or peek the oldest expanded token of a data port, waiting while it is empty (R123) -/
  | vrecv (p : BitVec 6) (e : BitVec 1) (t : BitVec 9) (u : BitVec 9)
  /-- Replace one lane of a vector with a scalar (R121) -/
  | vins (w : BitVec 2) (l : BitVec 5) (t : BitVec 9) (u : BitVec 9)
  /-- Apply one integer operation to every lane (R124) -/
  | vialu (w : BitVec 2) (c : BitVec 5) (t : BitVec 9) (u : BitVec 9)
  /-- Apply one floating-point operation to every lane with RNE (R126) -/
  | vfalu (f : BitVec 3) (c : BitVec 4) (t : BitVec 9) (u : BitVec 9)
  /-- Convert every lane, widening from a half or narrowing two sources (R128) -/
  | vcvt (d : BitVec 4) (s : BitVec 4) (h : BitVec 2) (a : BitVec 1) (m : BitVec 2) (u : BitVec 9)
  /-- Quantise a vector to Q8 or Q4 with a scale and zero point (R129) -/
  | vqnt (d : BitVec 4) (g : BitVec 2) (s : BitVec 4) (u : BitVec 9)
  /-- Dequantise Q8 or Q4 lanes to F32 or F16 (R130) -/
  | vdqnt (d : BitVec 4) (g : BitVec 2) (s : BitVec 4) (u : BitVec 9)
  /-- Scale INT32 partials and add them to F32 accumulators by the fused rule (R131) -/
  | vscacc (k : BitVec 1) (t : BitVec 9) (u : BitVec 9)
  /-- Rearrange lanes by the selected permutation (R132) -/
  | vperm (w : BitVec 2) (c : BitVec 5) (t : BitVec 9) (u : BitVec 9)
  /-- Reduce a vector to a scalar by the selected reduction (R133) -/
  | vred (f : BitVec 3) (c : BitVec 4) (t : BitVec 9) (u : BitVec 9)
  /-- Load one 64-byte line as a data token (R141) -/
  | vld (q : BitVec 5) (p : BitVec 2) (d : BitVec 2) (o : BitVec 7) (u : BitVec 9)
  /-- Store one data token as a 64-byte line (R141) -/
  | vst (q : BitVec 5) (p : BitVec 2) (d : BitVec 2) (o : BitVec 16)
  /-- Load lanes from addresses a fixed stride apart (R142) -/
  | vlds (q : BitVec 5) (p : BitVec 2) (d : BitVec 2) (w : BitVec 2) (u : BitVec 9)
  /-- Store lanes to addresses a fixed stride apart (R142) -/
  | vsts (q : BitVec 5) (p : BitVec 2) (d : BitVec 2) (w : BitVec 2)
  /-- Gather 16 words at 32-bit offsets from a base (R143) -/
  | vgath (q : BitVec 5) (p : BitVec 2) (d : BitVec 2) (u : BitVec 9)
  /-- Scatter 16 words to 32-bit offsets from a base (R143) -/
  | vscat (q : BitVec 5) (p : BitVec 2) (d : BitVec 2)
  /-- Fold the fibre and read the next eight pairs at or above a cursor (R153) -/
  | vfrd (q : BitVec 5) (p : BitVec 2) (d : BitVec 2) (u : BitVec 9)
  /-- Merge a vector of pairs into a fibre as one batch (R150) -/
  | vfmrg (q : BitVec 5) (p : BitVec 2) (d : BitVec 2) (m : BitVec 2)
  /-- Fold the fibre and probe 16 coordinates for their values (R152) -/
  | vfprb (q : BitVec 5) (p : BitVec 2) (d : BitVec 2) (u : BitVec 9)
  /-- Fold the fibre and probe 16 coordinates for hits (R152) -/
  | vfhit (q : BitVec 5) (p : BitVec 2) (d : BitVec 2) (u : BitVec 9)
  /-- Find for each pair of a the partner value in b with the same coordinate (R154) -/
  | vmatch (u : BitVec 9)
  /-- A token on a wake port moves an IDLE or YIELDED task to READY (R15) -/
  | wakeTask (pe slot : Nat)
  /-- A free block frame is given to the READY task chosen by pass count, priority and age (R177) -/
  | blockDispatch (pe : Nat)
  /-- With one exit, W outputs and every memory slot resolved, the block commits its writes and its exit takes effect (R25) -/
  | blockComplete (pe slot : Nat)
  /-- 2^24 cycles pass between dispatch and completion and the block raises WATCHDOG (R28) -/
  | blockWatchdog (pe slot : Nat)
  /-- Every slot's program timestamp rises by at least one in each 256 cycles (R244) -/
  | ptsTick
  /-- A send is accepted when every link of its output has credit and is copied into each (R163) -/
  | linkSendAccept (pe slot k : Nat)
  /-- A token's flits reach the consumer, are expanded and held in the input (R166) -/
  | tokenArrive (l : Nat)
  /-- A credit returned by the consumer reaches the producer after the hop count (R164) -/
  | creditReturn (l : Nat)
  /-- A pulse reaches its consumer and raises the pulse count (R173) -/
  | pulseArrive (l : Nat)
  /-- A flit fails its CRC eight times or is not allowed, and configurations through the hop end with POISON (R349) -/
  | linkFlitError (l : Nat)
  /-- A counter runs one pass of indices, at start, per input token or per outer index (R189) -/
  | elemCnt (pos slot : Nat)
  /-- A STEER element routes its data by the condition (R190) -/
  | elemSteer (pos slot : Nat)
  /-- A MERGE element passes arriving tokens or the selected input (R190) -/
  | elemMerge (pos slot : Nat)
  /-- A JOIN element consumes one token from each input and passes input 0's (R190) -/
  | elemJoin (pos slot : Nat)
  /-- A REPL element sends REP splatted copies of a control token (R191) -/
  | elemRepl (pos slot : Nat)
  /-- A WIN element takes a row token and emits the vertical window when it is complete (R192) -/
  | elemWin (pos slot : Nat)
  /-- A token on WIN input 1 resets the counters and discards held rows (R192) -/
  | elemWinFrame (pos slot : Nat)
  /-- A MAXR element sends the largest magnitude after each block (R193) -/
  | elemMaxr (pos slot : Nat)
  /-- A DLY element passes tokens through an elastic FIFO (R193) -/
  | elemDly (pos slot : Nat)
  /-- A CVT element quantises a block by its maximum and optionally emits the scale (R194) -/
  | elemCvt (pos slot : Nat)
  /-- An XFM element transposes, packs, unpacks, shuffles or expands a group (R195) -/
  | elemXfm (pos slot : Nat)
  /-- A stream-read MEM element starts a pass that reads its region as T stood at the start token (R228) -/
  | memStreamReadPass (pos slot : Nat)
  /-- A stream-write MEM element writes a token at the next line of its region (R196) -/
  | memStreamWrite (pos slot : Nat)
  /-- A random MEM element loads the line at an offset and returns it in request order (R196) -/
  | memRandomLoad (pos slot : Nat)
  /-- A random MEM element stores a data token at an offset (R196) -/
  | memRandomStore (pos slot : Nat)
  /-- An ordered-update MEM element applies its operation lane by lane to a line (R196) -/
  | memOrderedUpdate (pos slot : Nat)
  /-- The holder of a region empties its coalescing buffer and passes the region on output 7 (R197) -/
  | memHandover (pos slot : Nat)
  /-- A token on input 3 gives a MEM element its region (R197) -/
  | memRegionReceive (pos slot : Nat)
  /-- Add A times B transposed into an accumulator, chunk by chunk (R273) -/
  | mma (c : MCmd)
  /-- Compute a group's zero-point-corrected INT32 partial into an accumulator (R274) -/
  | mmai (c : MCmd)
  /-- Compute output rows from value-grouped weight rows streamed on port 3 (R276) -/
  | mgv (c : MCmd)
  /-- Gather a CSR block into packed A and B slots and return the next cursor (R281) -/
  | mgat (c : MCmd)
  /-- Scale INT32 partials of one accumulator into the F32 cells of another (R275) -/
  | msca (c : MCmd)
  /-- Drain accumulator rows, converted and scaled, down a route-table entry (R282) -/
  | mdrn (c : MCmd)
  /-- Store accumulator rows to memory as one atomic tile access (R272) -/
  | mstt (c : MCmd)
  /-- Load a tile from memory into operand slots as one access (R271) -/
  | mldt (c : MCmd)
  /-- Fill operand slots from a row stream (R270) -/
  | mldp (c : MCmd)
  /-- Claim a run of operand slots and zero them (R269) -/
  | mclm (c : MCmd)
  /-- Release a run of operand slots (R269) -/
  | mrel (c : MCmd)
  /-- Set cells of an accumulator to +0 (R269) -/
  | mzro (c : MCmd)
  /-- Transpose a square block of operand slots (R283) -/
  | mtrn (c : MCmd)
  /-- A command token with an unallocated or reserved value is consumed, raises ILLEGAL 7 and blocks further commands (R66) -/
  | matrixReservedCommand (w : BitVec 64)
  /-- Stream tiles from memory into a ring or an edge output port (R298) -/
  | agstrm (kind : BitVec 2) (count : BitVec 16) (adv : BitVec 1) (tstr : BitVec 32)
  /-- Take tiles from a ring or edge input port and write them to memory (R298) -/
  | agsink (kind : BitVec 2) (count : BitVec 16) (adv : BitVec 1) (tstr : BitVec 32)
  /-- Copy tiles from memory to memory (R298) -/
  | agcopy (count : BitVec 16) (adv : BitVec 1)
  /-- Fill tiles with a 64-bit pattern (R298) -/
  | agfill (count : BitVec 16) (adv : BitVec 1) (tstr : BitVec 32)
  /-- Load, decrement or deactivate a loop counter and jump back (R298) -/
  | agloop (lid : BitVec 2) (n back : BitVec 16)
  /-- Wait until K pulses have been consumed from a pulse port (R298) -/
  | agwait (k : BitVec 16) (port : BitVec 3)
  /-- End the stream program once its writes are performed at paddock scope (R298) -/
  | agend
  /-- An unallocated or bad AG word stops its program with ILLEGAL 8 (R67) -/
  | agUnallocatedWord (w : BitVec 64)
  /-- A write to LGO launches LGRAPH with LARGS under the written tag (R302) -/
  | lgo (p t : Nat) (tag : BitVec 32)
  /-- The Drover places a configuration on a free run of strips, loads it, opens links and releases sources (R179) -/
  | knodeDispatch (l n : Nat)
  /-- The Drover starts an AG program in a free program place of the selected AG (R304) -/
  | cnodeDispatch (l n : Nat)
  /-- The Drover folds and writes back read ranges, empties result rows and starts the row units (R306) -/
  | nnodeDispatch (l n : Nat)
  /-- With room in the notify queue and predecessors fenced, the Drover writes a notify entry and signals the vector (R307) -/
  | hnodeNotify (l n : Nat)
  /-- The Drover completes a join node, applying a release arrival for EKIND 1 (R305) -/
  | enode (l n : Nat)
  /-- A finished node releases each successor once; a failed node cancels its launch (R305) -/
  | nodeDone (l n : Nat)
  /-- Every 1 ms a waiting node's effective priority rises by one (R304) -/
  | nodeAgeing (l n : Nat)
  /-- A configuration reaches rest, its writes are performed, the KNODE is done and its strips are freed (R180) -/
  | configComplete (c : Nat)
  /-- No token moves on a configuration's links for 2^24 cycles and it is terminated (R182) -/
  | configWatchdog (c : Nat)
  /-- Compute dot products in the bank lanes and write four result rows (R314) -/
  | nmdot (u : Nat)
  /-- Add a scaled vector to operand columns in place (R315) -/
  | nmaxpy (u : Nat)
  /-- Write encrypted zero rows to page rows of an NM page (R316) -/
  | nmfill (u : Nat)
  /-- Copy page rows between NM pages by clone or through the buffer (R317) -/
  | nmcopy (u : Nat)
  /-- The row unit opens rows, makes its column accesses and closes them as one indivisible step (R319) -/
  | nmRowStep (u : Nat)
  /-- At a row boundary with requests waiting, the unit suspends while the controller serves them (R320) -/
  | nmBoundary (u : Nat)
  /-- A node is cancelled, stops at a step boundary and poisons rows still empty (R322) -/
  | nmCancel (u : Nat)
  /-- On a request to enter self-refresh or power-down, the controller spills live unit state and enters it (R324) -/
  | nmSpill (u : Nat)
  /-- On exit from self-refresh the controller restores the spilled state before other work (R324) -/
  | nmRestore (u : Nat)
  /-- A page response repeats the walk for its tokens or raises PAGE, or is discarded as stale (R341) -/
  | pageResponse (k : Nat) (ok : Bool) (entries : List (Nat × BitVec 64))
  /-- DRLIM passes without a page response and the Drover drains the configurations withheld on it (R343) -/
  | drainLimit (k : Nat)
  /-- The Drover stops a configuration's sources and sends bellwethers on their outputs and start ports (R350) -/
  | drainStart (c why : Nat)
  /-- A marker reaches an input; when all inputs are marked the part saves and sends markers on (R351) -/
  | bellwetherArrive (e : Nat)
  /-- Every part has saved; the Drover waits for performance, writes the checkpoint and frees the strips (R354) -/
  | drainComplete (c : Nat)
  /-- A drain not complete 1.5 s after the first bellwether terminates the configuration (R354) -/
  | drainWatchdog (c : Nat)
  /-- The Drover places a checkpoint again, writes saved state, re-presents tokens and resumes sources (R357) -/
  | restore (k : Nat)
  /-- At the end of a slice the Drover drains the outgoing tenant and activates the next (R358) -/
  | tenantSliceEnd (p : Nat)
  /-- Root firmware invalidates TLB entries by page, tenant or all (R337) -/
  | tlbInvalidate (p : Nat) (page tenant : Option Nat) (entries : List (Nat × BitVec 64))
  /-- A TCTL write with action RESUME dispatches the held task's block at TADDR (R346) -/
  | tctlResume (p t : Nat) (w : BitVec 64)
  /-- A TCTL write with action ABORT terminates the held task's configuration (R346) -/
  | tctlAbort (p t : Nat) (w : BitVec 64)
  /-- A STOP of a tenant terminates its work, commits its last writes, writes the report and sets STOPPED (R378) -/
  | stop (p t : Nat)
  /-- A REPORT command writes a dirty-page report and clears the listed DIRTY bits (R377) -/
  | report (p t : Nat)
  /-- A host write to a window register without behaviour of its own stores the value (R389) -/
  | registerWrite (fn : Option (Nat × Nat)) (off size : Nat) (v : BitVec 64)
  /-- A host read of paddock memory is served at the home (R251) -/
  | hostMemoryRead (p t va n : Nat)
  /-- A posted host write to paddock memory is performed at its home (R251) -/
  | hostMemoryWrite (p t va : Nat) (bytes : List (BitVec 8))
  /-- TDISP LOCK of a TDI freezes the paddock's strips, tables, keys, pens, tweak mode and scope policy (R374) -/
  | tdispLock (p t : Nat)
  /-- TDISP START moves a locked TDI to RUN (R368) -/
  | tdispStart (p t : Nat)
  /-- An ATS invalidation completes once accesses that used the entry are performed at system scope (R368) -/
  | atsInvalidate (p t page : Nat)
  /-- A function-level reset of a VF stops its tenant, raises FGEN and resets its registers (R385) -/
  | vfFlr (p t : Nat)
  /-- A hot reset or PF0 reset stops every tenant, reports link-down and restarts bring-up (R385) -/
  | pfReset
  /-- The device leaves reset through the bring-up steps to READY (R381) -/
  | powerOnReset (failed : List Nat)
  /-- A bring-up step passes its limit and bring-up ends as a failed verification (R381) -/
  | bootStepTimeout (die stage : Nat)
  /-- A die's SPDM responder answers a request with its identity and measurements (R380) -/
  | spdmRequest (die index : Nat)
  /-- The hub answers a PLDM platform monitoring request (R388) -/
  | pldmMonitor
  /-- The hub takes a new image by PLDM firmware update for verification at the next reset (R388) -/
  | pldmFirmwareUpdate (die index keyHash version : Nat) (sigOk : Bool) (body : List (BitVec 8)) (fuse : Bool)
  /-- A request arriving on a device link is checked against the export table and served or refused (R365) -/
  | remoteRequest (dev pad ten win off : Nat) (op : RemoteOp)
  /-- A target device is lost; translations are invalidated and in-flight accesses complete with REMOTE 2 (R366) -/
  | linkDown (dev : Nat)
  /-- Root firmware copies a line to its new home and marks it moved at the old one (R367) -/
  | pageMigrate (old new : Nat)
  /-- An access answered with a redirect is issued again at the new home (R367) -/
  | redirect (pe slot : Nat)
  /-- A lost die crossing raises FATAL 2 in every paddock that spans it (R349) -/
  | dieCrossingLost (b : Nat)
  /-- At the end of a sampling phase firmware writes the new code table into the non-current slot (R226) -/
  | packedTableUpdate (p die : Nat) (lengths : List Nat)
  /-- Edge tiles recode PACKED blocks still using a slot before it is rewritten (R226) -/
  | packedSweep (p die : Nat)
  /-- The loader checks an image, maps its sections, applies relocations and creates its fibres (R87) -/
  | imageLoad (p t : Nat) (file : List (BitVec 8)) (bases : List Nat) (entries : List (Nat × BitVec 64)) (ranges : List (Nat × Nat × Nat × Nat × Nat × Nat))
  /-- Root firmware creates a paddock with its strips, keys, pens and checkpoint area (R384) -/
  | paddockCreate (ent : BitVec 128) (ranges : List (BitVec 256)) (limited : List Nat)
    (exports : List (Nat × Nat × List (Nat × Nat) × Bool))
  /-- A core-rail surge above 6,000 A lasts 10 µs and issue is throttled (R386) -/
  | powerSurgeLimit
  /-- A die passes its first junction threshold and issue is throttled (R387) -/
  | thermalThreshold1 (die : Nat)
  /-- A die passes its second threshold; its paddocks end with FATAL 3 and its channels enter self-refresh (R387) -/
  | thermalThreshold2 (die : Nat)
  /-- A store, atomic or merge request reaches its home, is written there, and the home answers the issuer, whose pts takes the new wts (R244) -/
  | storePerformed (pe slot k : Nat)
  /-- A cached copy stops being live 4,096 cycles after its grant, letting waiting fences and arrivals see writes as performed at paddock scope (R245) -/
  | leaseExpiry (line : Nat)
  /-- Firmware restores the route to a device after link-down, so later accesses no longer raise REMOTE subcode 1 (R366) -/
  | routeRestore (dev : Nat)
  /-- Root firmware tears down a paddock at the PF0 driver's request, cancelling its NNODEs and freeing its strips (R384) -/
  | paddockTeardown (p : Nat)
  /-- Root firmware reassigns a VF to a tenant slot, and its FGEN rises by one (R369) -/
  | vfReassignment (p t : Nat)
  /-- Root firmware changes a paddock's service mode while it holds no configuration, NNODE or checkpoint (R371) -/
  | serviceModeChange (p mode : Nat)
  /-- Field firmware turns tracing of a paddock on or off and places its trace buffer (R112) -/
  | traceEnable (p : Nat) (on : Bool) (cap : Nat)
  /-- The core-rail current falls to 6,000 A or below, and surge throttling ends (R386) -/
  | currentBelowLimit
  /-- A die cools to 5 °C below its first threshold, and thermal throttling ends (R387) -/
  | junctionBelowThreshold (die : Nat)
  deriving DecidableEq, Repr

end Sys2Proof
end

