-- ==== Sys2Proof/Machine/Allocated.lean ====
section
/-! DEFINITION. What each allocated instruction word is: the legal values of its fields (R58 to R63), its operand
slots and their planes, its result plane, its targets and its memory link fields (R20, R30, R57 to R60), and
its issue class (R19, R58, R59). The reserved values of a matrix command (R66) and of an AG word (R67). -/

namespace Sys2Proof

/-- The exit-class instructions (R18, R24, R25): BR, CALL, YBR, BRX, CALLX, RET, TEND, TRAP. -/
def Instr.isExit : Instr → Bool
  | .br _ | .call _ | .ybr _ | .brx | .callx | .ret | .tend | .trap => true
  | _ => false

/-- The two merges, which fire on their first non-null token (R22, R99, R122). -/
def Instr.isMerge : Instr → Bool
  | .flowMerge _ _ | .vflowMerge _ _ => true
  | _ => false

/-- Arity of an IALU code (R60). -/
def ialuArity (c : Nat) : Nat :=
  if 29 ≤ c ∧ c ≤ 37 ∨ 39 ≤ c then 1 else if c = 38 then 3 else 2

/-- Arity of a FALU code (R60). -/
def faluArity (c : Nat) : Nat :=
  if c = 4 ∨ c = 8 ∨ c = 9 ∨ c = 14 then 1 else if c = 5 then 3 else 2

/-- Arity of a VIALU code (R60). -/
def vialuArity (c : Nat) : Nat :=
  if c = 16 ∨ c = 23 ∨ c = 24 then 1 else if c = 22 then 3 else 2

/-- Arity of a VFALU code (R60). -/
def vfaluArity (c : Nat) : Nat :=
  if c = 7 ∨ c = 8 ∨ c = 9 ∨ c = 13 ∨ c = 14 then 1 else if c = 3 then 3 else 2

/-- The width in bits of an element format (R35); 0 for the reserved code 15. -/
def fmtWidth : Nat → Nat
  | 0 | 11 | 12 => 32
  | 1 | 2 | 9 | 10 => 16
  | 3 | 4 | 5 | 6 => 8
  | 7 | 8 => 4
  | 13 | 14 => 64
  | _ => 0

/-- Special-register numbers that R13 lists. -/
def sprListed (x : Nat) : Bool :=
  x ≤ 0x0D || x = 0x10 || x = 0x11 || x = 0x12 || (0x18 ≤ x && x ≤ 0x1F) || x = 0x20 || x = 0x28 || x = 0x30 || x = 0x31

/-- Special registers that R13 marks RO. -/
def sprReadOnly (x : Nat) : Bool :=
  sprListed x && !(x = 0x08 || x = 0x09 || x = 0x0A || x = 0x10 || x = 0x11 || x = 0x12 || x = 0x31)

/-- The ILLEGAL subcode 2 or 4 of the format fields of CVT and VCVT (R61, R109, R128): the lowest that applies. -/
def cvtBad (d s h : Nat) : Option Nat :=
  if 2 ≤ h ∨ h = 1 ∧ (s = 13 ∨ s = 14) then some 2
  else if d = 6 ∨ d = 8 ∨ d = 15 ∨ s = 6 ∨ s = 8 ∨ s = 15 then some 4 else none

/-- The half field of VCVT must be 00 unless it widens (R128). Format code 15, which has no width, counts as narrower than every format:
with half 01 it gives subcode 2 as the destination and 4 as the source. Log 46. -/
def vcvtBad (d s h : Nat) : Option Nat :=
  if 2 ≤ h ∨ h = 1 ∧ fmtWidth d ≤ fmtWidth s then some 2
  else if d = 6 ∨ d = 8 ∨ d = 15 ∨ s = 6 ∨ s = 8 ∨ s = 15 then some 4 else none

/-- Fields with their legal values: subcode 2 for any other value (R110, R129, R130). Code 15 is such a value, and by R61 a
format code 15 as well: of 2 and 4 R64 reports the lower. Log 46. -/
def fmtBad (vals : List (Nat × List Nat)) : Option Nat :=
  if vals.any (fun v => !v.2.contains v.1) then some 2 else none

/-- Lane limits of VEXT and VINS (R59, R120, R121). -/
def laneBad (w l : Nat) : Option Nat :=
  if w = 2 ∧ 15 < l ∨ w = 3 ∧ 7 < l then some 6 else none

/-- The size field of an atomic (R62): sizes 2 and 3, and size 1 with operations 10 to 12, are unallocated. -/
def sizeBad (c z : Nat) : Bool := 2 ≤ z || (z = 1 && (10 ≤ c && c ≤ 12))

/-- The operation and width or format field of VRED (R60). -/
def vredBad (f c : Nat) : Bool :=
  if c = 4 ∨ c = 5 ∨ c = 6 then 3 ≤ f else if c ≤ 7 then f % 2 = 1 || f / 2 = 3 else true

/-- Step 1 of R64 for a word whose opcode row is allocated: the lowest ILLEGAL subcode among 2, 4, 5 and 6 that its
field values give, or none (R58 to R64). A FALU with format 3 and an AMO with operation 9 are the words of FALU.DYN
and of AMO_CAS and stand under those constructors. -/
def Instr.badSub : Instr → Option Nat
  | .rarrive e _ _ => if 2 ≤ e.toNat then some 2 else none
  | .getx x _ _ => if sprListed x.toNat then none else some 5
  | .putx x _ _ => if sprListed x.toNat then none else some 5
  | .ialu _ c _ _ => if 43 ≤ c.toNat then some 2 else none
  | .falu f c _ _ => if 3 ≤ f.toNat ∨ c.toNat = 15 then some 2 else none
  | .faluDyn c _ _ => if c.toNat = 15 then some 2 else none
  | .cvt d s h _ _ _ => cvtBad d.toNat s.toNat h.toNat
  | .cvtx d s _ => fmtBad [(d.toNat, [5, 7, 9, 10, 11, 12, 13, 14]), (s.toNat, [0, 1, 2, 3, 4])]
  | .mshape _ f _ _ => if f.toNat = 15 then some 4 else none
  | .amo _ _ _ c z _ _ => if c.toNat = 9 ∨ 13 ≤ c.toNat ∨ sizeBad c.toNat z.toNat then some 2 else none
  | .amoCas _ _ _ z _ _ => if 2 ≤ z.toNat then some 2 else none
  | .amod _ _ _ c z => if c.toNat = 9 ∨ 13 ≤ c.toNat ∨ sizeBad c.toNat z.toNat then some 2 else none
  | .red _ _ _ c z _ =>
    if c.toNat = 8 ∨ c.toNat = 9 ∨ 13 ≤ c.toNat ∨ sizeBad c.toNat z.toNat then some 2 else none
  | .fence _ _ _ e _ _ => if e.toNat = 3 then some 2 else none
  | .fins _ _ _ m => if m.toNat = 3 then some 2 else none
  | .vext w l _ _ => laneBad w.toNat l.toNat
  | .vins w l _ _ => laneBad w.toNat l.toNat
  | .vialu w c _ _ => if w.toNat = 3 ∨ 25 ≤ c.toNat then some 2 else none
  | .vfalu f c _ _ => if 3 ≤ f.toNat ∨ c.toNat = 15 ∨ c.toNat = 13 ∧ f.toNat = 0 then some 2 else none
  | .vcvt d s h _ _ _ => vcvtBad d.toNat s.toNat h.toNat
  | .vqnt d g s _ => if g.toNat = 3 then some 2 else fmtBad [(d.toNat, [6, 8]), (s.toNat, [0, 1, 2])]
  | .vdqnt d g s _ => if g.toNat = 3 then some 2 else fmtBad [(d.toNat, [0, 1]), (s.toNat, [6, 8])]
  | .vperm _ c _ _ => if 9 ≤ c.toNat then some 2 else none
  | .vred f c _ _ => if vredBad f.toNat c.toNat then some 2 else none
  | .vfmrg _ _ _ m => if m.toNat = 3 then some 2 else none
  | _ => none

/-- The planes of the operand slots a, b and c of an instruction, in that order; the length is its arity (R58 to
R60). -/
def Instr.slots : Instr → List Plane
  | .br _ | .call _ | .ybr _ | .brx | .callx | .ret | .tend | .trap | .bkpt | .movhi _ _ | .flowMov _ _
  | .flowNull _ _ | .recv _ _ _ _ | .arrive _ _ _ | .arriveRlx _ _ _ | .wait _ _ _ | .rarrive _ _ _
  | .rnext _ _ | .putx _ _ _ | .addi _ _ | .andi _ _ | .ori _ _ | .xori _ _ | .shli _ _ | .shri _ _
  | .sari _ _ | .cmpeqi _ _ | .cmplti _ _ | .cmpltui _ _ | .muli _ _ | .cvt _ _ _ _ _ _ | .cvtx _ _ _
  | .rbwait _ _ _ | .rbrel _ _ | .rbclose _ _ | .ldb _ _ _ _ _ | .ldbz _ _ _ _ _ | .ldh _ _ _ _ _
  | .ldhz _ _ _ _ _ | .ldw _ _ _ _ _ | .ldwz _ _ _ _ _ | .ldd _ _ _ _ _ | .fence _ _ _ _ _ _ | .fdel _ _ _ _
  | .fclr _ _ _ _ | .fcnt _ _ _ _ | .fseal _ _ _ _ | .funseal _ _ _ _ | .note _ _ | .perf _ _ | .waitt _ _
  | .splat _ _ _ | .vrecv _ _ _ _ | .vld _ _ _ _ _ => [.ctl]
  | .get _ _ _ | .movi _ _ | .getx _ _ _ | .vget _ _ _ => []
  | .steerD _ _ | .steerN _ _ | .flowMerge _ _ | .flowJoin _ _ | .barcfg _ _ _ | .bmode _ _
  | .mshape _ _ _ _ | .rbopen _ _ | .stb _ _ _ _ | .sth _ _ _ _ | .stw _ _ _ _ | .std _ _ _ _
  | .amo _ _ _ _ _ _ _ | .red _ _ _ _ _ _ | .fprb _ _ _ _ | .fnew _ _ _ _ | .fstat _ _ _ _ | .glaunch _ _
  | .vlds _ _ _ _ _ | .vfrd _ _ _ _ => [.ctl, .ctl]
  | .sel _ _ | .acopy _ _ _ | .amoCas _ _ _ _ _ _ | .amod _ _ _ _ _ | .fins _ _ _ _ | .fscan _ _ => [.ctl, .ctl, .ctl]
  | .vext _ _ _ _ | .vflowMov _ _ | .vflowNull _ _ | .vred _ _ _ _ => [.data]
  | .vflowSteerD _ _ | .vflowSteerN _ _ | .vins _ _ _ _ => [.data, .ctl]
  | .vflowMerge _ _ | .vflowJoin _ _ | .vmatch _ => [.data, .data]
  | .vsel _ _ => [.data, .data, .data]
  | .vqnt _ _ _ _ | .vdqnt _ _ _ _ => [.data, .ctl, .ctl]
  | .vst _ _ _ _ | .vgath _ _ _ _ | .vfmrg _ _ _ _ | .vfprb _ _ _ _ | .vfhit _ _ _ _ => [.ctl, .data]
  | .vsts _ _ _ _ => [.ctl, .ctl, .data]
  | .vscat _ _ _ => [.ctl, .data, .data]
  | .ialu _ c _ _ => List.replicate (ialuArity c.toNat) .ctl
  | .falu _ c _ _ => List.replicate (faluArity c.toNat) .ctl
  | .faluDyn c _ _ => List.replicate (faluArity c.toNat) .ctl
  | .vialu _ c _ _ => List.replicate (vialuArity c.toNat) .data
  | .vfalu _ c _ _ => List.replicate (vfaluArity c.toNat) .data
  | .vcvt d s _ _ _ _ => if fmtWidth d.toNat < fmtWidth s.toNat then [.data, .data] else [.data]
  | .vscacc k _ _ => [.data, .data, if k = 0 then .ctl else .data]
  | .vperm _ c _ _ => if c.toNat = 5 then [.data, .ctl] else if c.toNat = 8 then [.data, .data, .ctl] else [.data, .data]
  | _ => []

/-- The plane of the result, or none for an instruction with no result (R57 to R59). -/
def Instr.result : Instr → Option Plane
  | .vget _ _ _ | .splat _ _ _ | .vflowMov _ _ | .vflowSteerD _ _ | .vflowSteerN _ _ | .vflowMerge _ _
  | .vflowNull _ _ | .vflowJoin _ _ | .vsel _ _ | .vrecv _ _ _ _ | .vins _ _ _ _ | .vialu _ _ _ _
  | .vfalu _ _ _ _ | .vcvt _ _ _ _ _ _ | .vqnt _ _ _ _ | .vdqnt _ _ _ _ | .vscacc _ _ _ | .vperm _ _ _ _
  | .vld _ _ _ _ _ | .vlds _ _ _ _ _ | .vgath _ _ _ _ | .vfrd _ _ _ _ | .vfprb _ _ _ _ | .vfhit _ _ _ _
  | .vmatch _ => some .data
  | .br _ | .call _ | .ybr _ | .brx | .callx | .ret | .tend | .trap | .bkpt | .stb _ _ _ _ | .sth _ _ _ _
  | .stw _ _ _ _ | .std _ _ _ _ | .amod _ _ _ _ _ | .red _ _ _ _ _ _ | .fins _ _ _ _ | .vst _ _ _ _
  | .vsts _ _ _ _ | .vscat _ _ _ | .vfmrg _ _ _ _ => none
  | .get _ _ _ | .movi _ _ | .movhi _ _ | .flowMov _ _ | .steerD _ _ | .steerN _ _ | .flowMerge _ _
  | .flowNull _ _ | .flowJoin _ _ | .sel _ _ | .recv _ _ _ _ | .arrive _ _ _ | .arriveRlx _ _ _
  | .wait _ _ _ | .barcfg _ _ _ | .rarrive _ _ _ | .rnext _ _ | .getx _ _ _ | .putx _ _ _ | .ialu _ _ _ _
  | .addi _ _ | .andi _ _ | .ori _ _ | .xori _ _ | .shli _ _ | .shri _ _ | .sari _ _ | .cmpeqi _ _
  | .cmplti _ _ | .cmpltui _ _ | .muli _ _ | .falu _ _ _ _ | .faluDyn _ _ _ | .cvt _ _ _ _ _ _ | .cvtx _ _ _
  | .bmode _ _ | .mshape _ _ _ _ | .acopy _ _ _ | .rbwait _ _ _ | .rbrel _ _ | .rbopen _ _ | .rbclose _ _
  | .ldb _ _ _ _ _ | .ldbz _ _ _ _ _ | .ldh _ _ _ _ _ | .ldhz _ _ _ _ _ | .ldw _ _ _ _ _ | .ldwz _ _ _ _ _
  | .ldd _ _ _ _ _ | .amo _ _ _ _ _ _ _ | .amoCas _ _ _ _ _ _ | .fence _ _ _ _ _ _ | .fprb _ _ _ _
  | .fnew _ _ _ _ | .fdel _ _ _ _ | .fclr _ _ _ _ | .fcnt _ _ _ _ | .fseal _ _ _ _ | .funseal _ _ _ _
  | .fstat _ _ _ _ | .glaunch _ _ | .note _ _ | .perf _ _ | .waitt _ _ | .fscan _ _ | .vext _ _ _ _
  | .vred _ _ _ _ => some .ctl
  | _ => none

/-- The target fields that a word carries, T1 first (R20, R21, R55). -/
def Instr.targets : Instr → List Tgt
  | .get _ t u | .flowMov t u | .steerD t u | .steerN t u | .flowMerge t u | .flowNull t u | .flowJoin t u
  | .sel t u | .recv _ _ t u | .arrive _ t u | .arriveRlx _ t u | .wait _ t u | .barcfg _ t u
  | .rarrive _ t u | .rnext t u | .getx _ t u | .putx _ t u | .ialu _ _ t u | .falu _ _ t u | .faluDyn _ t u
  | .bmode t u | .mshape _ _ t u | .acopy _ t u | .rbwait _ t u | .rbrel t u | .rbopen t u | .rbclose t u
  | .glaunch t u | .note t u | .perf t u | .waitt t u | .fscan t u | .vget _ t u | .splat _ t u
  | .vext _ _ t u | .vflowMov t u | .vflowSteerD t u | .vflowSteerN t u | .vflowMerge t u | .vflowNull t u
  | .vflowJoin t u | .vsel t u | .vrecv _ _ t u | .vins _ _ t u | .vialu _ _ t u | .vfalu _ _ t u
  | .vscacc _ t u | .vperm _ _ t u | .vred _ _ t u => [t, u]
  | .movi _ u | .movhi _ u | .addi _ u | .andi _ u | .ori _ u | .xori _ u | .shli _ u | .shri _ u
  | .sari _ u | .cmpeqi _ u | .cmplti _ u | .cmpltui _ u | .muli _ u | .cvt _ _ _ _ _ u | .cvtx _ _ u
  | .ldb _ _ _ _ u | .ldbz _ _ _ _ u | .ldh _ _ _ _ u | .ldhz _ _ _ _ u | .ldw _ _ _ _ u | .ldwz _ _ _ _ u
  | .ldd _ _ _ _ u | .amo _ _ _ _ _ _ u | .amoCas _ _ _ _ _ u | .fence _ _ _ _ _ u | .fprb _ _ _ u
  | .fnew _ _ _ u | .fdel _ _ _ u | .fclr _ _ _ u | .fcnt _ _ _ u | .fseal _ _ _ u | .funseal _ _ _ u
  | .fstat _ _ _ u | .vcvt _ _ _ _ _ u | .vqnt _ _ _ u | .vdqnt _ _ _ u | .vld _ _ _ _ u | .vlds _ _ _ _ u
  | .vgath _ _ _ u | .vfrd _ _ _ u | .vfprb _ _ _ u | .vfhit _ _ _ u | .vmatch u => [u]
  | _ => []

/-- The link fields SEQ, PD and SD of a memory instruction (R30), none for the others (R55). -/
def Instr.link : Instr → Option (Nat × Nat × Nat)
  | .ldb q p d _ _ | .ldbz q p d _ _ | .ldh q p d _ _ | .ldhz q p d _ _ | .ldw q p d _ _ | .ldwz q p d _ _
  | .ldd q p d _ _ | .stb q p d _ | .sth q p d _ | .stw q p d _ | .std q p d _ | .amo q p d _ _ _ _
  | .amoCas q p d _ _ _ | .amod q p d _ _ | .red q p d _ _ _ | .fence q p d _ _ _ | .fprb q p d _
  | .fins q p d _ | .fnew q p d _ | .fdel q p d _ | .fclr q p d _ | .fcnt q p d _ | .fseal q p d _
  | .funseal q p d _ | .fstat q p d _ | .vld q p d _ _ | .vst q p d _ | .vlds q p d _ _ | .vsts q p d _
  | .vgath q p d _ | .vscat q p d | .vfrd q p d _ | .vfmrg q p d _ | .vfprb q p d _ | .vfhit q p d _ => some (q.toNat, p.toNat, d.toNat)
  | _ => none

/-- The instructions of arity 0, which become ready at dispatch (R17, R63). -/
def Instr.atDispatch : Instr → Bool
  | .get _ _ _ | .movi _ _ | .getx _ _ _ | .vget _ _ _ => true
  | _ => false

/-- The issue class of an instruction (R19, R58, R59). -/
def Instr.issueClass : Instr → IssueClass
  | .recv _ _ _ _ | .arrive _ _ _ | .arriveRlx _ _ _ | .wait _ _ _ | .barcfg _ _ _ | .rarrive _ _ _
  | .rnext _ _ | .vrecv _ _ _ _ => .channel
  | .ldb _ _ _ _ _ | .ldbz _ _ _ _ _ | .ldh _ _ _ _ _ | .ldhz _ _ _ _ _ | .ldw _ _ _ _ _ | .ldwz _ _ _ _ _
  | .ldd _ _ _ _ _ | .stb _ _ _ _ | .sth _ _ _ _ | .stw _ _ _ _ | .std _ _ _ _ | .amo _ _ _ _ _ _ _
  | .amoCas _ _ _ _ _ _ | .amod _ _ _ _ _ | .red _ _ _ _ _ _ | .fence _ _ _ _ _ _ | .fprb _ _ _ _
  | .fins _ _ _ _ | .fnew _ _ _ _ | .fdel _ _ _ _ | .fclr _ _ _ _ | .fcnt _ _ _ _ | .fseal _ _ _ _
  | .funseal _ _ _ _ | .fstat _ _ _ _ | .vld _ _ _ _ _ | .vst _ _ _ _ | .vlds _ _ _ _ _ | .vsts _ _ _ _
  | .vgath _ _ _ _ | .vscat _ _ _ | .vfrd _ _ _ _ | .vfmrg _ _ _ _ | .vfprb _ _ _ _ | .vfhit _ _ _ _
  | .bmode _ _ | .acopy _ _ _ | .rbwait _ _ _ | .rbrel _ _ | .rbopen _ _ | .rbclose _ _ | .glaunch _ _
  | .fscan _ _ => .memory
  | .vget _ _ _ | .splat _ _ _ | .vext _ _ _ _ | .vflowMov _ _ | .vflowSteerD _ _ | .vflowSteerN _ _
  | .vflowMerge _ _ | .vflowNull _ _ | .vflowJoin _ _ | .vsel _ _ | .vins _ _ _ _ | .vialu _ _ _ _
  | .vfalu _ _ _ _ | .vcvt _ _ _ _ _ _ | .vqnt _ _ _ _ | .vdqnt _ _ _ _ | .vscacc _ _ _ | .vperm _ _ _ _
  | .vred _ _ _ _ | .vmatch _ => .data
  | _ => .control

/-- The latencies of IALU codes (R115). -/
def ialuLatency (w c : Nat) : Nat :=
  if c = 22 ∨ c = 23 ∨ c = 24 ∨ c = 38 then 3 else if 25 ≤ c ∧ c ≤ 28 then (if w = 0 then 18 else 10) else 1

/-- The latencies of FALU codes (R115); a division and a square root are longer in F32 than in F16 and BF16. -/
def faluLatency (f c : Nat) : Nat :=
  if c = 3 then (if f = 0 then 11 else 7) else if c = 4 then (if f = 0 then 13 else 8) else if c ≤ 7 then 4 else 2

/-- The latencies of VFALU codes (R134). -/
def vfaluLatency (f c : Nat) : Nat :=
  if c = 6 then (if f = 0 then 14 else 9) else if c = 7 then (if f = 0 then 16 else 10)
  else if c ≤ 5 then 4 else if c ≤ 12 then 2 else 6

/-- The cycles after its issue in which a result reaches its targets (R115, R134); none where the timing is not architected
(R391). -/
def Instr.latency : Instr → Option Nat
  | .get _ _ _ | .movi _ _ | .movhi _ _ | .flowMov _ _ | .steerD _ _ | .steerN _ _ | .flowMerge _ _ | .flowNull _ _
  | .flowJoin _ _ | .sel _ _ | .getx _ _ _ | .putx _ _ _ | .addi _ _ | .andi _ _ | .ori _ _ | .xori _ _ | .shli _ _
  | .shri _ _ | .sari _ _ | .cmpeqi _ _ | .cmplti _ _ | .cmpltui _ _ | .note _ _ | .perf _ _ | .vget _ _ _ | .splat _ _ _
  | .vext _ _ _ _ | .vins _ _ _ _ | .vflowMov _ _ | .vflowSteerD _ _ | .vflowSteerN _ _ | .vflowMerge _ _ | .vflowNull _ _
  | .vflowJoin _ _ | .vsel _ _ => some 1
  | .ialu w c _ _ => some (ialuLatency w.toNat c.toNat)
  | .muli _ _ | .cvt _ _ _ _ _ _ | .cvtx _ _ _ | .vcvt _ _ _ _ _ _ | .vqnt _ _ _ _ | .vdqnt _ _ _ _ => some 3
  | .falu f c _ _ => some (faluLatency f.toNat c.toNat)
  | .faluDyn c _ _ => some (faluLatency 0 c.toNat)
  | .vialu _ c _ _ => some (if c.toNat = 4 ∨ c.toNat = 5 ∨ c.toNat = 22 then 3 else 1)
  | .vfalu f c _ _ => some (vfaluLatency f.toNat c.toNat)
  | .vperm _ _ _ _ | .vmatch _ => some 2
  | .vscacc _ _ _ => some 4
  | .vred f c _ _ => some (if c.toNat = 4 then (if f.toNat = 0 then 12 else 15) else 2)
  | _ => none

/-- The units of a PE that are not pipelined (R115, R134). -/
inductive LongUnit where
  | divide
  | root
  | vector
  deriving DecidableEq, Repr

/-- The unit that an instruction needs for as long as its latency (R115, R134). -/
def Instr.longUnit : Instr → Option LongUnit
  | .ialu _ c _ _ => if 25 ≤ c.toNat ∧ c.toNat ≤ 28 then some .divide else none
  | .falu _ c _ _ | .faluDyn c _ _ => if c.toNat = 3 then some .divide else if c.toNat = 4 then some .root else none
  | .vfalu _ c _ _ => if c.toNat = 6 ∨ c.toNat = 7 then some .vector else none
  | _ => none

/-- A target field that R20 makes illegal whatever the block holds: slot code 11, `v` with [5] = 1, a special code other
than 0x00. -/
def tgtBad (x : Nat) : Bool :=
  if x < 256 then x / 64 = 3
  else if x < 320 then false
  else if x < 384 then x % 64 ≥ 32
  else if x < 448 then false else x ≠ 0x1C0

/-- The ILLEGAL subcode of a word that no row of the opcode map takes (R58 to R64): 1 for an unallocated OP, 3 for a
non-discard target of an instruction without a result (OP 0x02), else 2. -/
def illegalSub (w : Nat) : Nat :=
  let op := w / 2 ^ 25
  if op = 0 ∨ 0x1C ≤ op ∧ op ≤ 0x1F ∨ op = 0x23 ∨ op = 0x2F ∨ 0x3D ≤ op ∧ op ≤ 0x42 ∨ 0x49 ≤ op ∧ op ≤ 0x4F
      ∨ op = 0x5E ∨ op = 0x5F ∨ 0x65 ≤ op then 1
  else if op = 0x02 ∧ w / 2 ^ 18 % 128 ≤ 5 then 3 else 2

/-- The opcodes of arity 0: a word of theirs that is not an instruction would fire at dispatch (R63). -/
def illegalAtDispatch (w : Nat) : Bool :=
  let op := w / 2 ^ 25
  op = 0x03 || op = 0x04 || op = 0x0E || op = 0x43

end Sys2Proof
end

