-- ==== Sys2Proof/Machine/Flags.lean ====
section
/-! DEFINITION. Every number format, every rounding and every flag computation (R35 to R54, R106 to R110, R126 to R131):
exact arithmetic on integers and one rounding at the end. A result is a pair of bits and flags; the flags are
NX 1, UF 2, OF 4, DZ 8, NV 16 (R13, R48). -/

namespace Sys2Proof.Machine

/-- Bits and flags. -/
abbrev Res := Nat × Nat

def fNX : Nat := 1
def fUF : Nat := 2
def fOF : Nat := 4
def fDZ : Nat := 8
def fNV : Nat := 16

/-- Exponent width, mantissa width and bias of a floating-point format (R38): F32, F16, BF16, E4M3, E5M2. -/
def fpLayout : Nat → Nat × Nat × Nat
  | 0 => (8, 23, 127)
  | 1 => (5, 10, 15)
  | 2 => (8, 7, 127)
  | 3 => (4, 3, 7)
  | _ => (5, 2, 15)

def mantBits (f : Nat) : Nat := (fpLayout f).2.1
def expBits (f : Nat) : Nat := (fpLayout f).1
/-- The exponent of the smallest subnormal (R38). -/
def expMin (f : Nat) : Int := 1 - (fpLayout f).2.2 - mantBits f

/-- The canonical NaN (R38, R40). -/
def canonNaN (f : Nat) : Nat :=
  if f = 3 then 0x7F else (2 ^ expBits f - 1) * 2 ^ mantBits f + 2 ^ (mantBits f - 1)

/-- The sign bit in its place. -/
def signBit (f : Nat) (neg : Bool) : Nat := if neg then 2 ^ (expBits f + mantBits f) else 0

/-- Infinity of a sign; E4M3 has none and gives the canonical NaN (R38, R46). -/
def infBits (f : Nat) (neg : Bool) : Nat :=
  if f = 3 then canonNaN f else signBit f neg + (2 ^ expBits f - 1) * 2 ^ mantBits f

/-- The largest finite value of a sign (R38). -/
def maxFinite (f : Nat) (neg : Bool) : Nat :=
  signBit f neg + if f = 3 then 0x7E else (2 ^ expBits f - 1) * 2 ^ mantBits f - 1

/-- What a floating-point bit pattern stands for: (−1)^neg × m × 2^e when finite (R38). -/
inductive Num where
  | nan
  | inf (neg : Bool)
  | fin (neg : Bool) (m : Nat) (e : Int)
  deriving DecidableEq, Repr

/-- Reads the low bits of `x` in format `f` (R37, R38). -/
def readNum (f x : Nat) : Num :=
  let mb := mantBits f
  let m := x % 2 ^ mb
  let ex := x / 2 ^ mb % 2 ^ expBits f
  let neg := x / 2 ^ (mb + expBits f) % 2 = 1
  if f = 3 then
    if ex = 15 ∧ m = 7 then .nan
    else if ex = 0 then .fin neg m (expMin f) else .fin neg (2 ^ mb + m) (expMin f + (ex - 1 : Nat))
  else if ex = 2 ^ expBits f - 1 then (if m = 0 then .inf neg else .nan)
  else if ex = 0 then .fin neg m (expMin f) else .fin neg (2 ^ mb + m) (expMin f + (ex - 1 : Nat))

/-- `m × 2^e`, with a non-zero remainder below it when `sticky`, rounded to a multiple of 2^q (R45); and whether that was
inexact. -/
def roundAt (mode : Nat) (neg : Bool) (m : Nat) (e : Int) (sticky : Bool) (q : Int) : Nat × Bool :=
  if q ≤ e then
    let r := m <<< (e - q).toNat
    -- exact unless something lies below
    if sticky then
      (if mode = 2 ∧ neg ∨ mode = 3 ∧ !neg then r + 1 else r, true)
    else (r, false)
  else
    let sh := (q - e).toNat
    let r := m >>> sh
    let rest := m - r <<< sh
    let half := 1 <<< (sh - 1)
    let inexact := rest ≠ 0 || sticky
    let up :=
      if mode = 0 then half < rest || rest = half && (sticky || r % 2 = 1)
      else if mode = 1 then false
      else if mode = 2 then neg && inexact
      else !neg && inexact
    (if up then r + 1 else r, inexact)

/-- Bits of the value `r × 2^q`, where `r` has at most the full mantissa width or is the carry above it. -/
def packFinite (f : Nat) (neg : Bool) (r : Nat) (q : Int) : Nat :=
  let mb := mantBits f
  let (r, q) := if 2 ^ (mb + 1) ≤ r then (r / 2, q + 1) else (r, q)
  signBit f neg + if r < 2 ^ mb then r else (q - expMin f + 1).toNat * 2 ^ mb + (r - 2 ^ mb)

/-- The overflow result of a mode (R45, R46). -/
def overflowBits (f mode : Nat) (sat neg : Bool) : Nat :=
  if sat ∧ (f = 3 ∨ f = 4) then maxFinite f neg
  else if mode = 0 ∨ mode = 2 ∧ neg ∨ mode = 3 ∧ !neg then infBits f neg
  else maxFinite f neg

/-- Round(mode) of a non-zero exact value (R45, R46): once, with the overflow and tininess tests on the value rounded
with unbounded exponent. With `sticky`, `m` carries at least three bits more than the mantissa. -/
def roundNum (f mode : Nat) (sat neg : Bool) (m : Nat) (e : Int) (sticky : Bool) : Res :=
  let p := mantBits f + 1
  let qu : Int := e + (m.log2 + 1 : Nat) - p
  let (ru, _) := roundAt mode neg m e sticky qu
  let q := max qu (expMin f)
  let (r, inexact) := roundAt mode neg m e sticky q
  let mx := maxFinite f false
  let mm := if f = 3 then 14 else 2 ^ p - 1
  let qmax : Int := expMin f + (mx / 2 ^ mantBits f - 1 : Nat)
  -- compares r × 2^q with the largest finite value mm × 2^qmax
  let ovf := if qmax ≤ q then mm < r <<< (q - qmax).toNat else mm <<< (qmax - q).toNat < r
  let tiny := if qu ≤ expMin f then ru < 2 ^ (p - 1 + (expMin f - qu).toNat) else false
  if ovf then (overflowBits f mode sat neg, fOF ||| fNX)
  else (packFinite f neg r q, (if inexact then fNX else 0) ||| if tiny && inexact then fUF else 0)

/-- Round of a signed exact value; a zero takes the sign `zneg`. -/
def roundInt (f mode : Nat) (sat zneg : Bool) (m : Int) (e : Int) : Res :=
  if m = 0 then (signBit f zneg, 0) else roundNum f mode sat (decide (m < 0)) m.natAbs e false

/-- A finite value as a signed integer times a power of two. -/
def signed (neg : Bool) (m : Nat) : Int := if neg then -(m : Int) else m

/-- The exact sum of two scaled integers. -/
def scaledAdd (x y : Int × Int) : Int × Int :=
  let e := min x.2 y.2
  (x.1 * 2 ^ (x.2 - e).toNat + y.1 * 2 ^ (y.2 - e).toNat, e)

/-- The sum of two numbers (R45, R48): opposite infinities give NaN and NV; an exact zero sum of opposite signs is +0, −0
in RDN. -/
def addNum (f mode : Nat) (x y : Num) : Res :=
  match x, y with
  | .nan, _ | _, .nan => (canonNaN f, 0)
  | .inf s, .inf t => if s = t then (infBits f s, 0) else (canonNaN f, fNV)
  | .inf s, _ | _, .inf s => (infBits f s, 0)
  | .fin s m e, .fin t n k =>
    let r := scaledAdd (signed s m, e) (signed t n, k)
    let z := if m = 0 ∧ n = 0 ∧ s = t then s else mode = 2
    roundInt f mode false z r.1 r.2

/-- The negation of a number. -/
def Num.negate : Num → Num
  | .nan => .nan
  | .inf s => .inf (!s)
  | .fin s m e => .fin (!s) m e

/-- The exact product; 0 × ∞ is NaN and raises NV (R48). -/
def mulExact (x y : Num) : Num × Nat :=
  match x, y with
  | .nan, _ | _, .nan => (.nan, 0)
  | .inf s, .inf t => (.inf (s ^^ t), 0)
  | .inf s, .fin t n _ => if n = 0 then (.nan, fNV) else (.inf (s ^^ t), 0)
  | .fin s m _, .inf t => if m = 0 then (.nan, fNV) else (.inf (s ^^ t), 0)
  | .fin s m e, .fin t n k => (.fin (s ^^ t) (m * n) (e + k), 0)

/-- Rounds a number to a format (R45, R46 without the infinities of E4M3). -/
def roundOf (f mode : Nat) (sat : Bool) : Num → Res
  | .nan => (canonNaN f, 0)
  | .inf s => (infBits f s, 0)
  | .fin s m e => if m = 0 then (signBit f s, 0) else roundNum f mode sat s m e false

def fAdd (f mode x y : Nat) : Res := addNum f mode (readNum f x) (readNum f y)
def fSub (f mode x y : Nat) : Res := addNum f mode (readNum f x) (readNum f y).negate
def fMul (f mode x y : Nat) : Res :=
  let r := mulExact (readNum f x) (readNum f y)
  let q := roundOf f mode false r.1
  (q.1, q.2 ||| r.2)

/-- The fused product and sum with one rounding; 0 × ∞ raises NV even when the addend is NaN (R107). -/
def fmaNum (f mode : Nat) (x y z : Num) : Res :=
  let r := mulExact x y
  let q := addNum f mode r.1 z
  (q.1, q.2 ||| r.2)

def fFma (f mode x y z : Nat) : Res := fmaNum f mode (readNum f x) (readNum f y) (readNum f z)

/-- The quotient m / n of two non-zero integers times 2^e, rounded once. -/
def roundQuot (f mode : Nat) (sat neg : Bool) (m n : Nat) (e : Int) : Res :=
  let k := 70 + n.log2
  let q := (m <<< k) / n
  roundNum f mode sat neg q (e - k) ((m <<< k) % n ≠ 0)

def fDiv (f mode x y : Nat) : Res :=
  match readNum f x, readNum f y with
  | .nan, _ | _, .nan => (canonNaN f, 0)
  | .inf _, .inf _ => (canonNaN f, fNV)
  | .inf s, .fin t _ _ => (infBits f (s ^^ t), 0)
  | .fin s _ _, .inf t => (signBit f (s ^^ t), 0)
  | .fin s m e, .fin t n k =>
    if n = 0 then (if m = 0 then (canonNaN f, fNV) else (infBits f (s ^^ t), fDZ))
    else if m = 0 then (signBit f (s ^^ t), 0)
    else roundQuot f mode false (s ^^ t) m n (e - k)

/-- The integer square root, bit by bit from `2^n`. -/
def isqrtFrom : Nat → Nat → Nat → Nat
  | 0, _, r => r
  | n + 1, x, r =>
    let c := r + 2 ^ n
    isqrtFrom n x (if c * c ≤ x then c else r)

def isqrt (x : Nat) : Nat := isqrtFrom (x.log2 / 2 + 1) x 0

def fSqrt (f mode x : Nat) : Res :=
  match readNum f x with
  | .nan => (canonNaN f, 0)
  | .inf s => if s then (canonNaN f, fNV) else (infBits f false, 0)
  | .fin s m e =>
    if m = 0 then (signBit f s, 0)
    else if s then (canonNaN f, fNV)
    else
      -- an even exponent and at least 60 extra bits
      let (m, e) := if e % 2 = 0 then (m <<< 80, e - 80) else (m <<< 81, e - 81)
      let r := isqrt m
      roundNum f mode false false r (e / 2) (r * r ≠ m)

/-- −1, 0 or 1 as the order of two finite or infinite numbers, zeros equal (R48). -/
def cmpNum (x y : Num) : Int :=
  match x, y with
  | .inf s, .inf t => if s = t then 0 else if s then -1 else 1
  | .inf s, _ => if s then -1 else 1
  | _, .inf t => if t then 1 else -1
  | .fin s m e, .fin t n k => (scaledAdd (signed s m, e) (-(signed t n), k)).1.sign
  | _, _ => 0

/-- Whether −0 stands where +0 would. -/
def Num.isNeg : Num → Bool
  | .nan => false
  | .inf s => s
  | .fin s _ _ => s

/-- The smaller (or larger) number, −0 below +0; the canonical NaN if either is NaN; no flag (R107). -/
def fMinMax (f : Nat) (larger : Bool) (x y : Nat) : Res :=
  let a := readNum f x
  let b := readNum f y
  if a = .nan ∨ b = .nan then (canonNaN f, 0)
  else
    let lt := cmpNum a b < 0 || (cmpNum a b = 0 && a.isNeg && !b.isNeg)
    (if lt ^^ larger then x % 2 ^ fmtWidth f else y % 2 ^ fmtWidth f, 0)

def fAbs (f x : Nat) : Res :=
  if readNum f x = .nan then (canonNaN f, 0) else (x % 2 ^ (fmtWidth f - 1), 0)

def fNeg (f x : Nat) : Res :=
  if readNum f x = .nan then (canonNaN f, 0)
  else (x % 2 ^ (fmtWidth f - 1) + signBit f (!(readNum f x).isNeg), 0)

def isNaN (f x : Nat) : Bool := readNum f x = .nan

/-- FCMPEQ: no flag (R107). -/
def fEq (f x y : Nat) : Bool × Nat :=
  (!isNaN f x && !isNaN f y && cmpNum (readNum f x) (readNum f y) = 0, 0)

/-- FCMPLT and FCMPLE: NV with a NaN operand (R107). -/
def fLt (f x y : Nat) : Bool × Nat :=
  if isNaN f x || isNaN f y then (false, fNV) else (cmpNum (readNum f x) (readNum f y) < 0, 0)
def fLe (f x y : Nat) : Bool × Nat :=
  if isNaN f x || isNaN f y then (false, fNV) else (cmpNum (readNum f x) (readNum f y) ≤ 0, 0)

/-- The class mask of R108. -/
def fClass (f x : Nat) : Nat :=
  match readNum f x with
  | .nan => 2 ^ 8
  | .inf s => if s then 2 ^ 0 else 2 ^ 7
  | .fin s m _ =>
    if m = 0 then (if s then 2 ^ 3 else 2 ^ 4)
    else if m < 2 ^ mantBits f then (if s then 2 ^ 2 else 2 ^ 5)
    else if s then 2 ^ 1 else 2 ^ 6

/-- One FALU operation of R107 on the low bits of the operands; a comparison or FCLASS gives an integer. -/
def faluOp (f mode c a b d : Nat) : Res :=
  let ofB (r : Bool × Nat) : Res := (if r.1 then 1 else 0, r.2)
  match c with
  | 0 => fAdd f mode a b
  | 1 => fSub f mode a b
  | 2 => fMul f mode a b
  | 3 => fDiv f mode a b
  | 4 => fSqrt f mode a
  | 5 => fFma f mode a b d
  | 6 => fMinMax f false a b
  | 7 => fMinMax f true a b
  | 8 => fAbs f a
  | 9 => fNeg f a
  | 10 => ofB (fEq f a b)
  | 11 => ofB (fLt f a b)
  | 12 => ofB (fLe f a b)
  | 13 => (if isNaN f a || isNaN f b then 1 else 0, 0)
  | _ => (fClass f a, 0)

/-- 2^(2^−i) in fixed point with 128 fraction bits, for i = 1 to n: successive square roots of 2. -/
def exp2Roots : Nat → Nat → List Nat
  | 0, _ => []
  | n + 1, x => let r := isqrt (x <<< 128); r :: exp2Roots n r

/-- The product of the roots at the set bits of a fraction, its most significant bit first. -/
def exp2Frac : List Nat → Nat → Nat → Nat → Nat
  | [], _, _, acc => acc
  | r :: rs, w, frac, acc => exp2Frac rs (w - 1) frac (if frac / 2 ^ (w - 1) % 2 = 1 then (acc * r) >>> 128 else acc)

/-- VFEXP2: 2^a correctly rounded (R127). A power of a non-integer dyadic is irrational, so the fixed-point value carries
a remainder; its error lies far below the closest tie of F16 and BF16. -/
def fExp2 (f x : Nat) : Res :=
  match readNum f x with
  | .nan => (canonNaN f, 0)
  | .inf s => (if s then 0 else infBits f false, 0)
  | .fin s m e =>
    if m = 0 then roundNum f 0 false false 1 0 false
    else
      -- the value as an integer multiple of 2^−28; what lies below it rounds to one
      let v : Int := signed s m
      if m.log2 + e < -20 then
        (if s then roundNum f 0 false false (2 ^ 60 - 1) (-60) true else roundNum f 0 false false (2 ^ 60) (-60) true)
      else if 9 < m.log2 + e then
        (if s then roundNum f 0 false false 1 (-1000) true else (infBits f false, fOF ||| fNX))
      else
        let fx : Int := if 0 ≤ e + 28 then v * 2 ^ (e + 28).toNat else v / 2 ^ (-(e + 28)).toNat
        let whole := fx / 2 ^ 28
        let frac := (fx % 2 ^ 28).toNat
        if frac = 0 then roundNum f 0 false false 1 whole false
        else roundNum f 0 false false (exp2Frac (exp2Roots 28 (2 <<< 128)) 28 frac (1 <<< 128)) (whole - 128) true

/-- VFRCP: 1/a; ±0 gives ±∞ and DZ (R127, R48). -/
def fRcp (f x : Nat) : Res :=
  match readNum f x with
  | .nan => (canonNaN f, 0)
  | .inf s => (signBit f s, 0)
  | .fin s m e => if m = 0 then (infBits f s, fDZ) else roundQuot f 0 false s 1 m (-e)

/-- One VFALU operation of R127; a comparison lane is all ones or 0. -/
def vfaluOp (f c a b d : Nat) : Res :=
  let ofB (r : Bool × Nat) : Res := (if r.1 then 2 ^ fmtWidth f - 1 else 0, r.2)
  match c with
  | 0 => fAdd f 0 a b
  | 1 => fSub f 0 a b
  | 2 => fMul f 0 a b
  | 3 => fFma f 0 a b d
  | 4 => fMinMax f false a b
  | 5 => fMinMax f true a b
  | 6 => fDiv f 0 a b
  | 7 => fSqrt f 0 a
  | 8 => fAbs f a
  | 9 => fNeg f a
  | 10 => ofB (fEq f a b)
  | 11 => ofB (fLt f a b)
  | 12 => ofB (fLe f a b)
  | 13 => fExp2 f a
  | _ => fRcp f a

/-- Formats 0 to 4 are floating point (R35). -/
def isFloat (f : Nat) : Bool := f ≤ 4

/-- The signed integer formats (R35, R41). -/
def isSigned (f : Nat) : Bool := f = 5 || f = 7 || f = 9 || f = 11 || f = 13

/-- The range of an integer format (R41). -/
def intMin (f : Nat) : Int := if isSigned f then -(2 ^ (fmtWidth f - 1)) else 0
def intMax (f : Nat) : Int := if isSigned f then 2 ^ (fmtWidth f - 1) - 1 else 2 ^ fmtWidth f - 1

/-- The integer that the low bits of `x` hold in format `f` (R41). -/
def readInt (f x : Nat) : Int := if isSigned f then sgn (fmtWidth f) x else (x % 2 ^ fmtWidth f : Nat)

/-- A finite value rounded to an integer (R45), and whether that was inexact. -/
def roundToInt (mode : Nat) (neg : Bool) (m : Nat) (e : Int) : Int × Bool :=
  let r := roundAt mode neg m e false 0
  (signed neg r.1, r.2)

/-- One conversion of R47 and R46, as CVT, CVTX and VCVT make it (R109): the result in the width of `d`. An infinity from E5M2
to E5M2 with SAT set saturates by R46, though R109 passes equal formats unchanged: log 46. -/
def convert (d s mode : Nat) (sat : Bool) (x : Nat) : Res :=
  let w := fmtWidth d
  if isFloat s then
    if isFloat d then
      match readNum s x with
      | .nan => (canonNaN d, 0)
      | .inf g =>
        if sat ∧ (d = 3 ∨ d = 4) then (maxFinite d g, 0) else if d = 3 then (canonNaN d, fNV) else (infBits d g, 0)
      | .fin g m e => if m = 0 then (signBit d g, 0) else roundNum d mode sat g m e false
    else
      match readNum s x with
      | .nan => (0, fNV)
      | .inf g => (wrap w (if g then intMin d else intMax d), fNV)
      | .fin g m e =>
        -- far beyond every range, or a value whose rounding is exact arithmetic
        if 70 < m.log2 + e ∧ m ≠ 0 then (wrap w (if g then intMin d else intMax d), fNV)
        else
          let r := roundToInt mode g m e
          if r.1 < intMin d then (wrap w (intMin d), fNV)
          else if intMax d < r.1 then (wrap w (intMax d), fNV)
          else (wrap w r.1, if r.2 then fNX else 0)
  else
    let v := readInt s x
    if isFloat d then roundInt d mode sat false v 0
    else
      let v := if sat then max (intMin d) (min (intMax d) v) else v
      (wrap w v, 0)

/-- A converted scalar placed in a token (R37). -/
def placeScalar (d x : Nat) : Word := if isSigned d then sext (fmtWidth d) x else BitVec.ofNat 64 (x % 2 ^ fmtWidth d)

/-- Quantise of R43: `w` is 8 or 4, the scale an F16. -/
def quantise (f x scale zp w : Nat) : Res :=
  let top : Int := 2 ^ w - 1
  match readNum f x, readNum 1 scale with
  | .nan, _ | _, .nan | _, .inf _ => (zp, fNV)
  | v, .fin t n k =>
    if n = 0 then (zp, fNV)
    else
      match v with
      | .inf s => (if s ^^ t then 0 else 2 ^ w - 1, fNX)
      | .fin s m e =>
        if m = 0 then (min zp (2 ^ w - 1), 0)
        else
          -- the quotient with a remainder mark, rounded to an integer
          let kk := 40 + n.log2
          let q := (m <<< kk) / n
          let rem := (m <<< kk) % n ≠ 0
          let neg := s ^^ t
          let ex := e - k - kk
          if 20 < m.log2 + 1 + e - k - n.log2 then (if neg then 0 else 2 ^ w - 1, fNX)
          else
            let r := roundAt 0 neg q ex rem 0
            let y := signed neg r.1 + zp
            if y < 0 then (0, fNX)
            else if top < y then (2 ^ w - 1, fNX)
            else (y.toNat, if r.2 then fNX else 0)
      | .nan => (zp, fNV)

/-- Dequantise of R43 to F32 or F16. With q = zp the zero takes the scale's sign: log 46. -/
def dequantise (f q scale zp : Nat) : Res :=
  match readNum 1 scale with
  | .nan => (canonNaN f, 0)
  | .inf s => if q = zp then (canonNaN f, fNV) else (infBits f (s ^^ decide (q < zp)), 0)
  | .fin s m e =>
    roundInt f 0 false (s ^^ decide (q < zp)) (signed s m * ((q : Int) - zp)) e

/-- acc + partial × scale, fused (R53): F32 accumulator, exact INT32 partial, F16 scale. A partial of 0 counts as +0, and a
NaN acc takes an infinite scale with a partial of 0 without a flag: log 46. -/
def scaleAcc (acc : Nat) (part : Int) (scale : Nat) : Res :=
  match readNum 0 acc, readNum 1 scale with
  | .nan, _ | _, .nan => (canonNaN 0, 0)
  | a, sc => fmaNum 0 0 (.fin (decide (part < 0)) part.natAbs 0) sc a

/-- An exact sum of products under way (R50): NaN, the infinities met, whether every product was −0, and the finite part
as a scaled integer. -/
structure SumAcc where
  nan : Bool := false
  pinf : Bool := false
  ninf : Bool := false
  allNegZero : Bool := true
  m : Int := 0
  e : Int := 0
  flags : Nat := 0
  deriving DecidableEq, Repr

/-- Adds one product to an exact sum (R50). -/
def SumAcc.add (s : SumAcc) (p : Num × Nat) : SumAcc :=
  match p.1 with
  | .nan => { s with nan := true, flags := s.flags ||| p.2, allNegZero := false }
  | .inf g =>
    if g then { s with ninf := true, allNegZero := false } else { s with pinf := true, allNegZero := false }
  | .fin g m e =>
    let r := scaledAdd (s.m, s.e) (signed g m, e)
    { s with m := r.1, e := r.2, allNegZero := s.allNegZero && (g && m = 0) }

/-- The exact sum as a number, and its NV (R50). -/
def SumAcc.value (s : SumAcc) : Num × Nat :=
  if s.pinf && s.ninf then (.nan, s.flags ||| fNV)
  else if s.nan then (.nan, s.flags)
  else if s.pinf then (.inf false, s.flags)
  else if s.ninf then (.inf true, s.flags)
  else if s.m = 0 then (.fin s.allNegZero 0 0, s.flags)
  else (.fin (decide (s.m < 0)) s.m.natAbs s.e, s.flags)

/-- The exact sum of a list of products (R50). -/
def exactSum (ps : List (Num × Nat)) : Num × Nat := (ps.foldl SumAcc.add {}).value

/-- A number of the smaller format read for addition with F32 (R45: one rounding). -/
def addToF32 (acc : Nat) (s : Num × Nat) : Res :=
  let r := addNum 0 0 (readNum 0 acc) s.1
  (r.1, r.2 ||| s.2)

/-- One level of the pairwise tree of R52. -/
def treeLevel (f : Nat) : List Nat → List Nat × Nat
  | a :: b :: rest =>
    let r := fAdd f 0 a b
    let q := treeLevel f rest
    (r.1 :: q.1, r.2 ||| q.2)
  | l => (l, 0)

/-- The tree sum of R52 over `2^n` lanes. -/
def treeSum (f : Nat) : Nat → List Nat → Res
  | 0, l => (l.headD 0, 0)
  | n + 1, l =>
    let r := treeLevel f l
    let q := treeSum f n r.1
    (q.1, q.2 ||| r.2)

end Sys2Proof.Machine
end

