-- ==== Sys2Proof/Config.lean ====
section
/-! DEFINITION. What the spec leaves open: values without a body, which no proof can see. Each is applied to a counter of
State, to operands, or to a name, and stands in the assumption log entry it names. -/

namespace Sys2Proof.Config

/-- The lease length L − 1 of the n-th grant, 1 ≤ L ≤ 16 (R244). Log 7. -/
opaque leaseLen : Nat → Fin 16

/-- How far `x.pts` rises with time in the n-th span of 256 cycles, beyond the 1 that R244 requires. Log 8. -/
opaque ptsRise : Nat → Nat

/-- Where the n-th search for a free configuration identifier starts; the identifier is one not held (R179). Log 9. -/
opaque cfgIdent : Nat → Nat

/-- What the n-th choice takes among equals: a free unit of a pen (R232, log 14), the entry of a TLB tile or a translation cache
(R337, R366, R368, log 15), the line of an L2 set (R220, log 16), the hop of a link error (R349, log 48). -/
opaque victim : Nat → Nat

/-- Whether the n-th invariant load is served from a copy where one exists (R231). Log 18. -/
opaque invCopy : Nat → Bool

/-- The digest of a list of bytes, as the boot chain and the measurements compute it (R380, R382). Log 17. -/
opaque digest : List Byte → BitVec 256

/-- The n-th freshly generated memory encryption key (R373). Log 17. -/
opaque freshKey : Nat → BitVec 256

/-- What the n-th read through one key slot of a line that another slot has encrypted decrypts to (R373). Log 52. -/
opaque garbled : Nat → BitVec 512

/-- The host page that an I/O page of a function's tenant stands for, by paddock, tenant, page and how often the host has changed it
(R364, R368). Log 15. -/
opaque hostPage : Nat → Nat → Nat → Nat → BitVec 40

/-- What the n-th lookup at another device gives for a page of its windows: paddock, home tile, route (R366). Log 15. -/
opaque remotePage : Nat → BitVec 48

/-- The n-th reading of the package power and of the junction temperatures (R387, R389). Log 19. -/
opaque sensor : Nat → BitVec 64

/-- How many of every 16 issue cycles the n-th throttling skips, less one (R386). Log 19. -/
opaque skips : Nat → Fin 15

end Sys2Proof.Config
end

