-- ==== Sys2Proof/Decode.lean ====
section
/-! DEFINITION. The decoder and the encoder of instruction words (R55 to R62, R89, R116, R135, R184), of matrix commands
(R66) and of AG words (R67, R298). Decoding is total: a word that no row takes is refused with its ILLEGAL
subcode (R63). Whether the field values of a decoded word are allocated is `Instr.badSub`. -/

namespace Sys2Proof

/-- Why bytes are not an instruction word: fewer than four of them, or a word of R63 with its subcode. -/
inductive DecodeError where
  | short
  | illegal (sub : Nat)
  deriving DecidableEq, Repr

/-- The field [lo + n − 1 : lo] of a word. -/
def field (n lo w : Nat) : BitVec n := BitVec.ofNat n (w / 2 ^ lo)

/-- A field placed at bit `lo` of a word. -/
def place {n : Nat} (lo : Nat) (x : BitVec n) : Nat := x.toNat * 2 ^ lo

/-- The words of OP 0x01: BR, CALL, YBR. -/
def decodeOp01 (w : Nat) : Option Instr :=
  if w / 2 ^ 23 % 2 ^ 2 = 0 then
    some (.br (field 23 0 w))
  else
  if w / 2 ^ 23 % 2 ^ 2 = 1 then
    some (.call (field 23 0 w))
  else
  if w / 2 ^ 23 % 2 ^ 2 = 2 then
    some (.ybr (field 23 0 w))
  else
  none

/-- The words of OP 0x02: BRX, CALLX, RET, TEND, TRAP, BKPT. -/
def decodeOp02 (w : Nat) : Option Instr :=
  if w % 2 ^ 25 = 229824 then
    some .brx
  else
  if w % 2 ^ 25 = 491968 then
    some .callx
  else
  if w % 2 ^ 25 = 754112 then
    some .ret
  else
  if w % 2 ^ 25 = 1016256 then
    some .tend
  else
  if w % 2 ^ 25 = 1278400 then
    some .trap
  else
  if w % 2 ^ 25 = 1540544 then
    some .bkpt
  else
  none

/-- The words of OP 0x03: GET. -/
def decodeOp03 (w : Nat) : Option Instr :=
  if w / 2 ^ 18 % 2 ^ 1 = 0 then
    some (.get (field 6 19 w) (field 9 9 w) (field 9 0 w))
  else
  none

/-- The words of OP 0x04: MOVI. -/
def decodeOp04 (w : Nat) : Option Instr :=
  some (.movi (field 16 9 w) (field 9 0 w))

/-- The words of OP 0x05: MOVHI. -/
def decodeOp05 (w : Nat) : Option Instr :=
  some (.movhi (field 16 9 w) (field 9 0 w))

/-- The words of OP 0x06: FLOW_MOV, STEER_D, STEER_N, FLOW_MERGE, FLOW_NULL, FLOW_JOIN, SEL. -/
def decodeOp06 (w : Nat) : Option Instr :=
  if w / 2 ^ 18 % 2 ^ 7 = 0 then
    some (.flowMov (field 9 9 w) (field 9 0 w))
  else
  if w / 2 ^ 18 % 2 ^ 7 = 1 then
    some (.steerD (field 9 9 w) (field 9 0 w))
  else
  if w / 2 ^ 18 % 2 ^ 7 = 2 then
    some (.steerN (field 9 9 w) (field 9 0 w))
  else
  if w / 2 ^ 18 % 2 ^ 7 = 3 then
    some (.flowMerge (field 9 9 w) (field 9 0 w))
  else
  if w / 2 ^ 18 % 2 ^ 7 = 4 then
    some (.flowNull (field 9 9 w) (field 9 0 w))
  else
  if w / 2 ^ 18 % 2 ^ 7 = 5 then
    some (.flowJoin (field 9 9 w) (field 9 0 w))
  else
  if w / 2 ^ 18 % 2 ^ 7 = 6 then
    some (.sel (field 9 9 w) (field 9 0 w))
  else
  none

/-- The words of OP 0x07: RECV. -/
def decodeOp07 (w : Nat) : Option Instr :=
  some (.recv (field 6 19 w) (field 1 18 w) (field 9 9 w) (field 9 0 w))

/-- The words of OP 0x08: ARRIVE. -/
def decodeOp08 (w : Nat) : Option Instr :=
  some (.arrive (field 7 18 w) (field 9 9 w) (field 9 0 w))

/-- The words of OP 0x09: ARRIVE_RLX. -/
def decodeOp09 (w : Nat) : Option Instr :=
  some (.arriveRlx (field 7 18 w) (field 9 9 w) (field 9 0 w))

/-- The words of OP 0x0A: WAIT. -/
def decodeOp0A (w : Nat) : Option Instr :=
  some (.wait (field 7 18 w) (field 9 9 w) (field 9 0 w))

/-- The words of OP 0x0B: BARCFG. -/
def decodeOp0B (w : Nat) : Option Instr :=
  some (.barcfg (field 7 18 w) (field 9 9 w) (field 9 0 w))

/-- The words of OP 0x0C: RARRIVE. -/
def decodeOp0C (w : Nat) : Option Instr :=
  if w / 2 ^ 18 % 2 ^ 5 = 0 then
    some (.rarrive (field 2 23 w) (field 9 9 w) (field 9 0 w))
  else
  none

/-- The words of OP 0x0D: RNEXT. -/
def decodeOp0D (w : Nat) : Option Instr :=
  if w / 2 ^ 18 % 2 ^ 7 = 0 then
    some (.rnext (field 9 9 w) (field 9 0 w))
  else
  none

/-- The words of OP 0x0E: GETX. -/
def decodeOp0E (w : Nat) : Option Instr :=
  some (.getx (field 7 18 w) (field 9 9 w) (field 9 0 w))

/-- The words of OP 0x0F: PUTX. -/
def decodeOp0F (w : Nat) : Option Instr :=
  some (.putx (field 7 18 w) (field 9 9 w) (field 9 0 w))

/-- The words of OP 0x10: IALU. -/
def decodeOp10 (w : Nat) : Option Instr :=
  some (.ialu (field 1 24 w) (field 6 18 w) (field 9 9 w) (field 9 0 w))

/-- The words of OP 0x11: ADDI. -/
def decodeOp11 (w : Nat) : Option Instr :=
  some (.addi (field 16 9 w) (field 9 0 w))

/-- The words of OP 0x12: ANDI. -/
def decodeOp12 (w : Nat) : Option Instr :=
  some (.andi (field 16 9 w) (field 9 0 w))

/-- The words of OP 0x13: ORI. -/
def decodeOp13 (w : Nat) : Option Instr :=
  some (.ori (field 16 9 w) (field 9 0 w))

/-- The words of OP 0x14: XORI. -/
def decodeOp14 (w : Nat) : Option Instr :=
  some (.xori (field 16 9 w) (field 9 0 w))

/-- The words of OP 0x15: SHLI. -/
def decodeOp15 (w : Nat) : Option Instr :=
  if w / 2 ^ 15 % 2 ^ 10 = 0 then
    some (.shli (field 6 9 w) (field 9 0 w))
  else
  none

/-- The words of OP 0x16: SHRI. -/
def decodeOp16 (w : Nat) : Option Instr :=
  if w / 2 ^ 15 % 2 ^ 10 = 0 then
    some (.shri (field 6 9 w) (field 9 0 w))
  else
  none

/-- The words of OP 0x17: SARI. -/
def decodeOp17 (w : Nat) : Option Instr :=
  if w / 2 ^ 15 % 2 ^ 10 = 0 then
    some (.sari (field 6 9 w) (field 9 0 w))
  else
  none

/-- The words of OP 0x18: CMPEQI. -/
def decodeOp18 (w : Nat) : Option Instr :=
  some (.cmpeqi (field 16 9 w) (field 9 0 w))

/-- The words of OP 0x19: CMPLTI. -/
def decodeOp19 (w : Nat) : Option Instr :=
  some (.cmplti (field 16 9 w) (field 9 0 w))

/-- The words of OP 0x1A: CMPLTUI. -/
def decodeOp1A (w : Nat) : Option Instr :=
  some (.cmpltui (field 16 9 w) (field 9 0 w))

/-- The words of OP 0x1B: MULI. -/
def decodeOp1B (w : Nat) : Option Instr :=
  some (.muli (field 16 9 w) (field 9 0 w))

/-- The words of OP 0x20: FALU, FALU_DYN. -/
def decodeOp20 (w : Nat) : Option Instr :=
  if w / 2 ^ 22 % 2 ^ 3 = 3 then
    some (.faluDyn (field 4 18 w) (field 9 9 w) (field 9 0 w))
  else
  some (.falu (field 3 22 w) (field 4 18 w) (field 9 9 w) (field 9 0 w))

/-- The words of OP 0x21: CVT. -/
def decodeOp21 (w : Nat) : Option Instr :=
  if w / 2 ^ 18 % 2 ^ 3 = 0 then
    some (.cvt (field 4 21 w) (field 4 14 w) (field 2 12 w) (field 1 11 w) (field 2 9 w) (field 9 0 w))
  else
  none

/-- The words of OP 0x22: CVTX. -/
def decodeOp22 (w : Nat) : Option Instr :=
  if w / 2 ^ 18 % 2 ^ 3 = 0 ∧ w / 2 ^ 9 % 2 ^ 5 = 3 then
    some (.cvtx (field 4 21 w) (field 4 14 w) (field 9 0 w))
  else
  none

/-- The words of OP 0x24: BMODE. -/
def decodeOp24 (w : Nat) : Option Instr :=
  if w / 2 ^ 18 % 2 ^ 7 = 0 then
    some (.bmode (field 9 9 w) (field 9 0 w))
  else
  none

/-- The words of OP 0x25: MSHAPE. -/
def decodeOp25 (w : Nat) : Option Instr :=
  some (.mshape (field 3 22 w) (field 4 18 w) (field 9 9 w) (field 9 0 w))

/-- The words of OP 0x26: ACOPY. -/
def decodeOp26 (w : Nat) : Option Instr :=
  if w / 2 ^ 18 % 2 ^ 1 = 0 then
    some (.acopy (field 6 19 w) (field 9 9 w) (field 9 0 w))
  else
  none

/-- The words of OP 0x27: RBWAIT, RBREL, RBOPEN, RBCLOSE. -/
def decodeOp27 (w : Nat) : Option Instr :=
  if w / 2 ^ 18 % 2 ^ 7 = 16 then
    some (.rbrel (field 9 9 w) (field 9 0 w))
  else
  if w / 2 ^ 18 % 2 ^ 7 = 32 then
    some (.rbopen (field 9 9 w) (field 9 0 w))
  else
  if w / 2 ^ 18 % 2 ^ 7 = 48 then
    some (.rbclose (field 9 9 w) (field 9 0 w))
  else
  if w / 2 ^ 22 % 2 ^ 3 = 0 ∧ w / 2 ^ 18 % 2 ^ 3 = 0 then
    some (.rbwait (field 1 21 w) (field 9 9 w) (field 9 0 w))
  else
  none

/-- The words of OP 0x28: LDB. -/
def decodeOp28 (w : Nat) : Option Instr :=
  some (.ldb (field 5 20 w) (field 2 18 w) (field 2 16 w) (field 7 9 w) (field 9 0 w))

/-- The words of OP 0x29: LDBZ. -/
def decodeOp29 (w : Nat) : Option Instr :=
  some (.ldbz (field 5 20 w) (field 2 18 w) (field 2 16 w) (field 7 9 w) (field 9 0 w))

/-- The words of OP 0x2A: LDH. -/
def decodeOp2A (w : Nat) : Option Instr :=
  some (.ldh (field 5 20 w) (field 2 18 w) (field 2 16 w) (field 7 9 w) (field 9 0 w))

/-- The words of OP 0x2B: LDHZ. -/
def decodeOp2B (w : Nat) : Option Instr :=
  some (.ldhz (field 5 20 w) (field 2 18 w) (field 2 16 w) (field 7 9 w) (field 9 0 w))

/-- The words of OP 0x2C: LDW. -/
def decodeOp2C (w : Nat) : Option Instr :=
  some (.ldw (field 5 20 w) (field 2 18 w) (field 2 16 w) (field 7 9 w) (field 9 0 w))

/-- The words of OP 0x2D: LDWZ. -/
def decodeOp2D (w : Nat) : Option Instr :=
  some (.ldwz (field 5 20 w) (field 2 18 w) (field 2 16 w) (field 7 9 w) (field 9 0 w))

/-- The words of OP 0x2E: LDD. -/
def decodeOp2E (w : Nat) : Option Instr :=
  some (.ldd (field 5 20 w) (field 2 18 w) (field 2 16 w) (field 7 9 w) (field 9 0 w))

/-- The words of OP 0x30: STB. -/
def decodeOp30 (w : Nat) : Option Instr :=
  some (.stb (field 5 20 w) (field 2 18 w) (field 2 16 w) (field 16 0 w))

/-- The words of OP 0x31: STH. -/
def decodeOp31 (w : Nat) : Option Instr :=
  some (.sth (field 5 20 w) (field 2 18 w) (field 2 16 w) (field 16 0 w))

/-- The words of OP 0x32: STW. -/
def decodeOp32 (w : Nat) : Option Instr :=
  some (.stw (field 5 20 w) (field 2 18 w) (field 2 16 w) (field 16 0 w))

/-- The words of OP 0x33: STD. -/
def decodeOp33 (w : Nat) : Option Instr :=
  some (.std (field 5 20 w) (field 2 18 w) (field 2 16 w) (field 16 0 w))

/-- The words of OP 0x34: AMO, AMO_CAS. -/
def decodeOp34 (w : Nat) : Option Instr :=
  if w / 2 ^ 12 % 2 ^ 4 = 9 then
    some (.amoCas (field 5 20 w) (field 2 18 w) (field 2 16 w) (field 2 10 w) (field 1 9 w) (field 9 0 w))
  else
  some (.amo (field 5 20 w) (field 2 18 w) (field 2 16 w) (field 4 12 w) (field 2 10 w) (field 1 9 w) (field 9 0 w))

/-- The words of OP 0x35: AMOD. -/
def decodeOp35 (w : Nat) : Option Instr :=
  if w % 2 ^ 10 = 0 then
    some (.amod (field 5 20 w) (field 2 18 w) (field 2 16 w) (field 4 12 w) (field 2 10 w))
  else
  none

/-- The words of OP 0x36: RED. -/
def decodeOp36 (w : Nat) : Option Instr :=
  if w % 2 ^ 9 = 0 then
    some (.red (field 5 20 w) (field 2 18 w) (field 2 16 w) (field 4 12 w) (field 2 10 w) (field 1 9 w))
  else
  none

/-- The words of OP 0x37: FENCE. -/
def decodeOp37 (w : Nat) : Option Instr :=
  if w / 2 ^ 9 % 2 ^ 4 = 0 then
    some (.fence (field 5 20 w) (field 2 18 w) (field 2 16 w) (field 2 14 w) (field 1 13 w) (field 9 0 w))
  else
  none

/-- The words of OP 0x38: FPRB. -/
def decodeOp38 (w : Nat) : Option Instr :=
  if w / 2 ^ 9 % 2 ^ 7 = 0 then
    some (.fprb (field 5 20 w) (field 2 18 w) (field 2 16 w) (field 9 0 w))
  else
  none

/-- The words of OP 0x39: FINS. -/
def decodeOp39 (w : Nat) : Option Instr :=
  if w % 2 ^ 14 = 0 then
    some (.fins (field 5 20 w) (field 2 18 w) (field 2 16 w) (field 2 14 w))
  else
  none

/-- The words of OP 0x3A: FNEW, FDEL, FCLR, FCNT, FSEAL, FUNSEAL, FSTAT. -/
def decodeOp3A (w : Nat) : Option Instr :=
  if w / 2 ^ 9 % 2 ^ 7 = 0 then
    some (.fnew (field 5 20 w) (field 2 18 w) (field 2 16 w) (field 9 0 w))
  else
  if w / 2 ^ 9 % 2 ^ 7 = 8 then
    some (.fdel (field 5 20 w) (field 2 18 w) (field 2 16 w) (field 9 0 w))
  else
  if w / 2 ^ 9 % 2 ^ 7 = 16 then
    some (.fclr (field 5 20 w) (field 2 18 w) (field 2 16 w) (field 9 0 w))
  else
  if w / 2 ^ 9 % 2 ^ 7 = 24 then
    some (.fcnt (field 5 20 w) (field 2 18 w) (field 2 16 w) (field 9 0 w))
  else
  if w / 2 ^ 9 % 2 ^ 7 = 32 then
    some (.fseal (field 5 20 w) (field 2 18 w) (field 2 16 w) (field 9 0 w))
  else
  if w / 2 ^ 9 % 2 ^ 7 = 40 then
    some (.funseal (field 5 20 w) (field 2 18 w) (field 2 16 w) (field 9 0 w))
  else
  if w / 2 ^ 9 % 2 ^ 7 = 48 then
    some (.fstat (field 5 20 w) (field 2 18 w) (field 2 16 w) (field 9 0 w))
  else
  none

/-- The words of OP 0x3B: GLAUNCH, NOTE, PERF, WAITT. -/
def decodeOp3B (w : Nat) : Option Instr :=
  if w / 2 ^ 18 % 2 ^ 7 = 0 then
    some (.glaunch (field 9 9 w) (field 9 0 w))
  else
  if w / 2 ^ 18 % 2 ^ 7 = 1 then
    some (.note (field 9 9 w) (field 9 0 w))
  else
  if w / 2 ^ 18 % 2 ^ 7 = 2 then
    some (.perf (field 9 9 w) (field 9 0 w))
  else
  if w / 2 ^ 18 % 2 ^ 7 = 3 then
    some (.waitt (field 9 9 w) (field 9 0 w))
  else
  none

/-- The words of OP 0x3C: FSCAN. -/
def decodeOp3C (w : Nat) : Option Instr :=
  if w / 2 ^ 18 % 2 ^ 7 = 0 then
    some (.fscan (field 9 9 w) (field 9 0 w))
  else
  none

/-- The words of OP 0x43: VGET. -/
def decodeOp43 (w : Nat) : Option Instr :=
  if w / 2 ^ 18 % 2 ^ 2 = 0 then
    some (.vget (field 5 20 w) (field 9 9 w) (field 9 0 w))
  else
  none

/-- The words of OP 0x44: SPLAT. -/
def decodeOp44 (w : Nat) : Option Instr :=
  if w / 2 ^ 18 % 2 ^ 5 = 0 then
    some (.splat (field 2 23 w) (field 9 9 w) (field 9 0 w))
  else
  none

/-- The words of OP 0x45: VEXT. -/
def decodeOp45 (w : Nat) : Option Instr :=
  some (.vext (field 2 23 w) (field 5 18 w) (field 9 9 w) (field 9 0 w))

/-- The words of OP 0x46: VFLOW_MOV, VFLOW_STEER_D, VFLOW_STEER_N, VFLOW_MERGE, VFLOW_NULL, VFLOW_JOIN, VSEL. -/
def decodeOp46 (w : Nat) : Option Instr :=
  if w / 2 ^ 18 % 2 ^ 7 = 0 then
    some (.vflowMov (field 9 9 w) (field 9 0 w))
  else
  if w / 2 ^ 18 % 2 ^ 7 = 1 then
    some (.vflowSteerD (field 9 9 w) (field 9 0 w))
  else
  if w / 2 ^ 18 % 2 ^ 7 = 2 then
    some (.vflowSteerN (field 9 9 w) (field 9 0 w))
  else
  if w / 2 ^ 18 % 2 ^ 7 = 3 then
    some (.vflowMerge (field 9 9 w) (field 9 0 w))
  else
  if w / 2 ^ 18 % 2 ^ 7 = 4 then
    some (.vflowNull (field 9 9 w) (field 9 0 w))
  else
  if w / 2 ^ 18 % 2 ^ 7 = 5 then
    some (.vflowJoin (field 9 9 w) (field 9 0 w))
  else
  if w / 2 ^ 18 % 2 ^ 7 = 6 then
    some (.vsel (field 9 9 w) (field 9 0 w))
  else
  none

/-- The words of OP 0x47: VRECV. -/
def decodeOp47 (w : Nat) : Option Instr :=
  some (.vrecv (field 6 19 w) (field 1 18 w) (field 9 9 w) (field 9 0 w))

/-- The words of OP 0x48: VINS. -/
def decodeOp48 (w : Nat) : Option Instr :=
  some (.vins (field 2 23 w) (field 5 18 w) (field 9 9 w) (field 9 0 w))

/-- The words of OP 0x50: VIALU. -/
def decodeOp50 (w : Nat) : Option Instr :=
  some (.vialu (field 2 23 w) (field 5 18 w) (field 9 9 w) (field 9 0 w))

/-- The words of OP 0x51: VFALU. -/
def decodeOp51 (w : Nat) : Option Instr :=
  some (.vfalu (field 3 22 w) (field 4 18 w) (field 9 9 w) (field 9 0 w))

/-- The words of OP 0x52: VCVT. -/
def decodeOp52 (w : Nat) : Option Instr :=
  if w / 2 ^ 18 % 2 ^ 3 = 0 then
    some (.vcvt (field 4 21 w) (field 4 14 w) (field 2 12 w) (field 1 11 w) (field 2 9 w) (field 9 0 w))
  else
  none

/-- The words of OP 0x53: VQNT. -/
def decodeOp53 (w : Nat) : Option Instr :=
  if w / 2 ^ 18 % 2 ^ 3 = 0 ∧ w / 2 ^ 9 % 2 ^ 3 = 0 then
    some (.vqnt (field 4 21 w) (field 2 16 w) (field 4 12 w) (field 9 0 w))
  else
  none

/-- The words of OP 0x54: VDQNT. -/
def decodeOp54 (w : Nat) : Option Instr :=
  if w / 2 ^ 18 % 2 ^ 3 = 0 ∧ w / 2 ^ 9 % 2 ^ 3 = 0 then
    some (.vdqnt (field 4 21 w) (field 2 16 w) (field 4 12 w) (field 9 0 w))
  else
  none

/-- The words of OP 0x55: VSCACC. -/
def decodeOp55 (w : Nat) : Option Instr :=
  if w / 2 ^ 18 % 2 ^ 6 = 0 then
    some (.vscacc (field 1 24 w) (field 9 9 w) (field 9 0 w))
  else
  none

/-- The words of OP 0x56: VPERM. -/
def decodeOp56 (w : Nat) : Option Instr :=
  some (.vperm (field 2 23 w) (field 5 18 w) (field 9 9 w) (field 9 0 w))

/-- The words of OP 0x57: VRED. -/
def decodeOp57 (w : Nat) : Option Instr :=
  some (.vred (field 3 22 w) (field 4 18 w) (field 9 9 w) (field 9 0 w))

/-- The words of OP 0x58: VLD. -/
def decodeOp58 (w : Nat) : Option Instr :=
  some (.vld (field 5 20 w) (field 2 18 w) (field 2 16 w) (field 7 9 w) (field 9 0 w))

/-- The words of OP 0x59: VST. -/
def decodeOp59 (w : Nat) : Option Instr :=
  some (.vst (field 5 20 w) (field 2 18 w) (field 2 16 w) (field 16 0 w))

/-- The words of OP 0x5A: VLDS. -/
def decodeOp5A (w : Nat) : Option Instr :=
  if w / 2 ^ 9 % 2 ^ 5 = 0 then
    some (.vlds (field 5 20 w) (field 2 18 w) (field 2 16 w) (field 2 14 w) (field 9 0 w))
  else
  none

/-- The words of OP 0x5B: VSTS. -/
def decodeOp5B (w : Nat) : Option Instr :=
  if w % 2 ^ 14 = 0 then
    some (.vsts (field 5 20 w) (field 2 18 w) (field 2 16 w) (field 2 14 w))
  else
  none

/-- The words of OP 0x5C: VGATH. -/
def decodeOp5C (w : Nat) : Option Instr :=
  if w / 2 ^ 9 % 2 ^ 7 = 0 then
    some (.vgath (field 5 20 w) (field 2 18 w) (field 2 16 w) (field 9 0 w))
  else
  none

/-- The words of OP 0x5D: VSCAT. -/
def decodeOp5D (w : Nat) : Option Instr :=
  if w % 2 ^ 16 = 0 then
    some (.vscat (field 5 20 w) (field 2 18 w) (field 2 16 w))
  else
  none

/-- The words of OP 0x60: VFRD. -/
def decodeOp60 (w : Nat) : Option Instr :=
  if w / 2 ^ 9 % 2 ^ 7 = 0 then
    some (.vfrd (field 5 20 w) (field 2 18 w) (field 2 16 w) (field 9 0 w))
  else
  none

/-- The words of OP 0x61: VFMRG. -/
def decodeOp61 (w : Nat) : Option Instr :=
  if w % 2 ^ 14 = 0 then
    some (.vfmrg (field 5 20 w) (field 2 18 w) (field 2 16 w) (field 2 14 w))
  else
  none

/-- The words of OP 0x62: VFPRB. -/
def decodeOp62 (w : Nat) : Option Instr :=
  if w / 2 ^ 9 % 2 ^ 7 = 0 then
    some (.vfprb (field 5 20 w) (field 2 18 w) (field 2 16 w) (field 9 0 w))
  else
  none

/-- The words of OP 0x63: VFHIT. -/
def decodeOp63 (w : Nat) : Option Instr :=
  if w / 2 ^ 9 % 2 ^ 7 = 0 then
    some (.vfhit (field 5 20 w) (field 2 18 w) (field 2 16 w) (field 9 0 w))
  else
  none

/-- The words of OP 0x64: VMATCH. -/
def decodeOp64 (w : Nat) : Option Instr :=
  if w / 2 ^ 9 % 2 ^ 16 = 0 then
    some (.vmatch (field 9 0 w))
  else
  none

/-- The instruction of a 32-bit word, or none for a word of R63 that no row of the opcode map takes. -/
def decodeWord (w : Nat) : Option Instr :=
  match w / 2 ^ 25 with
  | 0x01 => decodeOp01 w
  | 0x02 => decodeOp02 w
  | 0x03 => decodeOp03 w
  | 0x04 => decodeOp04 w
  | 0x05 => decodeOp05 w
  | 0x06 => decodeOp06 w
  | 0x07 => decodeOp07 w
  | 0x08 => decodeOp08 w
  | 0x09 => decodeOp09 w
  | 0x0A => decodeOp0A w
  | 0x0B => decodeOp0B w
  | 0x0C => decodeOp0C w
  | 0x0D => decodeOp0D w
  | 0x0E => decodeOp0E w
  | 0x0F => decodeOp0F w
  | 0x10 => decodeOp10 w
  | 0x11 => decodeOp11 w
  | 0x12 => decodeOp12 w
  | 0x13 => decodeOp13 w
  | 0x14 => decodeOp14 w
  | 0x15 => decodeOp15 w
  | 0x16 => decodeOp16 w
  | 0x17 => decodeOp17 w
  | 0x18 => decodeOp18 w
  | 0x19 => decodeOp19 w
  | 0x1A => decodeOp1A w
  | 0x1B => decodeOp1B w
  | 0x20 => decodeOp20 w
  | 0x21 => decodeOp21 w
  | 0x22 => decodeOp22 w
  | 0x24 => decodeOp24 w
  | 0x25 => decodeOp25 w
  | 0x26 => decodeOp26 w
  | 0x27 => decodeOp27 w
  | 0x28 => decodeOp28 w
  | 0x29 => decodeOp29 w
  | 0x2A => decodeOp2A w
  | 0x2B => decodeOp2B w
  | 0x2C => decodeOp2C w
  | 0x2D => decodeOp2D w
  | 0x2E => decodeOp2E w
  | 0x30 => decodeOp30 w
  | 0x31 => decodeOp31 w
  | 0x32 => decodeOp32 w
  | 0x33 => decodeOp33 w
  | 0x34 => decodeOp34 w
  | 0x35 => decodeOp35 w
  | 0x36 => decodeOp36 w
  | 0x37 => decodeOp37 w
  | 0x38 => decodeOp38 w
  | 0x39 => decodeOp39 w
  | 0x3A => decodeOp3A w
  | 0x3B => decodeOp3B w
  | 0x3C => decodeOp3C w
  | 0x43 => decodeOp43 w
  | 0x44 => decodeOp44 w
  | 0x45 => decodeOp45 w
  | 0x46 => decodeOp46 w
  | 0x47 => decodeOp47 w
  | 0x48 => decodeOp48 w
  | 0x50 => decodeOp50 w
  | 0x51 => decodeOp51 w
  | 0x52 => decodeOp52 w
  | 0x53 => decodeOp53 w
  | 0x54 => decodeOp54 w
  | 0x55 => decodeOp55 w
  | 0x56 => decodeOp56 w
  | 0x57 => decodeOp57 w
  | 0x58 => decodeOp58 w
  | 0x59 => decodeOp59 w
  | 0x5A => decodeOp5A w
  | 0x5B => decodeOp5B w
  | 0x5C => decodeOp5C w
  | 0x5D => decodeOp5D w
  | 0x60 => decodeOp60 w
  | 0x61 => decodeOp61 w
  | 0x62 => decodeOp62 w
  | 0x63 => decodeOp63 w
  | 0x64 => decodeOp64 w
  | _ => none

/-- The instruction at the front of a byte list and the bytes after it; words are little-endian (R16, R36). -/
def decode : List Byte → Except DecodeError (Instr × List Byte)
  | b0 :: b1 :: b2 :: b3 :: rest =>
    let w := ofBytes [b0, b1, b2, b3]
    match decodeWord w with
    | some i => .ok (i, rest)
    | none => .error (.illegal (illegalSub w))
  | _ => .error .short

/-- The instruction of a word numbered as the opcode table numbers it. -/
def decodeTableWord (nbits w : Nat) : Option Instr :=
  if nbits = 32 ∧ w < 2 ^ 32 then
    match decode (toBytes 4 w) with
    | .ok (i, _) => some i
    | .error _ => none
  else none

/-- The 32-bit word of an instruction, from the base words of R89, R116, R135 and R184; none for a row of the table
that no 32-bit word encodes. -/
def encode : Instr → Option Nat
  | .br o => some (0x02000000 + place 0 o)
  | .call o => some (0x02800000 + place 0 o)
  | .ybr o => some (0x03000000 + place 0 o)
  | .brx => some (0x040381C0)
  | .callx => some (0x040781C0)
  | .ret => some (0x040B81C0)
  | .tend => some (0x040F81C0)
  | .trap => some (0x041381C0)
  | .bkpt => some (0x041781C0)
  | .get g t u => some (0x06000000 + place 19 g + place 9 t + place 0 u)
  | .movi i u => some (0x08000000 + place 9 i + place 0 u)
  | .movhi i u => some (0x0A000000 + place 9 i + place 0 u)
  | .flowMov t u => some (0x0C000000 + place 9 t + place 0 u)
  | .steerD t u => some (0x0C040000 + place 9 t + place 0 u)
  | .steerN t u => some (0x0C080000 + place 9 t + place 0 u)
  | .flowMerge t u => some (0x0C0C0000 + place 9 t + place 0 u)
  | .flowNull t u => some (0x0C100000 + place 9 t + place 0 u)
  | .flowJoin t u => some (0x0C140000 + place 9 t + place 0 u)
  | .sel t u => some (0x0C180000 + place 9 t + place 0 u)
  | .recv p e t u => some (0x0E000000 + place 19 p + place 18 e + place 9 t + place 0 u)
  | .arrive b t u => some (0x10000000 + place 18 b + place 9 t + place 0 u)
  | .arriveRlx b t u => some (0x12000000 + place 18 b + place 9 t + place 0 u)
  | .wait b t u => some (0x14000000 + place 18 b + place 9 t + place 0 u)
  | .barcfg b t u => some (0x16000000 + place 18 b + place 9 t + place 0 u)
  | .rarrive e t u => some (0x18000000 + place 23 e + place 9 t + place 0 u)
  | .rnext t u => some (0x1A000000 + place 9 t + place 0 u)
  | .getx x t u => some (0x1C000000 + place 18 x + place 9 t + place 0 u)
  | .putx x t u => some (0x1E000000 + place 18 x + place 9 t + place 0 u)
  | .ialu w c t u => some (0x20000000 + place 24 w + place 18 c + place 9 t + place 0 u)
  | .addi i u => some (0x22000000 + place 9 i + place 0 u)
  | .andi i u => some (0x24000000 + place 9 i + place 0 u)
  | .ori i u => some (0x26000000 + place 9 i + place 0 u)
  | .xori i u => some (0x28000000 + place 9 i + place 0 u)
  | .shli i u => some (0x2A000000 + place 9 i + place 0 u)
  | .shri i u => some (0x2C000000 + place 9 i + place 0 u)
  | .sari i u => some (0x2E000000 + place 9 i + place 0 u)
  | .cmpeqi i u => some (0x30000000 + place 9 i + place 0 u)
  | .cmplti i u => some (0x32000000 + place 9 i + place 0 u)
  | .cmpltui i u => some (0x34000000 + place 9 i + place 0 u)
  | .muli i u => some (0x36000000 + place 9 i + place 0 u)
  | .falu f c t u => some (0x40000000 + place 22 f + place 18 c + place 9 t + place 0 u)
  | .faluDyn c t u => some (0x40C00000 + place 18 c + place 9 t + place 0 u)
  | .cvt d s h a m u => some (0x42000000 + place 21 d + place 14 s + place 12 h + place 11 a + place 9 m + place 0 u)
  | .cvtx d s u => some (0x44000600 + place 21 d + place 14 s + place 0 u)
  | .bmode t u => some (0x48000000 + place 9 t + place 0 u)
  | .mshape n f t u => some (0x4A000000 + place 22 n + place 18 f + place 9 t + place 0 u)
  | .acopy g t u => some (0x4C000000 + place 19 g + place 9 t + place 0 u)
  | .rbwait s t u => some (0x4E000000 + place 21 s + place 9 t + place 0 u)
  | .rbrel t u => some (0x4E400000 + place 9 t + place 0 u)
  | .rbopen t u => some (0x4E800000 + place 9 t + place 0 u)
  | .rbclose t u => some (0x4EC00000 + place 9 t + place 0 u)
  | .ldb q p d o u => some (0x50000000 + place 20 q + place 18 p + place 16 d + place 9 o + place 0 u)
  | .ldbz q p d o u => some (0x52000000 + place 20 q + place 18 p + place 16 d + place 9 o + place 0 u)
  | .ldh q p d o u => some (0x54000000 + place 20 q + place 18 p + place 16 d + place 9 o + place 0 u)
  | .ldhz q p d o u => some (0x56000000 + place 20 q + place 18 p + place 16 d + place 9 o + place 0 u)
  | .ldw q p d o u => some (0x58000000 + place 20 q + place 18 p + place 16 d + place 9 o + place 0 u)
  | .ldwz q p d o u => some (0x5A000000 + place 20 q + place 18 p + place 16 d + place 9 o + place 0 u)
  | .ldd q p d o u => some (0x5C000000 + place 20 q + place 18 p + place 16 d + place 9 o + place 0 u)
  | .stb q p d o => some (0x60000000 + place 20 q + place 18 p + place 16 d + place 0 o)
  | .sth q p d o => some (0x62000000 + place 20 q + place 18 p + place 16 d + place 0 o)
  | .stw q p d o => some (0x64000000 + place 20 q + place 18 p + place 16 d + place 0 o)
  | .std q p d o => some (0x66000000 + place 20 q + place 18 p + place 16 d + place 0 o)
  | .amo q p d c z e u => some (0x68000000 + place 20 q + place 18 p + place 16 d + place 12 c + place 10 z + place 9 e + place 0 u)
  | .amoCas q p d z e u => some (0x68009000 + place 20 q + place 18 p + place 16 d + place 10 z + place 9 e + place 0 u)
  | .amod q p d c z => some (0x6A000000 + place 20 q + place 18 p + place 16 d + place 12 c + place 10 z)
  | .red q p d c z e => some (0x6C000000 + place 20 q + place 18 p + place 16 d + place 12 c + place 10 z + place 9 e)
  | .fence q p d e j u => some (0x6E000000 + place 20 q + place 18 p + place 16 d + place 14 e + place 13 j + place 0 u)
  | .fprb q p d u => some (0x70000000 + place 20 q + place 18 p + place 16 d + place 0 u)
  | .fins q p d m => some (0x72000000 + place 20 q + place 18 p + place 16 d + place 14 m)
  | .fnew q p d u => some (0x74000000 + place 20 q + place 18 p + place 16 d + place 0 u)
  | .fdel q p d u => some (0x74001000 + place 20 q + place 18 p + place 16 d + place 0 u)
  | .fclr q p d u => some (0x74002000 + place 20 q + place 18 p + place 16 d + place 0 u)
  | .fcnt q p d u => some (0x74003000 + place 20 q + place 18 p + place 16 d + place 0 u)
  | .fseal q p d u => some (0x74004000 + place 20 q + place 18 p + place 16 d + place 0 u)
  | .funseal q p d u => some (0x74005000 + place 20 q + place 18 p + place 16 d + place 0 u)
  | .fstat q p d u => some (0x74006000 + place 20 q + place 18 p + place 16 d + place 0 u)
  | .glaunch t u => some (0x76000000 + place 9 t + place 0 u)
  | .note t u => some (0x76040000 + place 9 t + place 0 u)
  | .perf t u => some (0x76080000 + place 9 t + place 0 u)
  | .waitt t u => some (0x760C0000 + place 9 t + place 0 u)
  | .fscan t u => some (0x78000000 + place 9 t + place 0 u)
  | .vget v t u => some (0x86000000 + place 20 v + place 9 t + place 0 u)
  | .splat w t u => some (0x88000000 + place 23 w + place 9 t + place 0 u)
  | .vext w l t u => some (0x8A000000 + place 23 w + place 18 l + place 9 t + place 0 u)
  | .vflowMov t u => some (0x8C000000 + place 9 t + place 0 u)
  | .vflowSteerD t u => some (0x8C040000 + place 9 t + place 0 u)
  | .vflowSteerN t u => some (0x8C080000 + place 9 t + place 0 u)
  | .vflowMerge t u => some (0x8C0C0000 + place 9 t + place 0 u)
  | .vflowNull t u => some (0x8C100000 + place 9 t + place 0 u)
  | .vflowJoin t u => some (0x8C140000 + place 9 t + place 0 u)
  | .vsel t u => some (0x8C180000 + place 9 t + place 0 u)
  | .vrecv p e t u => some (0x8E000000 + place 19 p + place 18 e + place 9 t + place 0 u)
  | .vins w l t u => some (0x90000000 + place 23 w + place 18 l + place 9 t + place 0 u)
  | .vialu w c t u => some (0xA0000000 + place 23 w + place 18 c + place 9 t + place 0 u)
  | .vfalu f c t u => some (0xA2000000 + place 22 f + place 18 c + place 9 t + place 0 u)
  | .vcvt d s h a m u => some (0xA4000000 + place 21 d + place 14 s + place 12 h + place 11 a + place 9 m + place 0 u)
  | .vqnt d g s u => some (0xA6000000 + place 21 d + place 16 g + place 12 s + place 0 u)
  | .vdqnt d g s u => some (0xA8000000 + place 21 d + place 16 g + place 12 s + place 0 u)
  | .vscacc k t u => some (0xAA000000 + place 24 k + place 9 t + place 0 u)
  | .vperm w c t u => some (0xAC000000 + place 23 w + place 18 c + place 9 t + place 0 u)
  | .vred f c t u => some (0xAE000000 + place 22 f + place 18 c + place 9 t + place 0 u)
  | .vld q p d o u => some (0xB0000000 + place 20 q + place 18 p + place 16 d + place 9 o + place 0 u)
  | .vst q p d o => some (0xB2000000 + place 20 q + place 18 p + place 16 d + place 0 o)
  | .vlds q p d w u => some (0xB4000000 + place 20 q + place 18 p + place 16 d + place 14 w + place 0 u)
  | .vsts q p d w => some (0xB6000000 + place 20 q + place 18 p + place 16 d + place 14 w)
  | .vgath q p d u => some (0xB8000000 + place 20 q + place 18 p + place 16 d + place 0 u)
  | .vscat q p d => some (0xBA000000 + place 20 q + place 18 p + place 16 d)
  | .vfrd q p d u => some (0xC0000000 + place 20 q + place 18 p + place 16 d + place 0 u)
  | .vfmrg q p d m => some (0xC2000000 + place 20 q + place 18 p + place 16 d + place 14 m)
  | .vfprb q p d u => some (0xC4000000 + place 20 q + place 18 p + place 16 d + place 0 u)
  | .vfhit q p d u => some (0xC6000000 + place 20 q + place 18 p + place 16 d + place 0 u)
  | .vmatch u => some (0xC8000000 + place 0 u)
  | _ => none

/-- The frame fields of a matrix command word (R66). -/
def MCmd.ofWord (w : Nat) : MCmd :=
  { acc := field 2 56 w, a := field 1 55 w, aslot := field 5 50 w, bslot := field 5 45 w, chunks := field 3 42 w
    mdim := field 6 36 w, ndim := field 6 30 w, fmt := field 4 26 w, cspec := field 26 0 w }

/-- The low 58 bits of a matrix command word (R66). -/
def MCmd.toWord (c : MCmd) : Nat :=
  place 56 c.acc + place 55 c.a + place 50 c.aslot + place 45 c.bslot + place 42 c.chunks + place 36 c.mdim
    + place 30 c.ndim + place 26 c.fmt + place 0 c.cspec

/-- The command of a 64-bit token at a command port (R66, R267). An unallocated CMD is the reserved command; the values
that a command reserves are `Instr.cmdReserved`. -/
def decodeCmd (w : Word) : Instr :=
  let c := MCmd.ofWord w.toNat
  match w.toNat / 2 ^ 58 with
  | 0x01 => .mma c
  | 0x02 => .mmai c
  | 0x03 => .mgv c
  | 0x04 => .mgat c
  | 0x05 => .msca c
  | 0x06 => .mdrn c
  | 0x07 => .mstt c
  | 0x08 => .mldt c
  | 0x09 => .mldp c
  | 0x0A => .mclm c
  | 0x0B => .mrel c
  | 0x0C => .mzro c
  | 0x0D => .mtrn c
  | _ => .matrixReservedCommand w

/-- The 64-bit token of a matrix command (R66). -/
def encodeCmd : Instr → Option Word
  | .mma c => some (BitVec.ofNat 64 (0x01 * 2 ^ 58 + c.toWord))
  | .mmai c => some (BitVec.ofNat 64 (0x02 * 2 ^ 58 + c.toWord))
  | .mgv c => some (BitVec.ofNat 64 (0x03 * 2 ^ 58 + c.toWord))
  | .mgat c => some (BitVec.ofNat 64 (0x04 * 2 ^ 58 + c.toWord))
  | .msca c => some (BitVec.ofNat 64 (0x05 * 2 ^ 58 + c.toWord))
  | .mdrn c => some (BitVec.ofNat 64 (0x06 * 2 ^ 58 + c.toWord))
  | .mstt c => some (BitVec.ofNat 64 (0x07 * 2 ^ 58 + c.toWord))
  | .mldt c => some (BitVec.ofNat 64 (0x08 * 2 ^ 58 + c.toWord))
  | .mldp c => some (BitVec.ofNat 64 (0x09 * 2 ^ 58 + c.toWord))
  | .mclm c => some (BitVec.ofNat 64 (0x0A * 2 ^ 58 + c.toWord))
  | .mrel c => some (BitVec.ofNat 64 (0x0B * 2 ^ 58 + c.toWord))
  | .mzro c => some (BitVec.ofNat 64 (0x0C * 2 ^ 58 + c.toWord))
  | .mtrn c => some (BitVec.ofNat 64 (0x0D * 2 ^ 58 + c.toWord))
  | .matrixReservedCommand w => some w
  | _ => none

/-- The word of an AG stream program (R67, R298); a reserved value makes it the unallocated word. -/
def decodeAg (w : Word) : Instr :=
  let n := w.toNat
  let stream (f : BitVec 2 → BitVec 16 → BitVec 1 → BitVec 32 → Instr) : Instr :=
    if n / 2 ^ 56 % 4 < 2 ∧ n / 2 ^ 40 % 2 ^ 16 ≠ 0 ∧ n / 2 ^ 32 % 2 ^ 7 = 0 then
      f (field 2 56 n) (field 16 40 n) (field 1 39 n) (field 32 0 n)
    else .agUnallocatedWord w
  match n / 2 ^ 58 with
  | 0x01 => stream .agstrm
  | 0x02 => stream .agsink
  | 0x03 =>
    if n / 2 ^ 56 % 4 = 0 ∧ n / 2 ^ 40 % 2 ^ 16 ≠ 0 ∧ n % 2 ^ 39 = 0 then .agcopy (field 16 40 n) (field 1 39 n)
    else .agUnallocatedWord w
  | 0x04 =>
    if n / 2 ^ 56 % 4 = 0 ∧ n / 2 ^ 40 % 2 ^ 16 ≠ 0 ∧ n / 2 ^ 32 % 2 ^ 7 = 0 then
      .agfill (field 16 40 n) (field 1 39 n) (field 32 0 n)
    else .agUnallocatedWord w
  | 0x05 =>
    if n / 2 ^ 40 % 2 ^ 16 ≠ 0 ∧ n / 2 ^ 16 % 2 ^ 24 = 0 ∧ n % 2 ^ 16 ≠ 0 then
      .agloop (field 2 56 n) (field 16 40 n) (field 16 0 n)
    else .agUnallocatedWord w
  | 0x06 =>
    if n / 2 ^ 56 % 4 = 0 ∧ n / 2 ^ 40 % 2 ^ 16 ≠ 0 ∧ n / 2 ^ 3 % 2 ^ 37 = 0 then .agwait (field 16 40 n) (field 3 0 n)
    else .agUnallocatedWord w
  | 0x07 => if n % 2 ^ 58 = 0 then .agend else .agUnallocatedWord w
  | _ => .agUnallocatedWord w

/-- The 64-bit word of an AG instruction (R298). -/
def encodeAg : Instr → Option Word
  | .agstrm k c a t =>
    some (BitVec.ofNat 64 (0x01 * 2 ^ 58 + place 56 k + place 40 c + place 39 a + place 0 t))
  | .agsink k c a t =>
    some (BitVec.ofNat 64 (0x02 * 2 ^ 58 + place 56 k + place 40 c + place 39 a + place 0 t))
  | .agcopy c a => some (BitVec.ofNat 64 (0x03 * 2 ^ 58 + place 40 c + place 39 a))
  | .agfill c a t => some (BitVec.ofNat 64 (0x04 * 2 ^ 58 + place 40 c + place 39 a + place 0 t))
  | .agloop l n b => some (BitVec.ofNat 64 (0x05 * 2 ^ 58 + place 56 l + place 40 n + place 0 b))
  | .agwait k p => some (BitVec.ofNat 64 (0x06 * 2 ^ 58 + place 40 k + place 0 p))
  | .agend => some (BitVec.ofNat 64 (0x07 * 2 ^ 58))
  | .agUnallocatedWord w => some w
  | _ => none

end Sys2Proof
end

