-- ==== Sys2Proof/Machine/State.lean ====
section
/-! DEFINITION. The state of the device: all that the spec names, in eight groups (control of the run, cores, fabric, memory,
engines, Drover, tenancy, hub), the faults and refusals of a step, and the state after reset. -/

namespace Sys2Proof.Machine

/-- Why a step stops. -/
inductive Fault where
  /-- Raised by an activity that names a place where R3 puts no such unit, or an entry of a list that holds fewer. Safe:
  the device has no such activity. -/
  | absentUnit
  deriving DecidableEq, Repr

/-- Why a step has no meaning. -/
inductive Refusal where
  /-- Raised by an arm of `exec` for an instruction that has no meaning yet. Safe: the model stops. -/
  | notModelled (mnemonic : String)
  deriving DecidableEq, Repr

/-- A token: null, a scalar of the control plane, or a vector of the data plane, with its poison (R18, R22, R57, R348). -/
inductive Tok where
  | null
  | ctl (x : Word) (poison : Bool)
  | data (x : Vec) (poison : Bool)
  deriving DecidableEq, Repr

/-- What an instruction site is, when exec runs one: a frame's instruction (R18). -/
inductive Focus where
  | none
  /-- Instruction `idx` of the block that the task at `pos`, `slot` runs. -/
  | fire (pos slot idx : Nat)
  /-- The matrix tile at `pos` (R266). -/
  | tile (pos : Nat)
  /-- AG program place `k` of the engine group's list (R298). -/
  | ag (k : Nat)
  deriving DecidableEq, Repr

/-- What a scheduled step does: fire an instruction of a frame, or an event. -/
inductive Act where
  | fire (pos slot idx : Nat)
  | tile (pos : Nat)
  | ag (k : Nat)
  | event (i : Instr)
  /-- a bank goes on with a switch whose BMODE has lost its block (R218) -/
  | bankSwitch (cluster num : Nat)
  /-- a line leaves its L2 slice (R220, R323) -/
  | evict (line : Nat)
  /-- a line of host memory is written back from the crossing cache (R246, R363) -/
  | writeBack (line : Nat)
  /-- firmware starts a sampling phase of a paddock on a die (R226) -/
  | samplePhase (pad die : Nat)
  /-- a launch of a mailbox reaches the Drover (R251, R302) -/
  | mailbox (pad ten : Nat)
  /-- root firmware writes an entry of a range table (R338) -/
  | rangeWrite (pad idx : Nat) (base limit offset attr : Word)
  /-- an uncorrectable error in a word of a memory (R348) -/
  | wordError (key : Nat)
  /-- an uncorrectable error in a word of a leased copy (R348) -/
  | copyError (cluster line word : Nat)
  /-- an uncorrectable error in a segment or directory of a pen (R348) -/
  | unitError (pad pos unit_ : Nat)
  /-- an uncorrectable error in Drover, hurdle or range-table state of a paddock (R347) -/
  | stateError (pad : Nat)
  /-- another device's export check starts to refuse requests, or takes them again (R365) -/
  | windowRefusal (pad dev win : Nat) (reads writes : Bool) (first : Nat)
  /-- root firmware limits a function to tenant scope, or allows system scope (R375) -/
  | scopePolicy (pad ten : Nat) (limited : Bool)
  /-- firmware sets the junction thresholds of a die (R387) -/
  | thresholds (die first second : Nat)
  /-- an access from outside that waited at a home goes on (R321, R324) -/
  | serveOutside (k : Nat)
  /-- a line of a task whose configuration has ended is written back (R181, R214) -/
  | retire (k : Nat)
  /-- the next step of bring-up (R381) -/
  | bootNext
  /-- a PCIe configuration request (R381) -/
  | configRequest
  /-- the package power or the average current reaches its limit, or falls below it (R386) -/
  | powerLimit (on : Bool)
  /-- a block is abandoned for the fault that it has raised (R18, R28, R29, R65) -/
  | arrivalFault (pos slot : Nat)
  /-- firmware assigns the device its number (R364) -/
  | deviceNumber (n : Nat)
  deriving DecidableEq, Repr

/-- The model's own control of a run (logs 1 to 3, 7). -/
structure Ctl where
  /-- Fabric cycles since power-on (R1). -/
  now : Nat
  /-- Cycles that a step outside the schedule takes. Log 2. -/
  pace : Nat
  /-- The activities still to come, each with the cycles before it. Log 1. -/
  sched : List (Nat × Act)
  /-- The latencies still to come of instructions for which the spec gives none (R391); with none left, 1 cycle. Log 1. -/
  lats : List Nat
  /-- Memory operations whose turn has come act in the same step. Log 3. -/
  eager : Bool
  /-- The counter at which free values are drawn. Log 7. -/
  fresh : Nat
  /-- The counter of internal identifiers. Log 1. -/
  ids : Nat
  focus : Focus
  deriving DecidableEq, Repr

/-- The states of a bound slot (R14). -/
inductive TaskSt where
  | idle
  | ready
  | running
  | yielded
  | faulted
  deriving DecidableEq, Repr

/-- The planes of a port (R162). -/
inductive PortPlane where
  | ctl
  | data
  | pulse
  deriving DecidableEq, Repr

/-- A port bound to a task (R162, R198). -/
structure Port where
  num : Nat
  plane : PortPlane
  wake : Bool
  deriving DecidableEq, Repr

/-- Whether an instruction of a frame has fired (R18, R22). -/
inductive Fired where
  | notYet
  | normal
  | asNull
  deriving DecidableEq, Repr

/-- The operand slots of one instruction of a frame (R18). -/
structure Ins where
  a : Option Tok
  b : Option Tok
  c : Option Tok
  fired : Fired
  deriving DecidableEq, Repr

/-- The exits of a block (R18, R91 to R95). -/
inductive ExitKind where
  | br
  | call
  | ybr
  | ret
  | tend
  | trap
  deriving DecidableEq, Repr

/-- The exit that fired: its instruction, its target word address, the code of a TRAP (R25). -/
structure Exit where
  kind : ExitKind
  idx : Nat
  target : Nat
  code : Word
  deriving DecidableEq, Repr

/-- Where a joined memory operation stands (R31, R340). -/
inductive OpSt where
  | waiting
  /-- withheld on the page request of that number, since a cycle, with its faulting address (R340 to R342) -/
  | withheld (k since va : Nat)
  /-- sent to its home, which has not yet answered (R147, R150) -/
  | sent
  | issued
  | nulled
  deriving DecidableEq, Repr

/-- A memory operation that has joined its block's chain: its links, its instruction and its operands (R30, R31). -/
structure MemOp where
  q : Nat
  p : Nat
  d : Nat
  idx : Nat
  a : Option Tok
  b : Option Tok
  c : Option Tok
  st : OpSt
  deriving DecidableEq, Repr

/-- What a fired instruction waits for. -/
inductive WaitKind where
  /-- a token on its port (R204, R123) -/
  | port (n : Nat)
  /-- the completion of a phase of a barrier (R208) -/
  | phase (bar phase : Nat)
  /-- a cycle count (R114) -/
  | timer (till : Nat)
  /-- the reply to its own steal, or its turn to try again (R210) -/
  | steal (sent : Bool)
  /-- the application of its remote arrival (R209) -/
  | arrival (id : Nat)
  /-- the operations below that identifier performed at paddock scope (R207, R111, R155, R209, R288) -/
  | order (upto : Nat)
  /-- its switch of that bank, since the cycle in which it fired (R218, R219) -/
  | bank (n since : Nat)
  /-- a ring, by cluster and base (R296) -/
  | ring (key : Nat)
  /-- the next slot of a ring, since the cycle in which it fired (R296) -/
  | slot (key since : Nat)
  deriving DecidableEq, Repr

/-- A fired instruction that has not yet sent its result. -/
structure Wait where
  idx : Nat
  kind : WaitKind
  deriving DecidableEq, Repr

/-- A steal outstanding on SREQ (R210, R211): the task's own or a request passed on, and the first token of its reply once
that has come. -/
structure Steal where
  own : Bool
  lo : Option Word
  deriving DecidableEq, Repr

/-- A port send that waits for credit (R27, R163). -/
structure PendSend where
  idx : Nat
  port : Nat
  tok : Tok
  deriving DecidableEq, Repr

/-- A token on its way from the instruction that sent it to one of its targets, with the cycle in which it arrives (R18, R115,
R134). -/
structure Flying where
  at_ : Nat
  idx : Nat
  tok : Tok
  tgt : Tgt
  deriving DecidableEq, Repr

/-- A fault that an instruction raises in its block: code, subcode, instruction index, address and extra field (R344). -/
structure Raise where
  code : Nat
  sub : Nat
  idx : Nat
  addr : Word := 0
  extra : Word := 0
  /-- flags of the instruction that fired and faults (R29) -/
  flags : Nat := 0
  deriving DecidableEq, Repr

/-- A block frame (R176): the block, what it read at dispatch, its instructions, and what commits at completion. -/
structure Frame where
  id : Nat
  hdr : Nat
  n : Nat
  m : Nat
  w : Nat
  /-- cycle and order of dispatch (R28, R178) -/
  at_ : Nat
  order : Nat
  /-- the special registers 0x00 to 0x31 at dispatch (R17, R100) -/
  spr : List Word
  /-- the `g` registers as committed before dispatch (R17) -/
  g0 : Vector Word 64
  /-- the `g` registers that copies marked pending at dispatch and that still are (R17, R289) -/
  gpend : List Nat
  ins : List Ins
  outs : Nat
  gw : List (Nat × Nat × Word)
  vw : List (Nat × Nat × Vec)
  xw : List (Nat × Nat × Word)
  flags : Nat
  narrowed : Bool
  exit : Option Exit
  bkpt : Option Nat
  chain : List MemOp
  sends : List PendSend
  waits : List Wait
  /-- cycles for which the watchdog did not count (R342) -/
  paused : Nat
  /-- tokens that have not yet reached their targets (R115, R134) -/
  flying : List Flying
  /-- the cycle in which what is sent now reaches its targets: the current one, and later while an instruction issues -/
  till : Nat
  /-- the fault of the lowest index that its block has raised in this cycle (R18, R28, R65, R348) -/
  raised : Option Raise
  /-- before the current cycle the chain was closed with conditions 1 and 2 of R25 holding: the slots that had not joined are skipped
  (R32) -/
  shut : Bool
  /-- the cycle in which the three conditions of R25 were met, while a copy still holds the completion back (R65, R289) -/
  met : Option Nat
  deriving DecidableEq, Repr

/-- A memory request of a task on its way to its home (R31, R242, R246): the operation, its frame, its operands, the keys
of its accesses still to be made in order (none for an inactive lane), and the lanes read so far. -/
structure Req where
  id : Nat
  fid : Nat
  hdr : Nat
  idx : Nat
  ins : Instr
  a : Option Tok
  b : Option Tok
  c : Option Tok
  keys : List (Option Nat)
  got : List Nat
  narrowed : Bool
  /-- a read met a poisoned word (R348) -/
  tainted : Bool
  /-- redirects followed (R367) -/
  hops : Nat
  /-- the written lines that it still holds in the cluster cache until they are written back, each with its bank (R215), and the cycle
  in which they were written -/
  ways : List (Nat × Nat)
  used : Nat
  deriving DecidableEq, Repr

/-- A write that has been written at its home while leases granted before it may be live (R246). -/
structure Lagging where
  id : Nat
  line : Nat
  at_ : Nat
  deriving DecidableEq, Repr

/-- What a completed engine operation leaves for what joins it (R251, R253): the register of a copy, or 64 for scans; its timestamp;
the lines of host memory that it has written. -/
structure Join where
  reg : Nat
  pts : Nat
  lines : List Nat
  deriving DecidableEq, Repr

/-- The registers and the state of a bound task slot (R11 to R15, R113, R177). -/
structure Task where
  pos : Nat
  slot : Nat
  cid : Nat
  st : TaskSt
  g : Vector Word 64
  v : Vector Vec 32
  /-- `g` registers that a copy marks pending, with the copy (R288) -/
  pending : List (Nat × Nat)
  cur : Nat
  entry : Nat
  prio : Nat
  pass : Nat
  /-- the order in which the task entered READY, and the cycle in which it entered READY, IDLE or YIELDED (R15, R177) -/
  since : Nat
  readyAt : Nat
  clu : Word
  part : Word
  cfg : Word
  ten : Word
  lnk : Word
  flg : Word
  rm : Word
  pts : Word
  bound : Nat
  args : Word
  rnglo : Word
  rnghi : Word
  steal : Word
  shp : Vector Word 8
  fault : Word
  scope : Word
  perf : Vector Word 8
  ports : List Port
  sport : Option Nat
  frame : Option Frame
  queue : List Req
  reds : List Req
  lag : List Lagging
  /-- lines of host memory that it has written and that are not yet written back from the crossing cache (R246, R261) -/
  owed : List Nat
  /-- its engine operations that have completed (R251, R253) -/
  joins : List Join
  /-- the latest place in T of its REDs and of its batches in partials, which what orders them takes (R246, R247) -/
  redPts : Nat
  /-- its timestamp at its last fence of paddock or system scope: its later REDs follow that (R247) -/
  fenced : Nat
  /-- steals outstanding on SREQ, oldest first: own or forwarded (R211) -/
  steals : List Steal
  /-- reply tokens still to be sent on VRPY, oldest first (R211) -/
  replies : List Word
  /-- the cycle in which a request on VREQ was last served (R211) -/
  served : Nat
  /-- FFLG [0]: the task waits in FAULTED (R346), by the fault of that CODE -/
  held : Bool
  code : Nat
  /-- saved in a drain (R351, R352) -/
  saved : Bool
  deriving DecidableEq, Repr

/-- An operation that the cluster had accepted from a task whose configuration has ended: the Drover writes its lines back (R181,
R214). -/
structure Retired where
  task : Task
  req : Req
  deriving DecidableEq, Repr

/-- A barrier of a PE (R205). -/
structure Bar where
  pos : Nat
  num : Nat
  count : Nat
  arr : Nat
  phase : Nat
  rem : Bool
  recs : List (Nat × Nat)
  /-- the cycle of the last event that touched it, and that event's turn in its cycle (R205) -/
  touched : Nat
  turn : Nat
  /-- the timestamps of the arrivals of this phase, and of those of completed phases (R253) -/
  pts : Nat
  past : Nat
  deriving DecidableEq, Repr

/-- A remote arrival on its way (R209). -/
structure Arrival where
  id : Nat
  target : Nat
  bar : Nat
  cid : Nat
  pos : Nat
  slot : Nat
  fid : Nat
  idx : Nat
  /-- what it orders behind it (R253) -/
  pts : Nat
  deriving DecidableEq, Repr

/-- What a PE has issued in a cycle (R19), and until when its scalar divide unit, its scalar square-root unit (R115) and its
vector divide and square-root unit (R134) are busy. -/
structure Mix where
  pos : Nat
  at_ : Nat
  used : List IssueClass
  divTill : Nat
  rootTill : Nat
  vecTill : Nat
  deriving DecidableEq, Repr

/-- The PEs' slots, issue mixes and barriers, arrivals in flight and dropped arrivals counted at their targets (R209). -/
structure Cores where
  tasks : List Task
  mixes : List Mix
  bars : List Bar
  arrivals : List Arrival
  dropped : List (Nat × Nat)
  deriving DecidableEq, Repr

/-- The classes of an endpoint (R185). -/
inductive EpClass where
  | pe
  | elem
  | engine
  deriving DecidableEq, Repr

/-- An endpoint: its tile, its class and its index (R185). -/
structure Ep where
  pos : Nat
  cls : EpClass
  idx : Nat
  deriving DecidableEq, Repr

/-- A flit: 256 data bits with 16 sideband bits on the data plane (R168), 64 data bits with 4 on the control plane (R172). -/
inductive Flit where
  | data (side : BitVec 16) (bits : BitVec 256)
  | ctl (side : BitVec 4) (bits : Word)
  deriving DecidableEq, Repr

/-- A link of a configuration (R163 to R173); its sender's and its receiver's last token (R169, R170). -/
structure Link where
  cid : Nat
  src : Ep
  dst : Ep
  plane : PortPlane
  depth : Nat
  vc : Nat
  hops : Nat
  credits : Nat
  returning : Nat
  last : Option Vec
  heard : Option Vec
  flight : List Flit
  pulses : Nat
  raw : Nat
  masked : Nat
  repeats : Nat
  deriving DecidableEq, Repr

/-- An input endpoint: the tokens it holds (marked when they took a credit of its link) with the cycles in which they arrived
(R196), its pulses, its marker place, the channel state recorded after a save (R162, R165, R173, R351). -/
structure Input where
  cid : Nat
  ep : Ep
  plane : PortPlane
  toks : List (Tok × Bool)
  came : List Nat
  pulses : Nat
  marker : Bool
  /-- the identifier that was next when the marker came: frames from it on take nothing more (R351) -/
  markedAt : Nat
  /-- a link path leads from the element's own outputs back to it (R351) -/
  cyc : Bool
  chan : List Tok
  deriving DecidableEq, Repr

/-- The element kinds (R69). -/
inductive ElemKind where
  | cnt
  | steer
  | merge
  | repl
  | win
  | maxr
  | dly
  | cvt
  | xfm
  | mem
  | join
  deriving DecidableEq, Repr

/-- A line of a coalescing buffer (R230). -/
structure BufLine where
  off : Nat
  val : Vec
  dirty : Bool
  deriving DecidableEq, Repr

/-- An element in its slot with its counters, its held tokens and its region (R188 to R197, R230). -/
structure Elem where
  cid : Nat
  pos : Nat
  slot : Nat
  kind : ElemKind
  spec : Nat
  /-- passes to run, next index, second counter, waiting for the inner counter (R189), copies left (R191) -/
  passes : Nat
  i : Nat
  j : Nat
  inner : Bool
  /-- the count of a counter, read from the word or the argument block (R188) -/
  count : Nat
  toks : List Tok
  lanes : List Nat
  pat : Option Tok
  sel : Option Nat
  base : Nat
  len : Nat
  /-- the element holds its region (R197) -/
  own : Bool
  buf : List BufLine
  /-- lines of the pass's snapshot still to be sent (R228) -/
  snap : List Vec
  /-- outputs produced that wait for credit, in order: port and token (R186) -/
  out : List (Nat × Tok)
  /-- an access of it was dropped at a hurdle (R370) -/
  lost : Bool
  saved : Bool
  deriving DecidableEq, Repr

/-- Why the Drover drains a configuration, and when it began (R350, R354). -/
structure Drain where
  why : Nat
  since : Nat
  /-- a request that it waits on was refused during the drain, with the configuration's faulting address (R343) -/
  failed : Option Nat
  /-- edge tiles whose engine ports have saved (R351) -/
  edges : List Nat
  deriving DecidableEq, Repr

/-- A placed configuration (R157 to R161, R179, R186). -/
structure Conf where
  cid : Nat
  ident : Nat
  pad : Nat
  ten : Nat
  strip0 : Nat
  strips : Nat
  words : List Word
  args : Word
  launch : Nat
  node : Nat
  flags : Nat
  start : Nat
  moved : Nat
  drain : Option Drain
  /-- writes of its elements, deliveries and tiles under leases that may still be live (R180, R246) -/
  lag : List Lagging
  /-- the timestamp that the accesses of its tasks and units follow (R252, R253) -/
  pts : Nat
  deriving DecidableEq, Repr

/-- The fabric: configurations, elements, endpoints, links, and what stands at hurdles and hops (R183, R349, R370). -/
structure Fab where
  confs : List Conf
  elems : List Elem
  inputs : List Input
  links : List Link
  /-- hops on which no work is placed any more, by their two tiles (R349) -/
  badHops : List (Nat × Nat)
  deriving DecidableEq, Repr

/-- The timestamps of a line at its home (R244), and the write timestamp that it had before its last write (R231). -/
structure LineTs where
  line : Nat
  wts : Nat
  rts : Nat
  prev : Nat
  deriving DecidableEq, Repr

/-- A leased copy in a cluster cache or the crossing cache (R215, R245, R363): the tenant slot that it was granted to, by four times its
paddock and its number; its way, in a cluster the bank that holds it; its poisoned words as a mask (R348). Copies stand in the order of
their last use. -/
structure Copy where
  line : Nat
  cluster : Nat
  who : Nat
  /-- its set (R215, R363, R372) -/
  set : Nat
  way : Nat
  val : Vec
  bad : Nat
  wts : Nat
  rts : Nat
  granted : Nat
  used : Nat
  deriving DecidableEq, Repr

/-- A switch of a bank under way: the BMODE that began it, by its task, frame and index, and the new mode (R218). -/
structure Switch where
  pos : Nat
  slot : Nat
  fid : Nat
  idx : Nat
  mode : Nat
  deriving DecidableEq, Repr

/-- The mode of a bank of a cluster, and its running switch (R214, R218, R219). -/
structure Bank where
  cluster : Nat
  num : Nat
  mode : Nat
  switching : Option Switch
  deriving DecidableEq, Repr

/-- An entry of a range table (R338). -/
structure RangeEnt where
  base : Word
  limit : Word
  offset : Word
  attr : Word
  deriving DecidableEq, Repr

/-- An entry of a TLB tile (R337): both stages for one page of 2^`size` bytes: the leaf of stage 1, the key it was read from, the
intermediate address of the page and the range entry that covers it. -/
structure Tlb where
  tile : Nat
  pad : Nat
  ten : Nat
  page : Nat
  size : Nat
  entryKey : Nat
  attr : Nat
  inter : Nat
  range : RangeEnt
  used : Nat
  deriving DecidableEq, Repr

/-- A page request (R340, R341, R343). -/
structure PageReq where
  id : Nat
  pad : Nat
  ten : Nat
  page : Nat
  write : Bool
  host : Bool
  fgen : Nat
  /-- the function that asked (R368, R369) -/
  vf : Nat
  /-- address of the first token withheld -/
  va : Nat
  sent : Nat
  asked : Bool
  stale : Bool
  /-- configurations whose elements, copies or streams wait on it, and nodes (launch, node) that do, each with its faulting
  address (R303, R340, R341) -/
  confs : List (Nat × Nat)
  nodes : List ((Nat × Nat) × Nat)
  /-- copies that wait on it: they may outlive their configuration (R289, R292) -/
  copies : List Nat
  deriving DecidableEq, Repr

/-- A partial RED line of a die (R241): its partial home, and whether it stands in a slice there; one that was evicted is on its way to
the line's home. -/
structure Partial where
  line : Nat
  die : Nat
  home : Nat
  placed : Bool
  val : Vec
  valid : Nat
  op : Nat
  size : Nat
  pad : Nat
  ten : Nat
  pos : Nat
  slot : Nat
  cid : Nat
  deriving DecidableEq, Repr

/-- A code table slot of a paddock on a die (R226). -/
structure CodeTable where
  pad : Nat
  die : Nat
  num : Nat
  current : Bool
  /-- (symbol, length); symbol 65536 is ESC -/
  lens : List (Nat × Nat)
  deriving DecidableEq, Repr

/-- A sampling count of a 16-bit value (R226). -/
structure Sample where
  pad : Nat
  die : Nat
  val : Nat
  n : Nat
  deriving DecidableEq, Repr

/-- An empty result row of a node (R321). -/
structure EmptyRow where
  unit_ : Nat
  row : Nat
  full : Bool
  deriving DecidableEq, Repr

/-- An access parked on an empty row (R321): the DRAM row, and who waits (0 a task's request, 1 an element, 2 a matrix tile, 3 a
copy, 4 a stream program, 5 an AMOD delivery, 6 a partial line, 7 a host's or another device's access, 8 a row unit) with its
number. -/
structure Waiter where
  row : Nat
  kind : Nat
  id : Nat
  deriving DecidableEq, Repr

/-- Where an access from outside comes from: a host function, by paddock, tenant and address (R251), or another device (R365). -/
inductive OutSrc where
  | host (pad ten va : Nat)
  | device (dev : Nat)
  deriving DecidableEq, Repr

/-- An access from outside that waits at a home (R321, R324): the slot of the owning paddock whose key it uses (`whoOf`), what it asks, and
its keys. -/
structure Outside where
  id : Nat
  src : OutSrc
  who : Nat
  op : RemoteOp
  keys : List (Nat × Nat)
  deriving DecidableEq, Repr

/-- A line of host memory in the crossing cache, in its set and way (R363, R372), with the cycle of its last use. -/
structure HostLine where
  line : Nat
  set : Nat
  way : Nat
  used : Nat
  deriving DecidableEq, Repr

/-- A line that an L2 slice holds (R220), in a set (R372). -/
structure L2Line where
  line : Nat
  dirty : Bool
  set : Nat
  deriving DecidableEq, Repr

/-- An entry of the remote translation cache (R366): a page of a device's windows, and what the lookup at the target gave: the target
paddock, the home edge tile, the route. -/
structure Rtc where
  dev : Nat
  page : Nat
  pad : Nat
  home : Nat
  route : Nat
  deriving DecidableEq, Repr

/-- An entry of the address translation cache (R368): an I/O page of a function's tenant and the host page that it stands for. -/
structure Ats where
  pad : Nat
  ten : Nat
  page : Nat
  host : Nat
  deriving DecidableEq, Repr

/-- The memory levels and what stands beside their bytes. -/
structure Mem where
  bytes : List Host.Cell
  poison : List Nat
  lines : List LineTs
  copies : List Copy
  banks : List Bank
  tlb : List Tlb
  pages : List PageReq
  partials : List Partial
  empties : List EmptyRow
  /-- accesses parked on rows, in the order of their arrival (R321) -/
  parkedBy : List Waiter
  /-- accesses from outside that wait at a home, in the order of their arrival (R321) -/
  outside : List Outside
  /-- metadata entries of PACKED blocks that differ from raw (R223) -/
  packMeta : List (Nat × Nat)
  tables : List CodeTable
  samples : List Sample
  /-- sampling phases that run, by paddock and die (R226) -/
  phases : List (Nat × Nat)
  moved : List (Nat × Nat)
  /-- physical pages mapped PACKED, with their paddock (R223) -/
  packed : List (Nat × Nat)
  /-- physical pages mapped with NM (R222) -/
  near : List Nat
  /-- lines in L2 slices (R220), and the DRAM contents of lines whose home shows something else (R323) -/
  l2 : List L2Line
  under : List (Nat × Vec)
  /-- bytes of host memory written in the crossing cache and not yet written back, with what the host still sees (R251) -/
  hostOld : List Host.Cell
  hostLines : List HostLine
  /-- the number of the key that encrypts a line which a tenant slot has written (R373) -/
  sealed : List (Nat × Nat)
  /-- operations accepted from tasks whose configuration has ended, in order (R181, R214) -/
  retired : List Retired
  /-- the hub's translation caches: of remote windows (R366), of host pages with AT = 1 (R368) -/
  rtc : List Rtc
  ats : List Ats
  /-- how often the host has changed what an I/O page of a function stands for, by paddock, tenant and page (R368) -/
  atsGen : List ((Nat × Nat × Nat) × Nat)
  deriving DecidableEq, Repr

/-- The issuing context of asynchronous work (R49, R359). -/
inductive Ctx where
  | task (pad ten cid pos slot : Nat)
  | conf (pad ten cid : Nat)
  | host (pad ten : Nat)
  deriving DecidableEq, Repr

/-- A command under way in a matrix tile (R284, R285): its word, the steps done, what it holds (stream tokens of MGV, tokens
of a drained row, rows prepared by MSTT), its place in them, its weight row or drained row, the drain entry, the address
token once taken, and the tile store's lines under live leases. -/
structure Running where
  word : Word
  step : Nat
  tokens : List Vec
  byte : Nat
  row : Nat
  entry : Nat
  addr : Option Word
  lag : List Lagging
  deriving DecidableEq, Repr

/-- A matrix tile (R263 to R268); its slots and cells are bytes of memory regions 4 and 5; its timestamp (R253). -/
structure Tile where
  pos : Nat
  cid : Nat
  pts : Nat
  claimed : Nat
  seqn : Nat
  /-- it runs no further command step: after a fault (R268), or a request dropped at a hurdle (R370) -/
  blocked : Bool
  run : Option Running
  /-- a completion token that waits for credit (R266) -/
  done : Option Word
  badRows : List Nat
  badCells : List Nat
  saved : Bool
  deriving DecidableEq, Repr

/-- A copy of a cluster's copy unit (R288 to R292): the task's register, the ends, the shape record, whether it reads a slot that
its cluster held by RBWAIT, the ring it goes to with its reserved slot, whether it holds one of the unit's places, and the
pieces already moved. -/
structure CopyOp where
  id : Nat
  cluster : Nat
  pad : Nat
  ten : Nat
  cid : Nat
  pos : Nat
  slot : Nat
  g : Nat
  src : Word
  dst : Word
  shape : Word
  held : Bool
  ring : Option Nat
  ringSlot : Option Nat
  running : Bool
  /-- the cycle in which its reservation reaches the ring's cluster (R292) -/
  reach : Nat
  /-- an access of it was dropped at a hurdle (R370) -/
  lost : Bool
  moved : Nat
  /-- its writes under leases that may still be live (R246, R253) -/
  lag : List Lagging
  /-- the lines of host memory that it has written (R251) -/
  owed : List Nat
  /-- its timestamp (R252, R253) -/
  pts : Nat
  /-- the bytes and the marks of its cluster's windows, once its configuration has ended (R289) -/
  kept : Option (List Host.Cell × List Nat)
  deriving DecidableEq, Repr

/-- Which producer a ring is bound to (R295): copies of a configuration, an AG program, a scan. -/
inductive RingBind where
  | none
  | copies (cid : Nat)
  | stream (prog : Nat)
  | scan (id : Nat)
  deriving DecidableEq, Repr

/-- An open ring (R294, R295), named by its cluster and base: slots published, delivered, released; slots reserved and not
yet published; slots published out of turn; the timestamps of what was published and of what was released (R253). -/
structure Ring where
  key : Nat
  slots : Nat
  size : Nat
  w : Nat
  c : Nat
  r : Nat
  flying : Nat
  bind : RingBind
  early : List Nat
  pts : Nat
  back : Nat
  deriving DecidableEq, Repr

/-- A fibre scan in progress (R155): its task, its header's key, its ring, the next coordinate and the last. -/
structure Scan where
  id : Nat
  cid : Nat
  pos : Nat
  slot : Nat
  key : Nat
  ring : Nat
  next : Nat
  hi : Nat
  /-- its timestamp (R252, R253) -/
  pts : Nat
  deriving DecidableEq, Repr

/-- An AG program in its place (R298 to R300): its edge tile, the CNODE it runs for, the KNODE configuration it is bound to,
the address of its next word, that word and its operands once it has been reached, its loop counters, the bases of words
executed with ADV (by address), the tile it has reached, tokens of a tile still to be sent or already taken, the pulses it
has taken, its writes under live leases, and whether a drain has stopped it. -/
structure AgProg where
  id : Nat
  pos : Nat
  place : Nat
  launch : Nat
  node : Nat
  pad : Nat
  ten : Nat
  bind : Option Nat
  /-- the address of the program (R356) -/
  start : Word
  pc : Word
  word : Option Word
  ops : Option (List Word)
  loops : Vector (Option Nat) 4
  adv : List (Word × Word × Word)
  tile : Nat
  left : List Vec
  pulses : Nat
  lag : List Lagging
  /-- its timestamp (R253) -/
  pts : Nat
  stopped : Bool
  deriving DecidableEq, Repr

/-- Pairs in segments, in coordinate order, under a root (R233, R234): `dirs` holds the number of entries of each directory
below a two-level root. -/
structure Shape where
  segs : List (List (Nat × Nat))
  dirs : List Nat
  two : Bool
  deriving DecidableEq, Repr

/-- One die's partial of a fibre (R237), with the edge tile that is its home, the units of that tile's pen that hold its root and
its segments, and those of them that are poisoned (R348). -/
structure FibPart where
  die : Nat
  pos : Nat
  segs : List (List (Nat × Nat))
  root : Nat
  segUnits : List Nat
  bad : List Nat
  deriving DecidableEq, Repr

/-- The storage of a live fibre (R232 to R240), by the memory key of its header; the header record itself is bytes of
memory. Of its home's pen it holds the unit of its root directory, the units of its segments and directories in their order, those
reserved that hold none (R235), and the poisoned ones among them (R348). -/
structure Fibre where
  key : Nat
  handle : Nat
  pad : Nat
  shape : Shape
  parts : List FibPart
  root : Nat
  segUnits : List Nat
  dirUnits : List Nat
  spareSegs : List Nat
  spareDirs : List Nat
  bad : List Nat
  deriving DecidableEq, Repr

/-- The pen of an edge tile: units 0 to `size` - 1 (R232). -/
structure Pen where
  pad : Nat
  pos : Nat
  size : Nat
  deriving DecidableEq, Repr

/-- The power states of a pseudo-channel with its row unit (R324). -/
inductive Power where
  | up
  | down
  deriving DecidableEq, Repr

/-- What a pseudo-channel's row unit keeps between nodes (R309): its sixteen lanes' broadcast registers of 1 KiB and 64 accumulators,
its buffer of 1 KiB, its microprogram counter. -/
structure RowRegs where
  pch : Nat
  regs : List (List Byte)
  acc : List (List Nat)
  buffer : List Byte
  step : Nat
  deriving DecidableEq, Repr

/-- Every row unit right after reset (R309): the spec gives no values. Log 50. -/
def RowRegs.reset (pch : Nat) : RowRegs :=
  { pch := pch, regs := List.replicate 16 (List.replicate 1024 0), acc := List.replicate 16 (List.replicate 64 0)
    buffer := List.replicate 1024 0, step := 0 }

/-- A row unit that holds a node (R309, R313, R319 to R324), by its pseudo-channel counted over the device: its near-memory
record, the keys of its pages, its lanes' registers and accumulators, its buffer, its microprogram counter, whether its registers
are loaded (R313), whether it
stands at a boundary not yet looked at, whether it is suspended and for which requests, whether it is cancelled. -/
structure RowUnit where
  pch : Nat
  launch : Nat
  node : Nat
  record : BitVec 512
  pad : Nat
  ten : Nat
  wpage : Nat
  spage : Nat
  rbase : Nat
  regs : List (List Byte)
  acc : List (List Nat)
  buffer : List Byte
  step : Nat
  loaded : Bool
  fresh : Bool
  suspended : Bool
  serving : List (Nat × Nat × Nat)
  cancelled : Bool
  /-- its timestamp (R253) -/
  pts : Nat
  power : Power
  deriving DecidableEq, Repr

/-- The old value of an AMOD on its way (R145): the delivery word, the value, its size in bytes, the configuration, the key
of a store, and the task and the request it came from. -/
structure Delivery where
  word : Word
  value : Nat
  size : Nat
  cid : Nat
  key : Nat
  pad : Nat
  ten : Nat
  pos : Nat
  slot : Nat
  id : Nat
  deriving DecidableEq, Repr

/-- The engines. -/
structure Eng where
  tiles : List Tile
  copies : List CopyOp
  rings : List Ring
  scans : List Scan
  progs : List AgProg
  fibres : List Fibre
  pens : List Pen
  units : List RowUnit
  /-- row units that differ from reset, apart from those that hold a node (R309) -/
  rowRegs : List RowRegs
  deliveries : List Delivery
  deriving DecidableEq, Repr

/-- Where a node of a launch stands (R304, R305); `finished` before it has released its successors. -/
inductive NodeSt where
  | waiting
  | pool
  | running
  | finished
  | done
  | dropped
  deriving DecidableEq, Repr

/-- A node of a live launch (R301 to R305): its record, its near-memory record, the bases of its declared ranges and the
translations made at validation (virtual page, memory key), its predecessors not yet done. -/
structure Node where
  record : BitVec 512
  near : BitVec 512
  bases : List Word
  pages : List (Nat × Nat)
  preds : Nat
  st : NodeSt
  entered : Nat
  raises : Nat
  order : Nat
  /-- cycles in the pool while its tenant was inactive (R358) -/
  paused : Nat
  /-- its declared writes under leases that may still be live (R246, R253) -/
  lag : List Lagging
  /-- the timestamp that its accesses follow, and once it is finished the latest of them (R252, R253) -/
  pts : Nat
  deriving DecidableEq, Repr

/-- A live launch (R302 to R305). -/
structure Launch where
  id : Nat
  pad : Nat
  ten : Nat
  graph : Word
  args : Word
  tag : Nat
  ctx : Ctx
  nodes : List Node
  failure : Option (Nat × Nat × Word)
  deriving DecidableEq, Repr

/-- A checkpoint (R355, R356): its header fields and the saved parts. -/
structure Ckpt where
  id : Nat
  why : Nat
  conf : Conf
  /-- page requests still outstanding that its withheld accesses wait on, each with their faulting address (R343) -/
  reqs : List (Nat × Nat)
  ready : Bool
  /-- when it entered the ready pool, and cycles in it while its tenant was inactive (R304, R357, R358) -/
  entered : Nat
  paused : Nat
  cycles : Nat
  tasks : List Task
  elems : List Elem
  inputs : List Input
  links : List Link
  tiles : List Tile
  bars : List Bar
  banks : List Bank
  rings : List Ring
  copies : List CopyOp
  scans : List Scan
  progs : List AgProg
  cells : List Host.Cell
  /-- the poisoned words among them (R348, R353) -/
  marks : List Nat
  deriving DecidableEq, Repr

/-- A notify entry that waits for room in its queue (R307). -/
structure Note where
  pad : Nat
  ten : Nat
  graph : Word
  value : Word
  node : Nat
  status : Nat
  tag : Nat
  deriving DecidableEq, Repr

/-- Where the blocks of a task lie (R87, R390): the address of its MAIN word, the address of its first header in memory, its
words, and its first word address in the instruction stores. Log 6. -/
structure TextRange where
  pad : Nat
  ten : Nat
  word : Nat
  va : Nat
  words : Nat
  first : Nat
  deriving DecidableEq, Repr

/-- The Drover. -/
structure Drv where
  launches : List Launch
  ckpts : List Ckpt
  notes : List Note
  notifySeq : Nat
  texts : List TextRange
  /-- the cycle of the last GLAUNCH validated (R302) -/
  launchedAt : Option Nat
  deriving DecidableEq, Repr

/-- The states of a TDI (R368, R376). -/
inductive Tdi where
  | unlocked
  | locked
  | run
  | stopping
  | stopped
  | error
  deriving DecidableEq, Repr

/-- A tenant slot of a paddock with its function's registers (R302, R345, R369, R373 to R376). -/
structure Tenant where
  enabled : Bool
  root : Nat
  sysScope : Bool
  tdi : Tdi
  key : Option (BitVec 256)
  /-- the number of that key: no two keys have one -/
  keyNo : Nat
  lgraph : Word
  largs : Word
  lstat : Word
  /-- launches written to LGO, with LGRAPH and LARGS as they stood, that wait for earlier posted writes (R88, R251, R302) -/
  goes : List (Word × Word × BitVec 32)
  lflg : Nat
  nqsize : Nat
  nqbase : Word
  nqhead : Nat
  nqtail : Nat
  fabase : Word
  fasize : Nat
  fahead : Nat
  fatail : Nat
  falost : Nat
  fpol : Nat
  taddr : Word
  orphf : Word
  dprbase : Word
  dprsize : Nat
  dprseq : Nat
  stalepr : Nat
  fgen : Nat
  /-- records were lost before the next one (R345) -/
  lost : Bool
  /-- the low half of TCTL, kept until its high half is written (R389) -/
  tctl : Nat
  /-- since when the tenant is not the active one (R358) -/
  idleSince : Nat
  /-- the virtual function assigned to the slot (R368) -/
  vf : Nat
  /-- the paddock's PDROP at the function's last reset (R376, R385) -/
  pdropAt : Nat
  /-- a function-level reset has begun (R385) -/
  resetting : Bool
  deriving DecidableEq, Repr

/-- A paddock (R370 to R374). -/
structure Paddock where
  id : Nat
  first : Nat
  count : Nat
  mode : Nat
  addressBound : Bool
  drlim : Nat
  pen : Nat
  mask : Nat
  active : Nat
  /-- the active tenant's slice has ended and its work drains (R358) -/
  leaving : Bool
  /-- the active tenant's checkpoints are restored before its pool is dispatched (R358) -/
  restoring : Bool
  seq : Nat
  /-- place of PSTAT (R389) -/
  place : Nat
  ranges : List RangeEnt
  tenants : Vector Tenant 4
  tracing : Bool
  cap : Nat
  trace : List (List Word)
  traceDrops : Nat
  foldLoss : Nat
  pdrop : Nat
  ended : Bool
  deriving DecidableEq, Repr

/-- An entry of the window export table (R365). -/
structure Export where
  pad : Nat
  base : Nat
  len : Nat
  importers : List (Nat × Nat)
  write : Bool
  deriving DecidableEq, Repr

/-- Requests of a paddock that another device's export check refuses: reads or writes of a window from an offset on (R365). -/
structure Denied where
  pad : Nat
  dev : Nat
  win : Nat
  reads : Bool
  writes : Bool
  first : Nat
  deriving DecidableEq, Repr

/-- Tenancy and devices. -/
structure Ten where
  paddocks : List Paddock
  exports : List Export
  downRoutes : List Nat
  denied : List Denied
  device : Nat
  /-- writes of work that has ended, by paddock and tenant, that are not yet performed at paddock scope (R246, R378) -/
  lag : List (Nat × Nat × Lagging)
  /-- posted writes of a function, by paddock and tenant, that are not yet performed at paddock scope (R251) -/
  posted : List (Nat × Nat × Lagging)
  /-- FGEN and STALEPR of functions that no slot is assigned to any more, by number (R369) -/
  vfs : List (Nat × Nat × Nat)
  deriving DecidableEq, Repr

/-- An image of a die held for the next reset (R382, R388). -/
structure Firmware where
  keyHash : Nat
  version : Nat
  sigOk : Bool
  body : List Byte
  deriving DecidableEq, Repr

/-- A die's boot facts: fused key hash and version, identity, images by measurement index, measurements (R380, R382). -/
structure DieBoot where
  keyHash : Nat
  version : Nat
  /-- its RSA-3072 identity key and its certificate chain, by number (R380) -/
  identity : Nat
  chain : Nat
  images : List (Nat × Firmware)
  pending : List (Nat × Firmware × Bool)
  measured : List (Nat × BitVec 256)
  inRom : Bool
  deriving DecidableEq, Repr

/-- What leaves the device: messages in the order sent (R307, R341, R380, R388). -/
inductive Msg where
  | pageRequest (pad ten page : Nat) (write : Bool) (id : Nat)
  | firmwareRequest (pad ten page : Nat) (write : Bool) (id : Nat)
  | vector (pad ten vec : Nat)
  /-- a measurement, signed with the die's identity key (R380) -/
  | spdm (die index : Nat) (value : Option (BitVec 256)) (signer : Nat)
  | monitor (hstat pwr rails temp : Nat) (skipMask : Nat) (states : List Word)
  | hostData (pad ten va : Nat) (bytes : Option (List Byte))
  | remoteData (dev : Nat) (bytes : Option (List Byte)) (flags : Nat)
  /-- the answer to a PCIe configuration request: to ask again (CRS), or served (R381) -/
  | configAnswer (retry : Bool)
  | linkDown
  | atsDone (page : Nat)
  deriving DecidableEq, Repr

/-- The hub's housekeeping, boot and power state (R381 to R389). -/
structure Hub where
  ready : Bool
  therm : Bool
  bootDie : Nat
  bootStep : Nat
  /-- the bring-up step that has finished last; 0 before step 1 -/
  stage : Nat
  /-- pseudo-channels that fail training in this bring-up (R383) -/
  failed : List Nat
  /-- a hot reset or a reset of PF0 has begun (R385) -/
  resetting : Bool
  /-- the package power or the current averaged over 1 ms is at its limit (R386) -/
  atLimit : Bool
  excluded : List Nat
  pwr : BitVec 32
  /-- issue cycles skipped since power-on; PTHR shows them divided by 2^16 (R386) -/
  skipped : Nat
  temp : BitVec 32
  policy : List (BitVec 128)
  auto : Bool
  /-- entries of the boot policy that were skipped (R384) -/
  skipMask : Nat
  /-- cycles in every 16 that throttling skips, while it does (R386) -/
  skip : Nat
  boots : List DieBoot
  surge : Bool
  hot : List Nat
  dead : List Nat
  /-- the junction thresholds of each compute die, °C (R387) -/
  thresholds : List (Nat × Nat)
  out : List Msg
  deriving DecidableEq, Repr

/-- The whole state. -/
structure State where
  ctl : Ctl
  cores : Cores
  fab : Fab
  mem : Mem
  eng : Eng
  drv : Drv
  ten : Ten
  hub : Hub
  deriving DecidableEq, Repr

/-- The registers of a function with no tenant, at their resets (R302, R345, R376). -/
def Tenant.reset : Tenant :=
  { enabled := false, root := 0, sysScope := true, tdi := .unlocked, key := none, keyNo := 0, lgraph := 0, largs := 0, lstat := 0, goes := []
    lflg := 0, nqsize := 0, nqbase := 0, nqhead := 0, nqtail := 0, fabase := 0, fasize := 0, fahead := 0, fatail := 0
    falost := 0, fpol := 3, taddr := 0, orphf := 0, dprbase := 0, dprsize := 0, dprseq := 0, stalepr := 0, fgen := 0
    lost := false, tctl := 0, idleSince := 0, vf := 0, pdropAt := 0, resetting := false }

/-- A die before its first boot: its fuses and images as the model presumes them. Log 17. -/
def DieBoot.reset (die : Nat) : DieBoot :=
  { keyHash := 0, version := 0, identity := die, chain := die, images := [], pending := [], measured := [], inRom := false }

/-- The device as it leaves power-on, before step 1 of R381: nothing is placed, no paddock exists, memory lists nothing. The
values that the spec does not give are those of logs 1 to 3, 6, 10 and 17. -/
def State.reset : State :=
  { ctl := { now := 0, pace := 1, sched := [], lats := [], eager := true, fresh := 0, ids := 0, focus := .none }
    cores := { tasks := [], mixes := [], bars := [], arrivals := [], dropped := [] }
    fab := { confs := [], elems := [], inputs := [], links := [], badHops := [] }
    mem := { bytes := [], poison := [], lines := [], copies := [], banks := [], tlb := [], pages := [], partials := []
             empties := [], parkedBy := [], outside := [], packMeta := [], tables := [], samples := [], phases := [], moved := [], packed := [], near := [], l2 := [], under := [], hostOld := [], hostLines := [], sealed := [], retired := [], rtc := [], ats := [], atsGen := [] }
    eng := { tiles := [], copies := [], rings := [], scans := [], progs := [], fibres := [], pens := [], units := [], rowRegs := []
             deliveries := [] }
    drv := { launches := [], ckpts := [], notes := [], notifySeq := 0, texts := [], launchedAt := none }
    ten := { paddocks := [], exports := [], downRoutes := [], denied := [], device := 0, lag := [], posted := [], vfs := [] }
    hub := { ready := false, therm := false, bootDie := 0, bootStep := 0, stage := 0, failed := [], resetting := false, atLimit := false, excluded := [], pwr := 0
             skipped := 0, temp := 0, policy := [], auto := true, skipMask := 0, skip := 0, boots := (List.range 5).map DieBoot.reset
             surge := false, hot := [], dead := [], thresholds := List.replicate 4 (105, 115), out := [] } }

end Sys2Proof.Machine
end

