-- ==== Sys2Proof/Machine/Operands.lean ====
section
/-! DEFINITION. Places of the device (R2 to R4), the lists of State, and every operand form: the slots of an instruction and
when it is ready (R18, R22), the special registers (R13, R100), the legality and plane of a target (R20, R57,
R64, R167), and the delivery of a token to a target (R18, R22, R24 to R28, R348). -/

namespace Sys2Proof.Machine

/-- What a step answers. -/
abbrev Out := Host.Outcome State Fault Refusal

/-! ### Places -/

def colOf (pos : Nat) : Nat := pos / 256
def rowOf (pos : Nat) : Nat := pos % 256
/-- A tile by column and row, as `x.pe` reads it (R13). -/
def mkPos (col row : Nat) : Nat := col * 256 + row
def stripOf (pos : Nat) : Nat := colOf pos / 2
def dieOfStrip (strip : Nat) : Nat := strip / 16
def dieOf (pos : Nat) : Nat := dieOfStrip (stripOf pos)

def isMatrixRow (row : Nat) : Bool := row = 2 || row = 7 || row = 17 || row = 22
/-- The rows of compute tiles (R3). -/
def isPeRow (row : Nat) : Bool := row < 25 && !isMatrixRow row && row ≠ 12
def isPe (pos : Nat) : Bool := colOf pos < 128 && isPeRow (rowOf pos)
def isMatrix (pos : Nat) : Bool := colOf pos < 128 && isMatrixRow (rowOf pos)
/-- An edge tile stands at row 25 (north) or 26 (south) of its column (R185, R344). -/
def isEdge (pos : Nat) : Bool := colOf pos < 128 && (rowOf pos = 25 || rowOf pos = 26)

/-- The first rows of the ten row pairs of a strip, north to south (R3). -/
def pairRows : List Nat := [0, 3, 5, 8, 10, 13, 15, 18, 20, 23]

/-- The index of the row pair that holds a compute row (R160). -/
def pairOf (row : Nat) : Nat := (pairRows.filter (· ≤ row)).length - 1

/-- The cluster of a PE, counted over the device: 10 to a strip (R160). -/
def clusterOf (pos : Nat) : Nat := 10 * stripOf pos + pairOf (rowOf pos)

/-- The north-west compute tile of a cluster, by which it is named (R344). -/
def clusterTile (c : Nat) : Nat := mkPos (2 * (c / 10)) (pairRows.getD (c % 10) 0)

/-- The place of a PE within its cluster: north-west, north-east, south-west, south-east (R219). -/
def inCluster (pos : Nat) : Nat :=
  colOf pos % 2 + if pairRows.contains (rowOf pos) then 0 else 2

/-- An edge tile by strip and position: 0 north-west, 1 north-east, 2 south-west, 3 south-east (R255). -/
def edgePos (strip p : Nat) : Nat := mkPos (2 * strip + p % 2) (if p < 2 then 25 else 26)
/-- The position of an edge tile in its strip (R255). -/
def edgeIndex (pos : Nat) : Nat := colOf pos % 2 + if rowOf pos = 25 then 0 else 2

/-! ### Lists of State -/

/-- Replaces the first element that satisfies `p`. -/
def replaceFirst {α : Type} (p : α → Bool) (x : α) : List α → List α
  | [] => []
  | y :: ys => if p y then x :: ys else y :: replaceFirst p x ys

/-- Replaces the element that satisfies `p`, or adds one at the end. -/
def upsert {α : Type} (p : α → Bool) (x : α) (l : List α) : List α :=
  if l.any p then replaceFirst p x l else l ++ [x]

/-- A byte range cut at the 64-byte boundaries of its own address. -/
def lineCuts : Nat → Nat → Nat → List (Nat × Nat)
  | 0, _, _ => []
  | n + 1, a, len =>
    if len = 0 then []
    else let m := min len (64 - a % 64); (a, m) :: lineCuts n (a + m) (len - m)

/-- A token stands in the buffer of an input from a cycle on, with or without a credit of its link. -/
def Input.put (i : Input) (now : Nat) (t : Tok) (linked : Bool) : Input :=
  { i with toks := i.toks ++ [(t, linked)], came := i.came ++ [now] }

/-- Drops the element at an index. -/
def dropAt {α : Type} : Nat → List α → List α
  | _, [] => []
  | 0, _ :: xs => xs
  | n + 1, x :: xs => x :: dropAt n xs

def State.task? (s : State) (pos slot : Nat) : Option Task :=
  s.cores.tasks.find? (fun t => t.pos = pos && t.slot = slot)

def State.setTask (s : State) (t : Task) : State :=
  { s with cores := { s.cores with tasks := replaceFirst (fun u => u.pos = t.pos && u.slot = t.slot) t s.cores.tasks } }

def State.mapTask (s : State) (pos slot : Nat) (f : Task → Task) : State :=
  match s.task? pos slot with
  | some t => s.setTask (f t)
  | none => s

def State.conf? (s : State) (cid : Nat) : Option Conf := s.fab.confs.find? (fun c => c.cid = cid)

def State.mapConf (s : State) (cid : Nat) (f : Conf → Conf) : State :=
  { s with fab := { s.fab with confs := s.fab.confs.map (fun c => if c.cid = cid then f c else c) } }

def State.pad? (s : State) (id : Nat) : Option Paddock := s.ten.paddocks.find? (fun p => p.id = id)

def State.mapPad (s : State) (id : Nat) (f : Paddock → Paddock) : State :=
  { s with ten := { s.ten with paddocks := s.ten.paddocks.map (fun p => if p.id = id then f p else p) } }

/-- The registers of tenant slot `t` of a paddock. -/
def Paddock.tenant (p : Paddock) (t : Nat) : Tenant := p.tenants.toList.getD t Tenant.reset

/-- A paddock with more than one tenant slot enabled (R372). -/
def Paddock.shared (p : Paddock) : Bool := 1 < ((List.range 4).filter (fun t => p.mask / 2 ^ t % 2 = 1)).length

def State.tenant (s : State) (pad t : Nat) : Tenant :=
  match s.pad? pad with
  | some p => p.tenant t
  | none => Tenant.reset

def State.mapTenant (s : State) (pad t : Nat) (f : Tenant → Tenant) : State :=
  s.mapPad pad (fun p => { p with tenants := p.tenants.set! t (f (p.tenant t)) })

/-- A tenant slot of a paddock as one number: whose accesses those of the memory levels are. -/
def whoOf (pad ten : Nat) : Nat := 4 * pad + ten
def Task.who (t : Task) : Nat := whoOf t.part.toNat t.ten.toNat
def Conf.who (c : Conf) : Nat := whoOf c.pad c.ten
def CopyOp.who (c : CopyOp) : Nat := whoOf c.pad c.ten
def AgProg.who (g : AgProg) : Nat := whoOf g.pad g.ten

/-- The number of the key of a tenant slot (R373). -/
def State.keyOf (s : State) (who : Nat) : Nat := (s.tenant (who / 4) (who % 4)).keyNo

/-- The timestamp that the accesses of a configuration follow (R252, R253). -/
def State.confPts (s : State) (cid : Nat) : Nat := match s.conf? cid with | some c => c.pts | none => 0

/-- A fresh internal identifier. -/
def State.newId (s : State) : Nat × State := (s.ctl.ids, { s with ctl := { s.ctl with ids := s.ctl.ids + 1 } })

/-- A fresh index for a free value. -/
def State.draw (s : State) : Nat × State := (s.ctl.fresh, { s with ctl := { s.ctl with fresh := s.ctl.fresh + 1 } })

/-- The next latency that the run is given where the spec gives none, else 1 cycle (R391). Log 1. -/
def State.nextLat (s : State) : Nat × State :=
  match s.ctl.lats with
  | [] => (1, s)
  | l :: rest => (l, { s with ctl := { s.ctl with lats := rest } })

def State.say (s : State) (m : Msg) : State := { s with hub := { s.hub with out := s.hub.out ++ [m] } }

/-- Issue is throttled (R386, R387). -/
def Hub.throttled (h : Hub) : Bool := h.surge || h.atLimit || !h.hot.isEmpty

/-- A cycle is one of those that throttling skips: `skip` of every 16 (R386). -/
def Hub.skips (h : Hub) (now : Nat) : Bool := h.throttled && now % 16 < h.skip

/-! ### Tokens and slots -/

def Tok.isNull : Tok → Bool
  | .null => true
  | _ => false

def Tok.poisoned : Tok → Bool
  | .null => false
  | .ctl _ p => p
  | .data _ p => p

/-- The 64 bits of a control token. -/
def Tok.word : Tok → Word
  | .ctl x _ => x
  | .data x _ => x.truncate 64
  | .null => 0

/-- The 64 bytes of a data token. -/
def Tok.vec : Tok → Vec
  | .data x _ => x
  | .ctl x _ => x.zeroExtend 512
  | .null => 0

/-- A trigger is the value 0 (R90). -/
def trigger : Tok := .ctl 0 false

/-- The flit ends a token: a last flit of the data plane that is no marker, a control flit that is none (R168, R172). -/
def Flit.endsToken : Flit → Bool
  | .data side _ => bits side.toNat 13 13 = 1 && bits side.toNat 15 14 ≠ 3
  | .ctl side _ => bits side.toNat 3 2 ≠ 3

def Ins.empty : Ins := { a := none, b := none, c := none, fired := .notYet }

/-- Slots a, b, c as a list. -/
def Ins.slots (x : Ins) : List (Option Tok) := [x.a, x.b, x.c]

def Ins.setSlot (x : Ins) (k : Nat) (t : Tok) : Ins :=
  match k with
  | 0 => { x with a := some t }
  | 1 => { x with b := some t }
  | _ => { x with c := some t }

def Ins.slot (x : Ins) (k : Nat) : Option Tok := x.slots.getD k none

/-- The operand in a slot as a scalar, as a vector. -/
def Ins.wa (x : Ins) : Word := (x.a.getD .null).word
def Ins.wb (x : Ins) : Word := (x.b.getD .null).word
def Ins.wc (x : Ins) : Word := (x.c.getD .null).word
def Ins.va (x : Ins) : Vec := (x.a.getD .null).vec
def Ins.vb (x : Ins) : Vec := (x.b.getD .null).vec
def Ins.vc (x : Ins) : Vec := (x.c.getD .null).vec

/-- When an instruction may fire (R18, R22, R63): its slots are full or one holds null; a merge holds a non-null token or
two nulls; a word that is not an instruction holds any token, or is of arity 0. -/
def Ins.ready (x : Ins) (i : Instr) : Bool :=
  x.fired == .notYet &&
  if i.badSub.isSome then i.atDispatch || x.slots.any (·.isSome)
  else
    let own := x.slots.take i.slots.length
    if i.isMerge then own.any (fun t => match t with | some k => !k.isNull | none => false) || own.all (·.isSome)
    else own.all (·.isSome) || own.any (· == some Tok.null)

/-- Whether it fires as null (R22): a null among its slots; a merge only on two. -/
def Ins.firesNull (x : Ins) (i : Instr) : Bool :=
  let own := x.slots.take i.slots.length
  if i.isMerge then own.all (· == some Tok.null) else own.any (· == some Tok.null)

/-- An operand of it carries poison (R348). -/
def Ins.poisoned (x : Ins) (i : Instr) : Bool :=
  (x.slots.take i.slots.length).any (fun k => match k with | some y => y.poisoned | none => false)

/-! ### The instruction store -/

/-- Memory region 6 holds the instruction stores: 64 KiB for each position (R11). -/
def storeKey (pos word : Nat) : Nat := 6 * 2 ^ 80 + pos * 2 ^ 16 + 4 * word

/-- What a byte of memory that nothing has written reads as. Log 4. -/
def unlisted : Byte := 0

/-- One byte of memory. -/
def readByte : List Host.Cell → Nat → Byte
  | [], _ => unlisted
  | (a, v) :: rest, k => if a = k then v else if k < a then unlisted else readByte rest k

/-- `n` bytes from an address, as a little-endian number (R36). -/
def readNat (m : List Host.Cell) (k : Nat) : Nat → Nat
  | 0 => 0
  | n + 1 => (readByte m k).toNat + 256 * readNat m (k + 1) n

/-- The word at a word address of a PE's instruction store. -/
def State.storeWord (s : State) (pos word : Nat) : Nat := readNat s.mem.bytes (storeKey pos word) 4

/-- Instruction `idx` of a block. -/
def State.insWord (s : State) (pos hdr idx : Nat) : Nat := s.storeWord pos (hdr + 1 + idx)

/-- A valid header (R16): signature, zero field, and a last word within the store. -/
def headerOk (s : State) (pos hdr : Nat) : Bool :=
  let h := s.storeWord pos hdr
  hdr < 2 ^ 14 && h % 256 = 0xB7 && h / 256 % 256 = 0 && hdr + 1 + h / 2 ^ 26 < 2 ^ 14

/-- The BADBLOCK subcode of an exit target, if it has one (R16, R28, R56); of a bad header that also runs past the store,
subcode 1. Log 46. -/
def badBlock (s : State) (pos target : Nat) : Option Nat :=
  if 2 ^ 14 ≤ target then some 2
  else
    let h := s.storeWord pos target
    if h % 256 ≠ 0xB7 ∨ h / 256 % 256 ≠ 0 then some 1
    else if 2 ^ 14 ≤ target + 1 + h / 2 ^ 26 then some 2 else none

/-- The planes of the slots of the word at an instruction index; the three slots of a word of R63 take any plane. Log 46. -/
def State.consumerSlots (s : State) (pos hdr idx : Nat) : List (Option Plane) :=
  let w := s.insWord pos hdr idx
  match decodeWord w with
  | some i => if i.badSub.isSome then [none, none, none] else i.slots.map some
  | none => if illegalSub w = 3 then [some .ctl] else [none, none, none]

/-! ### Special registers -/

/-- The mode of a bank (R214): cache unless a switch has set another. -/
def State.bankMode (s : State) (cluster num : Nat) : Nat :=
  match s.mem.banks.find? (fun b => b.cluster = cluster && b.num = num) with
  | some b => b.mode
  | none => 0

/-- `x.bank`: mode of bank b at [2b+1:2b] (R13). -/
def State.bankWord (s : State) (cluster : Nat) : Word :=
  BitVec.ofNat 64 (s.mem.banks.foldl (fun n b => if b.cluster = cluster then n + b.mode * 4 ^ b.num else n) 0)

/-- The value of a special register of a task (R13). -/
def sprRead (s : State) (t : Task) (n : Nat) : Word :=
  match n with
  | 0x00 => BitVec.ofNat 64 t.slot
  | 0x01 => BitVec.ofNat 64 t.pos
  | 0x02 => t.clu
  | 0x03 => BitVec.ofNat 64 (stripOf t.pos)
  | 0x04 => BitVec.ofNat 64 (dieOf t.pos)
  | 0x05 => t.part
  | 0x06 => t.cfg
  | 0x07 => t.ten
  | 0x08 => t.lnk
  | 0x09 => t.flg
  | 0x0A => t.rm
  | 0x0B => t.pts
  | 0x0C => BitVec.ofNat 64 (s.ctl.now - t.bound)
  | 0x0D => t.args
  | 0x10 => t.rnglo
  | 0x11 => t.rnghi
  | 0x12 => t.steal
  | 0x20 => s.bankWord (clusterOf t.pos)
  | 0x28 => t.fault
  | 0x30 => BitVec.ofNat 64 (match s.pad? t.part.toNat with | some p => p.mode | none => 0)
  | 0x31 => t.scope
  | n => if 0x18 ≤ n ∧ n ≤ 0x1F then t.shp.toList.getD (n - 0x18) 0 else 0

/-- The special registers as a block finds them at its dispatch (R17, R100). -/
def sprAll (s : State) (t : Task) : List Word := (List.range 0x32).map (sprRead s t)

/-- Replaces the bits of `old` under a mask. -/
def maskIn (old v : Word) (mask : Nat) : Word := (old &&& ~~~(BitVec.ofNat 64 mask)) ||| (v &&& BitVec.ofNat 64 mask)

/-- A PUTX write at completion (R101, R102, R199): bits that read 0 ignore it; `x.steal` takes only HOPS and EN. -/
def sprWrite (t : Task) (n : Nat) (v : Word) : Task :=
  match n with
  | 0x08 => { t with lnk := v }
  | 0x09 => { t with flg := maskIn 0 v 0x1F }
  | 0x0A => { t with rm := maskIn 0 v 3 }
  | 0x10 => { t with rnglo := v }
  | 0x11 => { t with rnghi := v }
  | 0x12 => { t with steal := maskIn t.steal v (7 * 2 ^ 32) }
  | 0x31 => { t with scope := maskIn 0 v 1 }
  | _ => t

/-! ### Ports -/

def Task.port? (t : Task) (n : Nat) : Option Port := t.ports.find? (fun p => p.num = n)

def portEp (pos n : Nat) : Ep := { pos := pos, cls := .pe, idx := n }

/-- The links that an endpoint feeds (R162). -/
def State.outLinks (s : State) (e : Ep) : List Link := s.fab.links.filter (fun l => l.src = e)

/-- An output port is one that some link names as its producer (R162). -/
def State.isOutput (s : State) (e : Ep) : Bool := s.fab.links.any (fun l => l.src = e)

def State.input? (s : State) (e : Ep) : Option Input := s.fab.inputs.find? (fun i => i.ep = e)

def State.mapInput (s : State) (e : Ep) (f : Input → Input) : State :=
  { s with fab := { s.fab with inputs := s.fab.inputs.map (fun i => if i.ep = e then f i else i) } }

/-- A steal port of a task belongs to the hardware (R199). -/
def Task.isStealPort (t : Task) (n : Nat) : Bool :=
  let w := t.steal.toNat
  w % 2 ^ 32 ≠ 0 && (n = bits w 5 0 || n = bits w 13 8 || n = bits w 21 16 || n = bits w 29 24)

/-! ### Targets -/

/-- The ILLEGAL subcode 3 of a target at its firing (R20, R167). -/
def targetIllegal (s : State) (t : Task) (f : Frame) (idx : Nat) (x : Tgt) : Bool :=
  let v := x.toNat
  tgtBad v ||
  (if v < 256 then
    let k := v % 64
    k ≤ idx || f.n ≤ k || (s.consumerSlots t.pos f.hdr k).length ≤ v / 64
  else if 384 ≤ v ∧ v < 448 then
    (t.port? (v % 64)).isNone || !s.isOutput (portEp t.pos (v % 64)) || t.isStealPort (v % 64)
  else false)

/-- The PLANE subcode of a delivery of a plane to a target (R57, R167). -/
def targetPlane (s : State) (t : Task) (f : Frame) (p : Plane) (x : Tgt) : Option Nat :=
  let v := x.toNat
  if v < 256 then
    match (s.consumerSlots t.pos f.hdr (v % 64)).getD (v / 64) none with
    | some q => if q = p then none else some 1
    | none => none
  else if v < 320 then (if p = .ctl then none else some 2)
  else if v < 384 then (if p = .data then none else some 2)
  else if v < 448 then
    match t.port? (v % 64) with
    | some q => if (q.plane = .data) = (p = .data) then none else some 3
    | none => none
  else none

/-- One more output, or OUTPUTS subcode 1 for the (W + 1)-th (R25, R28). -/
def Frame.output (f : Frame) (idx : Nat) : Except Raise Frame :=
  if f.outs < f.w then .ok { f with outs := f.outs + 1 } else .error { code := 0x05, sub := 1, idx := idx }

/-- A token at an operand slot (R18, R22): it fills an empty slot; after a normal firing a null is absorbed (log 12); after
a null firing each slot that was empty absorbs one. -/
def Frame.putSlot (f : Frame) (k slot : Nat) (tok : Tok) : Except Raise Frame :=
  let x := f.ins.getD k Ins.empty
  let overrun : Except Raise Frame := .error { code := 0x06, sub := 0, idx := k }
  match x.fired with
  | .normal => if tok.isNull then .ok f else overrun
  | _ => if (x.slot slot).isSome then overrun else .ok { f with ins := f.ins.set k (x.setSlot slot tok) }

/-- A token of instruction `idx` reaches one target (R20, R24 to R27). The target is legal and its plane fits. A poisoned token
raises at a register write or a port send; in a slot it raises when that instruction fires (R348). -/
def Frame.take (f : Frame) (idx : Nat) (tok : Tok) (x : Tgt) : Except Raise Frame :=
  let v := x.toNat
  if v < 256 then f.putSlot (v % 64) (v / 64) tok
  else if 448 ≤ v then .ok f
  else if tok.poisoned then .error { code := 0x16, sub := 1, idx := idx }
  else if v < 320 then do
    let f ← f.output idx
    .ok (if tok.isNull then f else { f with gw := f.gw ++ [(idx, v % 64, tok.word)] })
  else if v < 384 then do
    let f ← f.output idx
    .ok (if tok.isNull then f else { f with vw := f.vw ++ [(idx, v % 32, tok.vec)] })
  else if tok.isNull then f.output idx
  else .ok { f with sends := f.sends ++ [{ idx := idx, port := v % 64, tok := tok }] }

/-- Puts a token in flight into a list in the order of arrival, then of instruction index. -/
def insertFlying (e : Flying) : List Flying → List Flying
  | [] => [e]
  | y :: ys => if e.at_ < y.at_ ∨ (e.at_ = y.at_ ∧ e.idx ≤ y.idx) then e :: y :: ys else y :: insertFlying e ys

/-- The fault of the lower index (R65). -/
def lowerRaise (r : Raise) : Option Raise → Raise
  | none => r
  | some q => if q.idx ≤ r.idx then q else r

/-- A fault is raised in a block: of those of one cycle the lowest index is reported, and the block is abandoned once (R65). -/
def Frame.raiseFault (f : Frame) (r : Raise) : Frame := { f with raised := some (lowerRaise r f.raised) }

/-- One token in flight reaches its target, or raises there. -/
def Frame.land (f : Frame) (e : Flying) : Frame :=
  match f.take e.idx e.tok e.tgt with
  | .ok f => f
  | .error r => f.raiseFault r

/-- Every token that has arrived by a cycle reaches its target (R18, R115, R134). -/
def Frame.landAll (f : Frame) (now : Nat) : Frame :=
  ((f.flying.filter (fun e => e.at_ ≤ now)).foldr insertFlying []).foldl Frame.land
    { f with flying := f.flying.filter (fun e => now < e.at_), till := now }

/-- Sends one token to one target, which it reaches when its latency is over (R18, R115, R134); a discard receives nothing. -/
def Frame.put (f : Frame) (idx : Nat) (tok : Tok) (x : Tgt) : Except Raise Frame :=
  if 448 ≤ x.toNat then .ok f else .ok { f with flying := f.flying ++ [{ at_ := f.till, idx := idx, tok := tok, tgt := x }] }

/-- Sends one result to every target, T1 first (R21). -/
def Frame.putAll (f : Frame) (idx : Nat) (tok : Tok) : List Tgt → Except Raise Frame
  | [] => .ok f
  | x :: xs => do
    let f ← f.put idx tok x
    f.putAll idx tok xs

/-- Drops the wait of an instruction. -/
def Frame.unwait (f : Frame) (idx : Nat) : Frame := { f with waits := f.waits.filter (fun w => w.idx ≠ idx) }

/-- A fired instruction begins to wait. -/
def Frame.wait (f : Frame) (idx : Nat) (k : WaitKind) : Frame := { f with waits := f.waits ++ [{ idx := idx, kind := k }] }

/-- A GET of a register that a copy holds pending is not ready (R17, R97, R289). -/
def Frame.holdsBack (f : Frame) (i : Instr) : Bool :=
  match i with
  | .get g _ _ => f.gpend.contains g.toNat
  | _ => false

/-- An instruction of the frame is ready to fire (R17, R18, R22, R63). -/
def readyAt (s : State) (t : Task) (f : Frame) (idx : Nat) : Bool :=
  let x := f.ins.getD idx Ins.empty
  let w := s.insWord t.pos f.hdr idx
  match decodeWord w with
  | some i => x.ready i && !f.holdsBack i
  | none => x.fired == .notYet && (illegalAtDispatch w || x.slots.any (·.isSome))

/-- The targets of the instruction at an index of a frame. -/
def State.targetsAt (s : State) (t : Task) (f : Frame) (idx : Nat) : List Tgt :=
  match decodeWord (s.insWord t.pos f.hdr idx) with
  | some i => i.targets
  | none => []

end Sys2Proof.Machine
end

