-- ==== Sys2Proof/Machine/Ops.lean ====
section
/-! DEFINITION. The named operations over memory and registers: bytes and poison marks (R36, R348), address spaces and
translation (R135, R335 to R340), fault records and taking a fault and resuming from one (R29, R344 to R347), late
flags (R49, R359), notify entries (R307), and the end of nodes, configurations and paddocks (R181, R183, R305, R346). -/

namespace Sys2Proof.Machine

/-! ### Bytes -/

/-- Memory regions: 0 device HBM by physical address, 1 host memory, 2 cluster windows (1 MiB each), 3 remote windows, 4
matrix operand slots, 5 accumulators, 6 instruction stores. -/
def regionKey (r off : Nat) : Nat := r * 2 ^ 80 + off
def regionOf (k : Nat) : Nat := k / 2 ^ 80
def offsetOf (k : Nat) : Nat := k % 2 ^ 80

/-- Writes one byte and keeps the canonical form: rising addresses, no entry equal to what an unlisted byte reads as. -/
def writeByte : List Host.Cell → Nat → Byte → List Host.Cell
  | [], k, v => if v = unlisted then [] else [(k, v)]
  | (a, w) :: rest, k, v =>
    if k < a then (if v = unlisted then (a, w) :: rest else (k, v) :: (a, w) :: rest)
    else if k = a then (if v = unlisted then rest else (k, v) :: rest)
    else (a, w) :: writeByte rest k v

/-- Writes a byte list from an address upward. -/
def writeBytes (m : List Host.Cell) (k : Nat) : List Byte → List Host.Cell
  | [] => m
  | b :: bs => writeBytes (writeByte m k b) (k + 1) bs

/-- The canonical form: strictly rising addresses from `lo` on, no unlisted value. -/
def wfFrom : Nat → List Host.Cell → Bool
  | _, [] => true
  | lo, (a, v) :: rest => lo ≤ a && v ≠ unlisted && wfFrom (a + 1) rest

/-- The canonical form of a memory. -/
abbrev Memory.wf (m : List Host.Cell) : Prop := wfFrom 0 m = true

/-- `n` bytes from a key, in rising order. -/
def readBytes (m : List Host.Cell) (k : Nat) : Nat → List Byte
  | 0 => []
  | n + 1 => readByte m k :: readBytes m (k + 1) n

def State.read (s : State) (k n : Nat) : Nat := readNat s.mem.bytes k n
def State.readVec (s : State) (k : Nat) : Vec := BitVec.ofNat 512 (s.read k 64)

/-- A poisoned word among `n` bytes (R348): marks are kept by 64-bit word. -/
def State.poisoned (s : State) (k n : Nat) : Bool := s.mem.poison.any (fun w => k / 8 ≤ w && w ≤ (k + n - 1) / 8)

def State.setBytes (s : State) (m : List Host.Cell) : State := { s with mem := { s.mem with bytes := m } }

/-- Stores bytes; a whole 64-bit word written clears its poison mark (R348). -/
def State.write (s : State) (k : Nat) (bs : List Byte) : State :=
  let n := bs.length
  { s with mem := { s.mem with
      bytes := writeBytes s.mem.bytes k bs
      poison := s.mem.poison.filter (fun w => !(decide (k ≤ 8 * w) && decide (8 * w + 8 ≤ k + n))) } }

/-- Marks the words of `n` bytes poisoned (R322, R348). -/
def State.taint (s : State) (k n : Nat) : State :=
  let ws := (List.range (n / 8)).map (fun i => k / 8 + i)
  { s with mem := { s.mem with poison := s.mem.poison.filter (fun w => !ws.contains w) ++ ws } }

/-- Writes zero over `n` bytes: no cell is listed there. -/
def State.zero (s : State) (k n : Nat) : State :=
  { s with mem := { s.mem with
      bytes := s.mem.bytes.filter (fun c => !(k ≤ c.1 && c.1 < k + n))
      poison := s.mem.poison.filter (fun w => !(decide (k ≤ 8 * w) && decide (8 * w + 8 ≤ k + n))) } }

/-! ### Places of memory -/

/-- Bytes of an edge tile's four pseudo-channels: 3 GiB; a strip owns 12 GiB (R4). Log 5. -/
def tileBytes : Nat := 3 * 2 ^ 30

/-- The edge tile that homes a physical HBM address. Log 5. -/
def homeTile (a : Nat) : Nat := edgePos (a / (4 * tileBytes)) (a / tileBytes % 4)

/-- The home of a line is an edge tile for HBM, the hub for host memory and remote windows (R220, R363). -/
def homeOf (k : Nat) : Option Nat := if regionOf k = 0 then some (homeTile (offsetOf k)) else none

def lineOf (k : Nat) : Nat := k / 64

/-- The window byte of a cluster (R135, R214). -/
def windowKey (cluster off : Nat) : Nat := regionKey 2 (cluster * 2 ^ 20 + off)

/-- A byte of slot `slot`, row `row` of a matrix tile (R263). -/
def slotKey (pos slot row : Nat) : Nat := regionKey 4 (pos * 2 ^ 17 + slot * 4096 + row * 64)

/-- Cell (i, j) of an accumulator of a matrix tile (R264). -/
def cellKey (pos acc i j : Nat) : Nat := regionKey 5 (pos * 2 ^ 16 + acc * 2 ^ 14 + (i * 64 + j) * 4)

/-! ### PACKED blocks -/

/-- The entries of a table in the order in which canonical codes are assigned: rising length, within one length rising symbol,
ESC (65536) after every symbol (R224). -/
def codeOrder (t : CodeTable) : List (Nat × Nat) :=
  ((List.range 16).flatMap (fun n => t.lens.filter (fun x => x.2 = n))).foldr
    (fun x l => let lower := l.takeWhile (fun y => y.2 = x.2 && y.1 < x.1); lower ++ x :: l.drop lower.length) []

/-- Canonical codes over entries in order, from the next code at the length of the last: symbol, length, code (R224). -/
def assignCodes : List (Nat × Nat) → Nat → Nat → List (Nat × Nat × Nat)
  | [], _, _ => []
  | (v, n) :: rest, code, len =>
    let c := code * 2 ^ (n - len)
    (v, n, c) :: assignCodes rest (c + 1) n

/-- The codewords of a table (R224). -/
def codewords (t : CodeTable) : List (Nat × Nat × Nat) := assignCodes (codeOrder t) 0 0

/-- `n` bits of a number, most significant first, least significant first. -/
def bitsDown (n x : Nat) : List Bool := ((List.range n).map (fun i => decide (x / 2 ^ i % 2 = 1))).reverse
def bitsUp (n x : Nat) : List Bool := (List.range n).map (fun i => decide (x / 2 ^ i % 2 = 1))

/-- The bits of one element: its codeword, or that of ESC and its 16 bits (R224). -/
def elementBits (cs : List (Nat × Nat × Nat)) (v : Nat) : List Bool :=
  match cs.find? (fun x => x.1 = v) with
  | some x => bitsDown x.2.1 x.2.2
  | none =>
    match cs.find? (fun x => x.1 = 65536) with
    | some x => bitsDown x.2.1 x.2.2 ++ bitsUp 16 v
    | none => bitsUp 16 v

/-- The bytes of a bit string that starts at bit 0 of byte 0, padded with zero bits (R224); `n` bounds the bytes. -/
def bitBytes : Nat → List Bool → List Byte
  | 0, _ => []
  | n + 1, l =>
    if l.isEmpty then []
    else BitVec.ofNat 8 ((l.take 8).foldr (fun b x => (if b then 1 else 0) + 2 * x) 0) :: bitBytes n (l.drop 8)

/-- The coded form of a block's elements under a table (R224). -/
def codedBlock (t : CodeTable) (els : List Nat) : List Byte :=
  let cs := codewords t
  bitBytes 496 (els.flatMap (elementBits cs))

/-- The code length of a 16-bit value under a table; an unlisted value is coded as ESC and its 16 bits (R224). -/
def codeLen (t : CodeTable) (v : Nat) : Nat :=
  match t.lens.find? (fun x => x.1 = v) with
  | some x => x.2
  | none => ((t.lens.find? (fun x => x.1 = 65536)).map (·.2)).getD 15 + 16

/-- The bytes of a block's coded form (R224). -/
def codedBytes (t : CodeTable) (els : List Nat) : Nat := (els.foldl (fun n v => n + codeLen t v) 0 + 7) / 8

/-- The metadata entry of a block coded with a table, or raw (R223, R225). -/
def blockMeta (t : Option CodeTable) (els : List Nat) : Nat :=
  match t with
  | none => 7
  | some t =>
    let n := codedBytes t els
    if 224 < n then 7 else t.num * 8 + ((n + 31) / 32 - 1)

/-- The current table of a paddock on a die (R226). -/
def currentTable (s : State) (pad die : Nat) : Option CodeTable :=
  s.mem.tables.find? (fun t => t.pad = pad && t.die = die && t.current)

/-- The 128 elements of a block (R224). -/
def blockEls (s : State) (block : Nat) : List Nat := (List.range 128).map (fun i => s.read (block * 256 + 2 * i) 2)

/-- Sets a block's metadata entry; a raw entry is not listed (R223). -/
def setMeta (s : State) (block m : Nat) : State :=
  let rest := s.mem.packMeta.filter (fun x => x.1 ≠ block)
  { s with mem := { s.mem with packMeta := if m % 8 = 7 then rest else rest ++ [(block, m)] } }

/-- Counts the 16-bit values of written bytes while a paddock's sampling runs (R226). -/
def sample (s : State) (pad die : Nat) (vals : List Nat) : State :=
  if !s.mem.phases.contains (pad, die) then s
  else
  { s with mem := { s.mem with samples := vals.foldl (fun l v =>
      match l.find? (fun x => x.pad = pad && x.die = die && x.val = v) with
      | some x => replaceFirst (fun y => y.pad = pad && y.die = die && y.val = v) { x with n := x.n + 1 } l
      | none => l ++ [{ pad := pad, die := die, val := v, n := 1 }]) s.mem.samples } }

/-- The die of a block's home. -/
def blockDie (block : Nat) : Nat := match homeOf (block * 256) with | some h => dieOf h | none => 0

/-- Codes a block of a PACKED page of a paddock with the current table (R223, R226). -/
def recodeBlock (s : State) (pad block : Nat) : State :=
  setMeta s block (blockMeta (currentTable s pad (blockDie block)) (blockEls s block))

/-- After a write to a PACKED page its values are sampled and its block is coded again (R223, R226). -/
def recode (s : State) (k n : Nat) : State :=
  match s.mem.packed.find? (fun p => p.1 = k / 2 ^ 16) with
  | none => s
  | some p =>
    recodeBlock (sample s p.2 (blockDie (k / 256)) ((List.range (max 1 (n / 2))).map (fun i => s.read ((k / 2 + i) * 2) 2))) p.2 (k / 256)

/-- A write of bytes that keeps a PACKED block's metadata (R223). -/
def State.packWrite (s : State) (k : Nat) (bs : List Byte) : State :=
  let s := s.write k bs
  if s.mem.packed.isEmpty then s else recode s k bs.length

/-! ### Translation -/

/-- How a translation ends (R339, R340). -/
inductive Xlat where
  /-- the memory key and the page's attributes: NM [0], PACKED [1] -/
  | ok (key attr : Nat)
  /-- V = 0: a page request, for the host or for field firmware -/
  | miss (host : Bool)
  /-- the fault's code, subcode and extra field -/
  | fault (code sub extra : Nat)
  /-- a hurdle drops the packet (R370) -/
  | dropped
  deriving DecidableEq, Repr

/-- An entry is valid when V is set and no field marked 0 is set (R338, R364). -/
def RangeEnt.valid (e : RangeEnt) : Bool :=
  let a := e.attr.toNat
  a % 2 = 1 && bits a 7 5 = 0 && bits a 63 32 = 0 && bits a 4 3 ≠ 3 &&
  (match bits a 4 3 with
  | 0 => bits a 31 12 = 0
  | 1 => bits a 31 13 = 0
  | _ => bits a 31 28 = 0)

/-- The range entry that covers an intermediate address for a tenant, or the RANGE subcode (R338, R339 step 3). -/
def rangeFor (p : Paddock) (ten ia : Nat) : Except Nat RangeEnt :=
  let cover := p.ranges.filter (fun e => e.valid && e.base.toNat ≤ ia && ia < e.limit.toNat)
  match cover.find? (fun e => bits e.attr.toNat 11 8 / 2 ^ ten % 2 = 1) with
  | none => .error (if cover.isEmpty then 1 else 2)
  | some e => .ok e

/-- The host page that ATS gives for an I/O page of a function's tenant (R364, R368): that of the cache's entry, else the host's
answer. -/
def hostPageOf (s : State) (pad ten page : Nat) : Nat :=
  match s.mem.ats.find? (fun x => x.pad = pad && x.ten = ten && x.page = page) with
  | some x => x.host
  | none => (Config.hostPage pad ten page ((s.mem.atsGen.lookup (pad, ten, page)).getD 0)).toNat

/-- What a range entry makes of an intermediate address (R338, R339 step 3, R364 to R366, R370): its permission, then its target. An I/O page (AT = 1) comes as 1 + 2·page with its key. The last
row of every bank is a spill row, which lies outside every page: firmware maps none of the 64 KiB that hold it (R324, log 5). -/
def rangeUse (s : State) (p : Paddock) (ten : Nat) (e : RangeEnt) (ia : Nat) (rd wr : Bool) : Xlat :=
  let a := e.attr.toNat
  if rd && bits a 1 1 = 0 then .fault 0x12 11 1
  else if wr && bits a 2 2 = 0 then .fault 0x12 3 1
  else
    let t := (ia + e.offset.toNat) % 2 ^ 56
    match bits a 4 3 with
    | 0 =>
      let strip := t / (4 * tileBytes)
      if 49148 ≤ t % tileBytes / 2 ^ 16 then .fault 0x13 1 0
      else if p.first ≤ strip ∧ strip < p.first + p.count then .ok (regionKey 0 t) 0 else .dropped
    | 1 => if bits a 12 12 = 0 then .ok (regionKey 1 t) 0 else .ok (regionKey 1 (hostPageOf s p.id ten (t / 2 ^ 16) * 2 ^ 16 + t % 2 ^ 16)) (1 + 2 * (t / 2 ^ 16))
    | _ =>
      let dev := bits a 22 12
      if s.ten.downRoutes.contains dev then .fault 0x15 1 0
      else if s.ten.denied.any (fun d => d.pad = p.id && d.dev = dev && d.win = bits a 27 23 && d.first ≤ t &&
          ((rd && d.reads) || (wr && d.writes))) then .fault 0x15 3 0
      else .ok (regionKey 3 ((bits a 27 12) * 2 ^ 56 + t)) 0

/-- Stage 2 (R338, R339 step 3): the key of an intermediate address. -/
def stage2 (s : State) (p : Paddock) (ten ia : Nat) (rd wr : Bool) : Xlat :=
  match rangeFor p ten ia with
  | .error sub => .fault 0x13 sub 0
  | .ok e => rangeUse s p ten e ia rd wr

/-- Where a line marked moved now lives (R367). -/
def movedTo (s : State) (k : Nat) : Option Nat :=
  match s.mem.moved.find? (fun m => m.1 = lineOf k) with
  | some m => some (m.2 * 64 + k % 64)
  | none => none

/-- Follows redirects; none past the eighth (R367). -/
def followMoves (s : State) : Nat → Nat → Option Nat
  | 0, k => match movedTo s k with | some _ => none | none => some k
  | n + 1, k => match movedTo s k with | some k' => followMoves s n k' | none => some k

/-- What one level of the walk gives. -/
inductive Walk where
  | leaf (entryKey pte size : Nat)
  | stop (x : Xlat)
  deriving DecidableEq, Repr

/-- The walk of R335 and R336 from a table at an intermediate address, level by level; its reads pass through stage 2 and follow moved
lines (R367). -/
def walkFrom (s : State) (p : Paddock) (ten va table : Nat) : List (Nat × Nat × Nat × Nat) → Walk
  | [] => .stop (.fault 0x11 2 0)
  | (level, hi, lo, size) :: rest =>
    match stage2 s p ten (table + 8 * bits va hi lo) true false with
    | .ok k _ =>
      match followMoves s 8 k with
      | none => .stop (.fault 0x15 4 0)
      | some k =>
      let e := s.read k 8
      let leaf := bits e 1 1 = 1
      let addr := bits e 55 8 * 256
      if e % 2 = 0 then .stop (.miss (bits e 2 2 = 1))
      else if bits e 63 56 ≠ 0 then .stop (.fault 0x11 2 0)
      else if leaf then
        (if level = 0 ∨ addr % 2 ^ size ≠ 0 then .stop (.fault 0x11 2 0) else .leaf k e size)
      else
        match rest with
        | [] => .stop (.fault 0x11 2 0)
        | (_, h, l, _) :: _ => if addr % (8 * 2 ^ (h + 1 - l)) ≠ 0 then .stop (.fault 0x11 2 0) else walkFrom s p ten va addr rest
    | x => .stop x

/-- Level, index bits and log2 of the page size (R335). -/
def walkLevels : List (Nat × Nat × Nat × Nat) := [(0, 55, 43, 0), (1, 42, 30, 30), (2, 29, 21, 21), (3, 20, 16, 16)]

/-- The TLB tile that an address passes through (R337). -/
def tlbTile (p : Paddock) (va : Nat) : Nat :=
  let f := bits va 23 16 ^^^ bits va 31 24 ^^^ bits va 39 32 ^^^ bits va 47 40 ^^^ bits va 55 48
  let slice := f % (2 * p.count)
  mkPos (2 * (p.first + slice / 2) + slice % 2) 12

/-- Keeps a walked page in its TLB tile (R337); among 4,096 entries a free choice makes room. Log 15. -/
def tlbFill (s : State) (e : Tlb) : State :=
  let mine := s.mem.tlb.filter (fun x => x.tile = e.tile)
  if mine.length < 4096 then { s with mem := { s.mem with tlb := s.mem.tlb ++ [e] } }
  else
    let (n, s) := s.draw
    let out := mine.getD (Config.victim n % 4096) e
    { s with mem := { s.mem with tlb := s.mem.tlb.filter (fun x => x ≠ out) ++ [e] } }

/-- The region identifier that a MEM element names in OWN (R197). -/
def ownId (e : Elem) : Nat := bits e.spec 28 21

/-- The regions of a configuration that an access may not touch (R197, R339 step 4): those that its MEM elements name, but
for the accessor's own. -/
def ownedByOther (s : State) (cid : Nat) (me : Option (Nat × Nat)) (va : Nat) : Bool :=
  let mem := s.fab.elems.filter (fun (e : Elem) => e.cid = cid && e.kind = .mem)
  let mine := (mem.filter (fun (e : Elem) => me = some (e.pos, e.slot))).map ownId
  mem.any (fun e => !mine.contains (ownId e) && e.base ≤ va && va < e.base + e.len)

/-- The device of a remote window (R364). -/
def remoteDevice (k : Nat) : Nat := offsetOf k / 2 ^ 56 % 2048

/-- The hub's translation caches take what an access used: the remote translation cache a page of a remote window (R366), the
address translation cache a page of host memory with AT = 1 (R368). A free choice makes room. -/
def hubFill (s : State) (pad ten k at_ : Nat) : State :=
  let page := k / 2 ^ 16
  if regionOf k = 3 && s.mem.rtc.all (fun x => x.page ≠ page) then
    let (n, s) := s.draw
    let kept := if s.mem.rtc.length < 4096 then s.mem.rtc else dropAt (Config.victim n % 4096) s.mem.rtc
    let at_ := (Config.remotePage n).toNat
    { s with mem := { s.mem with rtc := kept ++
      [{ dev := remoteDevice k, page := page, pad := at_ % 2 ^ 16, home := bits at_ 31 16, route := bits at_ 47 32 }] } }
  else if regionOf k = 1 && at_ % 2 = 1 && s.mem.ats.all (fun x => !(x.pad = pad && x.ten = ten && x.page = at_ / 2)) then
    let (n, s) := s.draw
    let kept := if s.mem.ats.length < 2048 then s.mem.ats else dropAt (Config.victim n % 2048) s.mem.ats
    { s with mem := { s.mem with ats := kept ++ [{ pad := pad, ten := ten, page := at_ / 2, host := page - regionKey 1 0 / 2 ^ 16 }] } }
  else s

/-- The attributes of the physical page that an entry maps (R222, R223); the blocks of a page that is not PACKED have no metadata
entry but that of raw. -/
def notePage (s : State) (pad page : Nat) (nm packed : Bool) : State :=
  let near := if nm == s.mem.near.contains page then s.mem.near
    else if nm then s.mem.near ++ [page] else s.mem.near.filter (fun x => x ≠ page)
  let s := { s with mem := { s.mem with near := near } }
  if packed then
    if s.mem.packed.contains (page, pad) then s
    else { s with mem := { s.mem with packed := s.mem.packed.filter (fun x => x.1 ≠ page) ++ [(page, pad)] } }
  else if s.mem.packed.any (fun x => x.1 = page) then
    { s with mem := { s.mem with packed := s.mem.packed.filter (fun x => x.1 ≠ page)
                                 packMeta := s.mem.packMeta.filter (fun x => x.1 / 2 ^ 8 ≠ page) } }
  else s

/-- A page that joins both stages (R337): the leaf's, where one range entry covers it, else the 64 KiB of it that holds the
address. -/
def joined (g : RangeEnt) (base size ia : Nat) : Nat × Nat :=
  if g.base.toNat ≤ base ∧ base + 2 ^ size ≤ g.limit.toNat then (base, size) else (ia / 2 ^ 16 * 2 ^ 16, 16)

/-- Steps 1 to 4 of R339 for an access to a virtual address: TLB hit or walk, stage-1 permission, stage 2, ownership of a
configuration's region. A hit uses the range entry that its entry has joined (R337). The first write through an entry sets its DIRTY
bit (R336), where its line now lives (R367). -/
def translate (s : State) (pad ten : Nat) (cid : Option Nat) (me : Option (Nat × Nat)) (va : Nat) (rd wr : Bool) :
    State × Xlat :=
  match s.pad? pad with
  | none => (s, .dropped)
  | some p =>
    let tile := tlbTile p va
    let hit := s.mem.tlb.find? (fun e => e.tile = tile && e.pad = pad && e.ten = ten && e.page = va / 2 ^ e.size)
    let found : Walk :=
      match hit with
      | some e => .leaf e.entryKey e.attr e.size
      | none => walkFrom s p ten va (p.tenant ten).root walkLevels
    match found with
    | .stop x => (s, x)
    | .leaf ek pte size =>
      if rd && bits pte 3 3 = 0 then (s, .fault 0x12 11 0)
      else if wr && bits pte 4 4 = 0 then (s, .fault 0x12 3 0)
      else
        let base := match hit with | some e => e.inter | none => bits pte 55 8 * 256
        let ia := base + va % 2 ^ size
        match (match hit with | some e => Except.ok e.range | none => rangeFor p ten ia) with
        | .error sub => (s, .fault 0x13 sub 0)
        | .ok g =>
        match rangeUse s p ten g ia rd wr with
        | .ok k at_ =>
          let s := hubFill s pad ten k at_
          if (match cid with | some c => ownedByOther s c me va | none => false) then (s, .fault 0x14 1 0)
          else if wr && bits pte 7 7 = 0 && (followMoves s 8 ek).isNone then (s, .fault 0x15 4 0)
          else
            let dirty := wr && bits pte 7 7 = 0
            let ek := (followMoves s 8 ek).getD ek
            let pte' := if dirty then pte + 128 else pte
            let (base, size) := joined g base size ia
            let ent : Tlb := { tile := tile, pad := pad, ten := ten, page := va / 2 ^ size, size := size, entryKey := ek
                               attr := pte', inter := base, range := g, used := s.ctl.now }
            let s := if dirty then s.packWrite ek (toBytes 1 (s.read ek 1 ||| 128)) else s
            let same (e : Tlb) : Bool := e.tile = tile && e.pad = pad && e.ten = ten && e.page = va / 2 ^ e.size
            let s := if hit.isNone then tlbFill s ent
              else if dirty then { s with mem := { s.mem with tlb := replaceFirst same ent s.mem.tlb } } else s
            let nm := bits pte 5 5
            let packed := if nm = 1 then 0 else bits pte 6 6
            (notePage s pad (k / 2 ^ 16) (nm = 1) (packed = 1), .ok k (nm + 2 * packed))
        | x => (s, x)

/-- An address stands in host memory or in a remote window, whatever may be done there (R257, R271). -/
def standsOutside (s : State) (pad ten va : Nat) : Bool :=
  va < 2 ^ 56 && (match (translate s pad ten none none va false false).2 with
  | .ok k _ => regionOf k ≠ 0
  | .fault 0x15 _ _ => true
  | _ => false)

/-! ### Fault records -/

/-- What follows a fault (R346, R347). -/
inductive FaultClass where
  | holdable
  | terminating
  | paddock
  deriving DecidableEq, Repr

def faultClass (code sub : Nat) : FaultClass :=
  if code = 0x3F then .paddock
  else if code = 0x01 then (if sub = 7 ∨ sub = 8 then .terminating else .holdable)
  else if code = 0x38 then (if sub = 0 then .holdable else .terminating)
  else if code = 0x11 ∨ code = 0x12 ∨ code = 0x13 ∨ code = 0x14 ∨ code = 0x15 ∨ code = 0x16 ∨ code = 0x19 ∨ code = 0x1A
    ∨ code = 0x1B ∨ code = 0x28 then .terminating
  else .holdable

/-- The fields of a fault record that its cause gives (R344). -/
structure FaultRec where
  code : Nat
  sub : Nat
  held : Bool := false
  noted : Bool := false
  cfg : Nat := 0xFFFF
  tile : Nat := 0xFFFF
  slot : Nat := 0xFF
  idx : Nat := 0xFF
  blk : Nat := 0xFFFFFFFF
  addr : Word := 0
  extra : Word := 0
  cyc : Nat := 0
  graph : Word := 0
  node : Nat := 0
  deriving DecidableEq, Repr

/-- The 64 bytes of a record (R344). -/
def FaultRec.bytes (r : FaultRec) (ten part seq : Nat) (lost : Bool) : List Byte :=
  toBytes 1 r.code ++ toBytes 1 r.sub ++
  toBytes 1 ((if r.held then 1 else 0) + (if lost then 2 else 0) + if r.noted then 4 else 0) ++ toBytes 1 ten ++
  toBytes 2 part ++ toBytes 2 r.cfg ++ toBytes 2 r.tile ++ toBytes 1 r.slot ++ toBytes 1 r.idx ++ toBytes 4 r.blk ++
  toBytes 8 r.addr.toNat ++ toBytes 8 r.extra.toNat ++ toBytes 8 seq ++ toBytes 8 r.cyc ++ toBytes 8 r.graph.toNat ++
  toBytes 2 r.node ++ toBytes 6 0

/-- Writes a record into the tenant's fault area and gives its address, or 0 when it is lost (R345). -/
def writeRecord (s : State) (pad ten : Nat) (r : FaultRec) : State × Word :=
  match s.pad? pad with
  | none => (s, 0)
  | some p =>
    let t := p.tenant ten
    let s := s.mapPad pad (fun p => { p with seq := p.seq + 1 })
    if t.fabase = 0 ∨ t.fasize = 0 ∨ (t.fahead + 2 ^ 32 - t.fatail) % 2 ^ 32 = t.fasize then
      (s.mapTenant pad ten (fun t => { t with falost := (t.falost + 1) % 2 ^ 32, lost := true }), 0)
    else
      let a := t.fabase.toNat + 64 * (t.fahead % t.fasize)
      let s := s.write (regionKey 1 a) (r.bytes ten pad p.seq t.lost)
      (s.mapTenant pad ten (fun t => { t with fahead := (t.fahead + 1) % 2 ^ 32, lost := false }), BitVec.ofNat 64 a)

/-! ### Notify entries -/

/-- Whether a tenant's notify queue is full (R307). -/
def Tenant.notifyFull (t : Tenant) : Bool := t.nqsize ≠ 0 && (t.nqhead + 2 ^ 32 - t.nqtail) % 2 ^ 32 = t.nqsize

/-- Writes a notify entry (R307); with the queue disabled nothing is written. -/
def writeNote (s : State) (n : Note) : State :=
  let t := s.tenant n.pad n.ten
  if t.nqsize = 0 then s
  else
    let a := t.nqbase.toNat + 32 * (t.nqhead % t.nqsize)
    let bs := toBytes 8 n.graph.toNat ++ toBytes 8 n.value.toNat ++ toBytes 2 n.node ++ toBytes 2 n.status ++
      toBytes 4 n.tag ++ toBytes 8 s.drv.notifySeq
    let s := s.write (regionKey 1 a) bs
    let s := { s with drv := { s.drv with notifySeq := s.drv.notifySeq + 1 } }
    s.mapTenant n.pad n.ten (fun t => { t with nqhead := (t.nqhead + 1) % 2 ^ 32 })

/-- An entry that waits when its queue is full. -/
def notify (s : State) (n : Note) : State :=
  if (s.tenant n.pad n.ten).notifyFull then { s with drv := { s.drv with notes := s.drv.notes ++ [n] } } else writeNote s n

/-- Entries that waited are written when there is room again. -/
def flushNotes : List Note → State → State
  | [], s => s
  | n :: ns, s => flushNotes ns (notify s n)

/-! ### Late flags -/

/-- ORs flags into `x.flg`: at the completion of the running block, or at once (R49), also that of a saved task (R359). -/
def Task.orFlags (t : Task) (fl : Nat) : Task :=
  match (if t.saved then none else t.frame) with
  | some f => { t with frame := some { f with flags := f.flags ||| fl } }
  | none => { t with flg := t.flg ||| BitVec.ofNat 64 fl }

/-- The retired destination: ORPHF (R359). -/
def orphan (s : State) (pad ten fl : Nat) : State :=
  s.mapTenant pad ten (fun t =>
    { t with orphf := BitVec.ofNat 64 ((t.orphf.toNat % 32 ||| fl) + (t.orphf.toNat / 2 ^ 32 + 1) % 2 ^ 32 * 2 ^ 32) })

/-- Flags of an asynchronous operation go to the first destination of R359 that applies. -/
def lateFlags (s : State) (c : Ctx) (fl : Nat) : State :=
  if fl = 0 then s
  else
    match c with
    | .host pad ten => s.mapTenant pad ten (fun t => { t with lflg := t.lflg ||| fl })
    | .conf pad ten cid =>
      if (s.conf? cid).isSome then s.mapConf cid (fun c => { c with flags := c.flags ||| fl })
      else if s.drv.ckpts.any (fun k => k.conf.cid = cid) then
        { s with drv := { s.drv with ckpts := s.drv.ckpts.map (fun k =>
            if k.conf.cid = cid then { k with conf := { k.conf with flags := k.conf.flags ||| fl } } else k) } }
      else orphan s pad ten fl
    | .task pad ten cid pos slot =>
      if s.cores.tasks.any (fun t => t.cid = cid && t.pos = pos && t.slot = slot) then
        s.mapTask pos slot (fun t => t.orFlags fl)
      else if s.drv.ckpts.any (fun k => k.tasks.any (fun t => t.cid = cid && t.pos = pos && t.slot = slot)) then
        { s with drv := { s.drv with ckpts := s.drv.ckpts.map (fun k => { k with tasks := k.tasks.map (fun t =>
            if t.cid = cid ∧ t.pos = pos ∧ t.slot = slot then t.orFlags fl else t) }) } }
      else orphan s pad ten fl

/-! ### Nodes, configurations and paddocks end -/

def State.launch? (s : State) (id : Nat) : Option Launch := s.drv.launches.find? (fun l => l.id = id)

def State.mapLaunch (s : State) (id : Nat) (f : Launch → Launch) : State :=
  { s with drv := { s.drv with launches := s.drv.launches.map (fun l => if l.id = id then f l else l) } }

/-- Changes node `n` of a launch. -/
def Launch.mapNode (l : Launch) (n : Nat) (f : Node → Node) : Launch :=
  { l with nodes := l.nodes.modify n f }

/-- A launch is over when no node of it waits, stands in the pool or runs. -/
def Launch.over (l : Launch) : Bool := l.nodes.all (fun n => n.st = .done || n.st = .dropped)

/-- What the accesses of a node follow in T (R252, R253). -/
def State.nodePts (s : State) (launch node : Nat) : Nat :=
  match s.launch? launch with
  | some l => (match l.nodes[node]? with | some n => n.pts | none => 0)
  | none => 0

/-- A node's accesses have reached a place in T, which its successors follow (R253). -/
def raiseNode (s : State) (launch node p : Nat) : State :=
  s.mapLaunch launch (fun l => l.mapNode node (fun n => { n with pts := max n.pts p }))

/-- An access of a unit of a configuration has taken its place in T, which its KNODE's successors follow (R253). -/
def State.confDid (s : State) (cid p : Nat) : State :=
  match s.conf? cid with
  | some c => raiseNode s c.launch c.node p
  | none => s

def sweepLaunches (s : State) : State :=
  { s with drv := { s.drv with launches := s.drv.launches.filter (fun l => !l.over) } }

/-- A failed node cancels its launch (R305): nodes not yet dispatched are dropped, and one entry goes to the notify queue. -/
def nodeFail (s : State) (launch node code : Nat) (rec_ : Word) : State :=
  match s.launch? launch with
  | none => s
  | some l =>
    let first := l.failure.isNone
    let l := l.mapNode node (fun n => { n with st := .dropped })
    let l := { l with
      nodes := l.nodes.map (fun n => if n.st = .waiting ∨ n.st = .pool then { n with st := .dropped } else n)
      failure := if first then some (node, code, rec_) else l.failure }
    let s := s.mapLaunch launch (fun _ => l)
    let s := if first then
        notify s { pad := l.pad, ten := l.ten, graph := l.graph, value := rec_, node := node, status := code, tag := l.tag }
      else s
    sweepLaunches s

/-- The cells of the matrix tiles of a run of strips. -/
def tileCell (first count : Nat) (c : Host.Cell) : Bool :=
  let r := regionOf c.1
  let pos := if r = 4 then offsetOf c.1 / 2 ^ 17 else offsetOf c.1 / 2 ^ 16
  (r = 4 || r = 5) && first ≤ stripOf pos && stripOf pos < first + count

/-- A position within a run of strips. -/
def within (first count pos : Nat) : Bool := first ≤ stripOf pos && stripOf pos < first + count

/-- The banks of a run of strips return to cache mode, and their contents and cached lines go (R183, R214). -/
def releaseBanks (s : State) (first count : Nat) : State :=
  let mine (c : Nat) : Bool := first ≤ c / 10 && c / 10 < first + count
  { s with mem := { s.mem with
      banks := s.mem.banks.filter (fun b => !mine b.cluster)
      copies := s.mem.copies.filter (fun c => !mine c.cluster)
      bytes := s.mem.bytes.filter (fun c => !(regionOf c.1 = 2 && mine (offsetOf c.1 / 2 ^ 20)))
      poison := s.mem.poison.filter (fun w => !(regionOf (8 * w) = 2 && mine (offsetOf (8 * w) / 2 ^ 20))) }
           eng := { s.eng with rings := s.eng.rings.filter (fun r => !mine (r.key / 2 ^ 20)) } }

/-- A copy needs nothing of its configuration's strips: it writes to the paddock's address space, and reads there or what has been kept
of a window (R289). -/
def CopyOp.free (c : CopyOp) : Bool :=
  c.ring.isNone && c.dst.toNat / 2 ^ 56 = 0 && (c.kept.isSome || (!c.held && c.src.toNat / 2 ^ 56 = 0))

/-- What a copy from a window of strips that are about to become free goes on with (R289): the bytes and the marks of its cluster's
window. -/
def CopyOp.keep (s : State) (c : CopyOp) : CopyOp :=
  if c.ring.isSome || c.dst.toNat / 2 ^ 56 ≠ 0 || c.free then c
  else
    let mine (k : Nat) : Bool := regionOf k = 2 && offsetOf k / 2 ^ 20 = c.cluster
    { c with kept := some (s.mem.bytes.filter (fun b => mine b.1), s.mem.poison.filter (fun w => mine (8 * w))) }

/-- Stores, atomics and REDs: none may touch a live fibre header (R137), and one that the cluster has accepted is written back even when
its configuration ends (R29, R181, R214). -/
def isStoreOp (i : Instr) : Bool :=
  match i with
  | .stb _ _ _ _ | .sth _ _ _ _ | .stw _ _ _ _ | .std _ _ _ _ | .vst _ _ _ _ | .vsts _ _ _ _ | .vscat _ _ _
  | .amo _ _ _ _ _ _ _ | .amoCas _ _ _ _ _ _ | .amod _ _ _ _ _ | .red _ _ _ _ _ _ => true
  | _ => false

/-- Merges, which an end of their configuration does not recall either (R150, R378). -/
def isMergeOp (i : Instr) : Bool := match i with | .fins _ _ _ _ | .vfmrg _ _ _ _ => true | _ => false

/-- What remains to be written back of a task whose configuration ends (R214, R378): its accepted stores, atomics, REDs and merges, but
for their accesses of windows, which end with the bank. -/
def Task.retired (t : Task) : List Retired :=
  let bare := { t with frame := none, queue := [], reds := [] }
  ((t.queue ++ t.reds).filter (fun r => isStoreOp r.ins || isMergeOp r.ins)).map (fun r =>
    { task := bare
      req := { r with keys := r.keys.map (fun k => match k with | some k => if regionOf k = 2 then none else some k | none => none), ways := [] } })

/-- Takes a configuration off the fabric (R183): its tasks, elements, links, endpoints, matrix claims, scans, and its copies but
for those between addresses of the paddock, which are not recalled (R289); the tiles of its strips return to what R264 gives
at dispatch. What its clusters had accepted is written back (R214). -/
def unplace (s : State) (c : Conf) : State :=
  let s := { s with eng := { s.eng with copies := s.eng.copies.map (fun (x : CopyOp) => if x.cid = c.cid then x.keep s else x) } }
  -- tokens that reach a closed link are dropped at the strip's hurdle and counted there (R183, R376)
  let dropped := ((s.fab.links.filter (fun x => x.cid = c.cid)).map (fun l => (l.flight.filter Flit.endsToken).length)).sum
  let s := s.mapPad c.pad (fun p => { p with pdrop := (p.pdrop + dropped) % 2 ^ 32 })
  let left := c.lag ++ (s.cores.tasks.filter (fun t => t.cid = c.cid)).flatMap (·.lag) ++
    (s.eng.copies.filter (fun x => x.cid = c.cid && !x.free)).flatMap (·.lag)
  let s := { s with
    ten := { s.ten with lag := s.ten.lag ++ left.map (fun l => (c.pad, c.ten, l)) }
    cores := { s.cores with
      tasks := s.cores.tasks.filter (fun t => t.cid ≠ c.cid)
      bars := s.cores.bars.filter (fun b => !within c.strip0 c.strips b.pos)
      arrivals := s.cores.arrivals.filter (fun a => a.cid ≠ c.cid) }
    fab := { s.fab with
      confs := s.fab.confs.filter (fun x => x.cid ≠ c.cid)
      elems := s.fab.elems.filter (fun x => x.cid ≠ c.cid)
      inputs := s.fab.inputs.filter (fun x => x.cid ≠ c.cid)
      links := s.fab.links.filter (fun x => x.cid ≠ c.cid) }
    eng := { s.eng with
      tiles := s.eng.tiles.filter (fun x => x.cid ≠ c.cid)
      copies := s.eng.copies.filter (fun x => x.cid ≠ c.cid || x.free)
      scans := s.eng.scans.filter (fun x => x.cid ≠ c.cid) }
    mem := { s.mem with
      bytes := s.mem.bytes.filter (fun x => !tileCell c.strip0 c.strips x)
      retired := s.mem.retired ++ (s.cores.tasks.filter (fun t => t.cid = c.cid)).flatMap Task.retired } }
  releaseBanks s c.strip0 c.strips

/-- The flag word of a configuration goes to its launching context when it ends (R186). -/
def confFlags (s : State) (c : Conf) : State :=
  match s.launch? c.launch with
  | some l => lateFlags s l.ctx c.flags
  | none => if c.flags = 0 then s else orphan s c.pad c.ten c.flags

/-- Terminates a configuration by a fault: it is taken off the fabric and its KNODE fails (R181, R305, R346). -/
def terminate (s : State) (cid code : Nat) (rec_ : Word) : State :=
  match s.conf? cid with
  | none => s
  | some c =>
    let s := if c.flags = 0 then s else confFlags s c
    let s := unplace s c
    nodeFail s c.launch c.node code rec_

/-- Ends a checkpoint by a fault against its configuration (R346): its flags and its node's failure, as when the configuration stands. -/
def endCkpt (s : State) (cid code : Nat) (rec_ : Word) : State :=
  match s.drv.ckpts.find? (fun k => k.conf.cid = cid) with
  | none => s
  | some k =>
    let s := { s with drv := { s.drv with ckpts := s.drv.ckpts.filter (fun x => x.id ≠ k.id) } }
    nodeFail (if k.conf.flags = 0 then s else confFlags s k.conf) k.conf.launch k.conf.node code rec_

/-- Terminates configurations, each with the record of its tenant. -/
def terminateAll (code : Nat) (rec_ : Nat → Word) : List Conf → State → State
  | [], s => s
  | c :: cs, s => terminateAll code rec_ cs (terminate s c.cid code (rec_ c.ten))

/-- A row unit keeps its state when a node leaves it (R309). -/
def keepRowRegs (s : State) (u : RowUnit) : State :=
  let r : RowRegs := { pch := u.pch, regs := u.regs, acc := u.acc, buffer := u.buffer, step := u.step }
  { s with eng := { s.eng with rowRegs := upsert (fun x => x.pch = u.pch) r s.eng.rowRegs } }

/-- Poisons the rows still empty of a cancelled row unit, and frees its entries (R322). -/
def cancelUnit (s : State) (u : RowUnit) : State :=
  let empty := s.mem.empties.filter (fun e => e.unit_ = u.pch && !e.full)
  let s := empty.foldl (fun s e => s.taint (regionKey 0 (e.row * 1024)) 1024) (keepRowRegs s u)
  { s with
    mem := { s.mem with empties := s.mem.empties.filter (fun e => e.unit_ ≠ u.pch) }
    eng := { s.eng with units := s.eng.units.filter (fun x => x.pch ≠ u.pch) } }

/-- Ends every configuration, launch, program, node and checkpoint of a tenant, or of a whole paddock; `rec_` gives the record of
each tenant. -/
def endWork (s : State) (pad : Nat) (ten : Option Nat) (code : Nat) (rec_ : Nat → Word) : State :=
  let mine (p t : Nat) : Bool := p = pad && (match ten with | some x => x = t | none => true)
  let s := terminateAll code rec_ (s.fab.confs.filter (fun c => mine c.pad c.ten)) s
  let s := (s.eng.units.filter (fun u => mine u.pad u.ten)).foldl cancelUnit s
  { s with
    eng := { s.eng with
      progs := s.eng.progs.filter (fun g => !mine g.pad g.ten)
      copies := s.eng.copies.filter (fun c => !mine c.pad c.ten) }
    drv := { s.drv with
      launches := s.drv.launches.filter (fun l => !mine l.pad l.ten)
      ckpts := s.drv.ckpts.filter (fun k => !mine k.conf.pad k.conf.ten) }
    mem := { s.mem with pages := s.mem.pages.map (fun q => if mine q.pad q.ten then { q with stale := true } else q) } }

/-- A class P fault ends the work of a paddock; each enabled tenant's fault area receives the record (R346). -/
def paddockFault (s : State) (pad code sub : Nat) : State :=
  match s.pad? pad with
  | none => s
  | some p =>
    let tens := (List.range 4).filter (fun t => p.mask / 2 ^ t % 2 = 1)
    let r := tens.foldl (fun (s : State × List (Nat × Word)) t =>
      let w := writeRecord s.1 pad t { code := code, sub := sub, cyc := s.1.ctl.now }
      (w.1, s.2 ++ [(t, w.2)])) (s, [])
    endWork r.1 pad none code (fun t => ((r.2.find? (fun x => x.1 = t)).map (·.2)).getD 0)

/-- A fault reported against a configuration: the record, then its end (R346). -/
def confFault (s : State) (cid : Nat) (r : FaultRec) : State :=
  match s.conf? cid with
  | none => s
  | some c =>
    let g := match s.launch? c.launch with | some l => l.graph | none => 0
    let (s, a) := writeRecord s c.pad c.ten { r with cfg := c.ident, graph := g, node := c.node, cyc := s.ctl.now - c.start }
    terminate s cid r.code a

/-- A noted record against a configuration: nothing stops (R145, R209, R346). -/
def notedFault (s : State) (cid : Nat) (r : FaultRec) : State :=
  match s.conf? cid with
  | none => s
  | some c =>
    let g := match s.launch? c.launch with | some l => l.graph | none => 0
    (writeRecord s c.pad c.ten
      { r with noted := true, cfg := c.ident, graph := g, node := c.node, cyc := s.ctl.now - c.start }).1

/-! ### Taking a fault -/

/-- Whether FPOL holds a fault (R345, R346). -/
def holds (t : Tenant) (code : Nat) : Bool :=
  let bit := if code = 0x30 then 0 else if code = 0x31 then 1 else 2
  t.fpol / 2 ^ bit % 2 = 1

/-- TAKING A FAULT of a task: the record is written and its address goes to `x.fault`; the task enters FAULTED without a
frame; a holdable fault that FPOL holds waits with FFLG [0] set and notifies the host, any other ends the configuration (R29,
R344 to R347; no task raises a fault of class P). What commits at completion has been committed or is dropped with the
frame by the caller. -/
def takeFault (s : State) (t : Task) (hdr : Nat) (r : Raise) : State :=
  match s.conf? t.cid with
  | none => s
  | some c =>
    let cls := faultClass r.code r.sub
    let hold := cls = .holdable && holds (s.tenant c.pad c.ten) r.code
    let g := match s.launch? c.launch with | some l => (l.graph, l.tag) | none => (0, 0)
    let (s, a) := writeRecord s c.pad c.ten
      { code := r.code, sub := r.sub, held := hold, cfg := c.ident, tile := t.pos, slot := t.slot, idx := r.idx, blk := hdr
        addr := r.addr, extra := r.extra, cyc := s.ctl.now - t.bound, graph := g.1, node := c.node }
    let s := s.setTask { t with st := .faulted, frame := none, fault := a, held := hold, code := r.code
                                perf := t.perf.set! 7 (t.perf.toList.getD 7 0 + 1) }
    if hold then
      notify s { pad := c.pad, ten := c.ten, graph := g.1, value := a, node := c.node, status := r.code, tag := g.2 }
    else terminate s t.cid r.code a

/-- A narrowed operation of a block has been performed, or has issued and will be (R144, R375). -/
def Task.narrowedBy (t : Task) (f : Frame) : Bool :=
  f.narrowed || t.queue.any (fun r => r.fid = f.id && r.narrowed) || t.reds.any (fun r => r.fid = f.id && r.narrowed)

/-- A fault abandons the block (R29): flags of fired instructions, those of the faulting one among them, and the narrowing bit
are kept, nothing else commits. -/
def blockFault (s : State) (t : Task) (f : Frame) (r : Raise) : State :=
  let t := { t with
    flg := t.flg ||| BitVec.ofNat 64 (f.flags ||| r.flags)
    scope := if t.narrowedBy f then t.scope ||| 1 else t.scope
    frame := none }
  takeFault s t f.hdr r

/-- RESUMING from a held fault (R346): the task goes on at a word address, with its registers as committed. A word address
that is not a valid header gives a new BADBLOCK fault. -/
def resume (s : State) (t : Task) (target : Nat) : State :=
  match badBlock s t.pos target with
  | some sub => takeFault s t target { code := 0x03, sub := sub, idx := 0xFF }
  | none => s.setTask { t with st := .ready, held := false, cur := target, pass := 0, since := s.ctl.ids, readyAt := s.ctl.now }

/-- A task's timestamp once it has met another: it never falls (R244). -/
def Task.raisePts (t : Task) (p : Nat) : Task := { t with pts := BitVec.ofNat 64 (min (2 ^ 64 - 1) (max t.pts.toNat p)) }

/-- What an operation ordered behind a task's earlier accesses follows in T, its REDs and held batches among them (R246, R252, R253). -/
def Task.placed (t : Task) : Nat := max t.pts.toNat t.redPts

/-- What an operation that a task forks or releases follows in T: the task's own accesses, and what its configuration follows (R252, R253). -/
def State.basePts (s : State) (t : Task) : Nat := max t.placed (s.confPts t.cid)

/-- A fence of paddock scope or a release of a task: its later accesses, REDs and batches among them, follow its earlier ones (R247). -/
def State.ordered (s : State) (t : Task) : Task := { t.raisePts (s.basePts t) with fenced := s.basePts t }

/-- A task joins an operation: its later accesses follow those of the operation, whose writes to host memory it owes like its own (R251,
R253). -/
def Task.join (t : Task) (j : Join) : Task :=
  { t.raisePts j.pts with owed := t.owed.filter (fun l => !j.lines.contains l) ++ j.lines }

/-- A GET of a register joins the copy that completed in it (R253). -/
def Task.joinReg (t : Task) (g : Nat) : Task :=
  match t.joins.find? (fun x => x.reg = g) with
  | some x => t.join x
  | none => t

/-! ### Firing -/

/-- The task, frame and slots of the instruction site that the step names, when the instruction may fire there. -/
def firing? (s : State) (i : Instr) : Option (Task × Frame × Nat × Ins) :=
  match s.ctl.focus with
  | .fire pos slot idx =>
    match s.task? pos slot with
    | some t =>
      match t.frame with
      | some f =>
        let x := f.ins.getD idx Ins.empty
        if t.st = .running && !t.saved && idx < f.n && x.ready i && !f.holdsBack i then some (t, f, idx, x) else none
      | none => none
    | none => none
  | _ => none

/-- Puts a frame back into its task. -/
def State.setFrame (s : State) (t : Task) (f : Frame) : State := s.setTask { t with frame := some f }

/-- Adds one to a counter of R113. -/
def Task.count (t : Task) (n : Nat) (by_ : Nat := 1) : Task :=
  { t with perf := t.perf.set! n (t.perf.toList.getD n 0 + BitVec.ofNat 64 by_) }

/-- Ends a firing: the frame it leaves, or the fault it raises. -/
def finish (s : State) (t : Task) (f : Frame) (r : Except Raise Frame) : State :=
  match r with
  | .ok f' => s.setFrame t f'
  | .error e => blockFault s t f e

/-- Ends what a fired instruction waited for: the frame that it leaves, or the fault it raises, which an instruction of a lower index may
still precede in this cycle (R65). -/
def finishLate (s : State) (t : Task) (f : Frame) (r : Except Raise Frame) : State :=
  match r with
  | .ok f' => s.setFrame t f'
  | .error e => s.setFrame t (f.raiseFault e)

/-- Checks 1 to 3 of R64 for an instruction at its site: the ILLEGAL subcodes of the word, of its targets, and the PLANE of
each delivery. -/
def firingFault (s : State) (t : Task) (f : Frame) (idx : Nat) (i : Instr) (tgts : List Tgt) : Option Raise :=
  match i.badSub with
  | some sub => some { code := 0x01, sub := sub, idx := idx }
  | none =>
    if i.targets.any (targetIllegal s t f idx) then some { code := 0x01, sub := 3, idx := idx }
    else
      match i.result with
      | none => none
      | some p =>
        match (tgts.map (targetPlane s t f p)).find? (·.isSome) with
        | some (some sub) => some { code := 0x02, sub := sub, idx := idx }
        | _ => none

/-- What an instruction's own operation may do at its firing: the state it leaves beside the frame, and the frame or a
fault. -/
abbrev Body := State → Task → Frame → Nat → Ins → State × Task × Except Raise Frame

/-- FIRES one instruction of the running block (R18, R22, R24, R64): it waits (the state is unchanged) unless it may fire;
checks 1 to 3 of R64; with a null operand it passes null to every target; a poisoned operand raises (R348); else its own
operation runs. `joins` says what a null memory instruction does to the chain. -/
def fireWith (i : Instr) (s : State) (tgts : Ins → List Tgt) (onNull : Body) (body : Body) : Out :=
  match firing? s i with
  | none => .next s
  | some (t, f, idx, x) =>
    let null := i.badSub.isNone && x.firesNull i
    let t := t.count (if null then 2 else 1)
    let f := { f with ins := f.ins.set idx { x with fired := if null then .asNull else .normal } }
    let dest := if null then i.targets else tgts x
    match firingFault s t f idx i dest with
    | some r => .next (blockFault s t f r)
    | none =>
      let r :=
        if null then onNull s t f idx x
        else if x.poisoned i then
          (s, t, .error { code := 0x16, sub := 1, idx := idx })
        else body s t f idx x
      .next (finish r.1 r.2.1 f r.2.2)

/-- A null firing that sends null to every target and does nothing else (R22, R24). -/
def passNull (i : Instr) : Body := fun s t f idx _ => (s, t, f.putAll idx .null i.targets)

/-- The wait of an instruction that fired and has not yet sent its result, at the site that the step names. -/
def waiting? (s : State) : Option (Task × Frame × Nat × Ins × Wait) :=
  match s.ctl.focus with
  | .fire pos slot idx =>
    match s.task? pos slot with
    | some t =>
      match t.frame with
      | some f =>
        match f.waits.find? (fun w => w.idx = idx) with
        | some w => if t.st = .running && !t.saved then some (t, f, idx, f.ins.getD idx Ins.empty, w) else none
        | none => none
      | none => none
    | none => none
  | _ => none

/-- What an instruction does when its wait is over: none while it is not. The list holds the waits that began before its
own. -/
abbrev Attempt := State → Task → Frame → Nat → Ins → WaitKind → List Wait → Option (State × Task × Except Raise Frame)

/-- FIRES an instruction that may have to wait before it sends its result: its own faults at its firing, what it waits for,
and what it then does; run again at the same site, it goes on when its wait is over. -/
def fireWaiting (i : Instr) (s : State) (check : State → Task → Frame → Nat → Ins → Option Raise)
    (kind : State → Task → Ins → WaitKind) (attempt : Attempt) : Out :=
  match waiting? s with
  | some (t, f, idx, x, w) =>
    match attempt s t (f.unwait idx) idx x w.kind (f.waits.takeWhile (fun y => y.idx ≠ idx)) with
    | some r => .next (finishLate r.1 r.2.1 (f.unwait idx) r.2.2)
    | none => .next s
  | none =>
    fireWith i s (fun _ => i.targets) (passNull i) (fun s t f idx x =>
      match check s t f idx x with
      | some r => (s, t, .error r)
      | none =>
        match attempt s t f idx x (kind s t x) f.waits with
        | some r => r
        | none => (s, t, .ok (f.wait idx (kind s t x))))

/-- The flags of an instruction whose delivery faults are kept (R29). -/
def keepFlags (fl : Nat) : Except Raise Frame → Except Raise Frame
  | .ok f => .ok f
  | .error e => .error { e with flags := fl }

/-- An instruction whose result is one token computed from its operands, with flags (R21, R29). -/
def fireResult (i : Instr) (s : State) (result : Task → Frame → Ins → Tok × Nat) : Out :=
  fireWith i s (fun _ => i.targets) (passNull i) (fun s t f idx x =>
    let r := result t f x
    (s, t, keepFlags r.2 ({ f with flags := f.flags ||| r.2 }.putAll idx r.1 i.targets)))

/-- A scalar result. -/
def scalar (x : Word) : Tok := .ctl x false

/-- A vector result. -/
def vector (x : Vec) : Tok := .data x false

/-- A scalar computed from the operands without a flag. -/
def fireScalar (i : Instr) (s : State) (r : Ins → Word) : Out := fireResult i s (fun _ _ x => (scalar (r x), 0))

/-- A vector computed from the operands without a flag. -/
def fireVector (i : Instr) (s : State) (r : Ins → Vec) : Out := fireResult i s (fun _ _ x => (vector (r x), 0))

end Sys2Proof.Machine
end

