-- ==== Sys2Proof/Machine/Scalar.lean ====
section
/-! DEFINITION. Exits, plumbing, special registers, integer and scalar floating point (R89 to R110, R113, R114). -/

namespace Sys2Proof.Machine

/-! ### Exits -/

/-- An exit-class instruction fires non-null (R25, R28): a second one raises DOUBLEEXIT, also when its target is bad (log 46); its
target is checked by R16 and R56. -/
def takeExit (k : ExitKind) (target : Option Int) (code : Word) : Body := fun s t f idx _ =>
  if f.exit.isSome then (s, t, .error { code := 0x04, sub := 0, idx := idx })
  else
    match target with
    | none => (s, t, .ok { f with exit := some { kind := k, idx := idx, target := 0, code := code } })
    | some a =>
      if a < 0 then (s, t, .error { code := 0x03, sub := 2, idx := idx })
      else
        match badBlock s t.pos a.toNat with
        | some sub => (s, t, .error { code := 0x03, sub := sub, idx := idx })
        | none => (s, t, .ok { f with exit := some { kind := k, idx := idx, target := a.toNat, code := code } })

/-- An exit fired by a null is not an exit (R24). -/
def noEffect : Body := fun s t f _ _ => (s, t, .ok f)

/-- Fires an exit whose target comes from the frame and the operands. -/
def fireExit (i : Instr) (s : State) (k : ExitKind) (target : Task → Frame → Ins → Option Int) (code : Ins → Word) : Out :=
  fireWith i s (fun _ => []) noEffect (fun s t f idx x => takeExit k (target t f x) (code x) s t f idx x)

/-- BR (R91). -/
def execBr (o : BitVec 23) (s : State) : Out :=
  fireExit (.br o) s .br (fun _ f _ => some (f.hdr + o.toInt)) (fun _ => 0)

/-- CALL (R91). -/
def execCall (o : BitVec 23) (s : State) : Out :=
  fireExit (.call o) s .call (fun _ f _ => some (f.hdr + o.toInt)) (fun _ => 0)

/-- YBR (R91). -/
def execYbr (o : BitVec 23) (s : State) : Out :=
  fireExit (.ybr o) s .ybr (fun _ f _ => some (f.hdr + o.toInt)) (fun _ => 0)

/-- BRX: the address is unsigned (R92). -/
def execBrx (s : State) : Out := fireExit .brx s .br (fun _ _ x => some (x.wa.toNat : Int)) (fun _ => 0)

/-- CALLX (R92). -/
def execCallx (s : State) : Out := fireExit .callx s .call (fun _ _ x => some (x.wa.toNat : Int)) (fun _ => 0)

/-- RET uses `x.lnk` as committed before dispatch (R92, R93). -/
def execRet (s : State) : Out :=
  fireExit .ret s .ret (fun _ f _ => some ((f.spr.getD 0x08 0).toNat : Int)) (fun _ => 0)

/-- TEND (R94). -/
def execTend (s : State) : Out := fireExit .tend s .tend (fun _ _ _ => none) (fun _ => 0)

/-- TRAP: the block completes, then the fault is taken in place of the exit (R95). -/
def execTrap (s : State) : Out := fireExit .trap s .trap (fun _ _ _ => none) (fun x => x.wa)

/-- BKPT is no exit; the fault follows the block's completion, named by the lower index (R96). -/
def execBkpt (s : State) : Out :=
  fireWith .bkpt s (fun _ => []) noEffect (fun s t f idx _ =>
    (s, t, .ok { f with bkpt := some (match f.bkpt with | some k => min k idx | none => idx) }))

/-! ### Values and plumbing -/

/-- GET sends the committed value; of a register that a copy had marked pending at dispatch it is not ready until the copy
completes, and then sends 0 (R17, R97, R289). -/
def execGet (g : BitVec 6) (t u : BitVec 9) (s : State) : Out :=
  let i := Instr.get g t u
  fireWith i s (fun _ => i.targets) (passNull i) (fun s t f idx _ =>
    (s, t.joinReg g.toNat, f.putAll idx (scalar (f.g0.toList.getD g.toNat 0)) i.targets))

/-- MOVI (R98). -/
def execMovi (i : BitVec 16) (u : BitVec 9) (s : State) : Out :=
  fireScalar (.movi i u) s (fun _ => i.signExtend 64)

/-- MOVHI (R98). -/
def execMovhi (i : BitVec 16) (u : BitVec 9) (s : State) : Out :=
  fireScalar (.movhi i u) s (fun x => (x.wa <<< 16) ||| i.zeroExtend 64)

/-- An instruction that passes operand a on (R99, R122). -/
def fireMove (i : Instr) (s : State) : Out := fireResult i s (fun _ _ x => (x.a.getD .null, 0))

/-- STEER.D and STEER.N (R23): the side that the condition chooses, T1 when it is non-zero, receives the data; with `null`
the other side receives null. -/
def fireSteer (i : Instr) (t u : Tgt) (null : Bool) (s : State) : Out :=
  fireWith i s (fun x => if null then [t, u] else if x.wb ≠ 0 then [t] else [u]) (passNull i) (fun s tk f idx x =>
    let yes := decide (x.wb ≠ 0)
    let data := x.a.getD .null
    (s, tk, do
      let f ← if yes || null then f.put idx (if yes then data else .null) t else .ok f
      if !yes || null then f.put idx (if yes then .null else data) u else .ok f))

/-- MERGE passes its first non-null token; two non-null tokens raise OVERRUN (R22, log 13). -/
def fireMerge (i : Instr) (s : State) : Out :=
  fireWith i s (fun _ => i.targets) (passNull i) (fun s t f idx x =>
    match x.a, x.b with
    | some .null, some y => (s, t, f.putAll idx y i.targets)
    | some y, some .null => (s, t, f.putAll idx y i.targets)
    | some _, some _ => (s, t, .error { code := 0x06, sub := 0, idx := idx })
    | some y, none => (s, t, f.putAll idx y i.targets)
    | none, y => (s, t, f.putAll idx (y.getD .null) i.targets))

/-- FLOW MOV (R99). -/
def execFlowMov (t u : BitVec 9) (s : State) : Out := fireMove (.flowMov t u) s
/-- STEER.D (R23, R99). -/
def execSteerD (t u : BitVec 9) (s : State) : Out := fireSteer (.steerD t u) t u false s
/-- STEER.N (R23, R99). -/
def execSteerN (t u : BitVec 9) (s : State) : Out := fireSteer (.steerN t u) t u true s
/-- MERGE (R22, R99). -/
def execFlowMerge (t u : BitVec 9) (s : State) : Out := fireMerge (.flowMerge t u) s
/-- NULL sends null whatever the trigger holds (R99). -/
def execFlowNull (t u : BitVec 9) (s : State) : Out := fireResult (.flowNull t u) s (fun _ _ _ => (.null, 0))
/-- JOIN passes a once both have arrived (R99). -/
def execFlowJoin (t u : BitVec 9) (s : State) : Out := fireMove (.flowJoin t u) s
/-- SEL (R99). -/
def execSel (t u : BitVec 9) (s : State) : Out :=
  fireResult (.sel t u) s (fun _ _ x => ((if x.wc ≠ 0 then x.a else x.b).getD .null, 0))

/-! ### Special registers -/

/-- GETX sends the value the register held at dispatch (R17, R100). -/
def execGetx (x : BitVec 7) (t u : BitVec 9) (s : State) : Out :=
  fireResult (.getx x t u) s (fun _ f _ => (scalar (f.spr.getD x.toNat 0), 0))

/-- PUTX: PROT with the register number as subcode on a register marked RO; else the write commits at completion and the
operand is passed on (R101). -/
def execPutx (x : BitVec 7) (t u : BitVec 9) (s : State) : Out :=
  let i := Instr.putx x t u
  fireWith i s (fun _ => i.targets) (passNull i) (fun s t f idx y =>
    if sprReadOnly x.toNat then (s, t, .error { code := 0x08, sub := x.toNat, idx := idx })
    else
      let f := { f with xw := f.xw ++ [(idx, x.toNat, y.wa)] }
      (s, t, f.putAll idx (y.a.getD .null) i.targets))

/-! ### Integer arithmetic -/

/-- Population count of the low `n` bits. -/
def popCount (n x : Nat) : Nat := ((List.range n).filter (fun i => x / 2 ^ i % 2 = 1)).length

/-- Leading zeros of an n-bit value; n when it is 0. -/
def clz (n x : Nat) : Nat := if x = 0 then n else n - 1 - x.log2

/-- Trailing zeros of an n-bit value; n when it is 0. -/
def ctz (n x : Nat) : Nat := ((List.range n).find? (fun i => x / 2 ^ i % 2 = 1)).getD n

/-- The n bits in reverse order. -/
def bitReverse (n x : Nat) : Nat := (List.range n).foldl (fun r i => 2 * r + x / 2 ^ i % 2) 0

/-- The n/8 bytes in reverse order. -/
def byteReverse (n x : Nat) : Nat := (List.range (n / 8)).foldl (fun r i => 256 * r + x / 256 ^ i % 256) 0

def ofBool (b : Bool) : Int := if b then 1 else 0

/-- Arithmetic right shift of a signed value. -/
def sarInt (x : Int) (k : Nat) : Int := x / 2 ^ k

/-- One IALU operation of R104 at n bits, as an integer taken modulo 2^n by the caller. `A`, `B`, `C` are below 2^n. -/
def ialuOp (n c A B C : Nat) : Int :=
  let sA := sgn n A
  let sB := sgn n B
  let sh := B % n
  let M := 2 ^ n
  match c with
  | 0 => A + B
  | 1 => (A : Int) - B
  | 2 => (A &&& B : Nat)
  | 3 => (A ||| B : Nat)
  | 4 => (A ^^^ B : Nat)
  | 5 => (A &&& (M - 1 - B) : Nat)
  | 6 => (A ||| (M - 1 - B) : Nat)
  | 7 => (A * 2 ^ sh : Nat)
  | 8 => (A / 2 ^ sh : Nat)
  | 9 => sarInt sA sh
  | 10 => (A * 2 ^ sh % M + A / 2 ^ (n - sh) : Nat)
  | 11 => (A / 2 ^ sh + A * 2 ^ (n - sh) % M : Nat)
  | 12 => min sA sB
  | 13 => max sA sB
  | 14 => (min A B : Nat)
  | 15 => (max A B : Nat)
  | 16 => ofBool (A = B)
  | 17 => ofBool (A ≠ B)
  | 18 => ofBool (sA < sB)
  | 19 => ofBool (sA ≤ sB)
  | 20 => ofBool (A < B)
  | 21 => ofBool (A ≤ B)
  | 22 => (A * B : Nat)
  | 23 => sA * sB / (M : Int)
  | 24 => (A * B / M : Nat)
  | 25 => if B = 0 then -1 else sA.tdiv sB
  | 26 => if B = 0 then -1 else (A / B : Nat)
  | 27 => if B = 0 then sA else sA.tmod sB
  | 28 => if B = 0 then A else (A % B : Nat)
  | 29 => clz n A
  | 30 => ctz n A
  | 31 => popCount n A
  | 32 => sgn 8 A
  | 33 => sgn 16 A
  | 34 => sgn 32 A
  | 35 => (A % 2 ^ 8 : Nat)
  | 36 => (A % 2 ^ 16 : Nat)
  | 37 => (A % 2 ^ 32 : Nat)
  | 38 => (A * B + C : Nat)
  | 39 => byteReverse n A
  | 40 => bitReverse n A
  | 41 => sA.natAbs
  | _ => -(A : Int)

/-- An IALU result as a token (R103): at 32 bits the result is sign-extended. -/
def ialuResult (w c : Nat) (a b d : Word) : Word :=
  let n := if w = 0 then 64 else 32
  let m := 2 ^ n
  sext n (wrap n (ialuOp n c (a.toNat % m) (b.toNat % m) (d.toNat % m)))

/-- IALU (R103, R104). -/
def execIalu (w : BitVec 1) (c : BitVec 6) (t u : BitVec 9) (s : State) : Out :=
  fireScalar (.ialu w c t u) s (fun x => ialuResult w.toNat c.toNat x.wa x.wb x.wc)

/-- ADDI (R105). -/
def execAddi (i : BitVec 16) (u : BitVec 9) (s : State) : Out := fireScalar (.addi i u) s (fun x => x.wa + i.signExtend 64)
/-- ANDI (R105). -/
def execAndi (i : BitVec 16) (u : BitVec 9) (s : State) : Out := fireScalar (.andi i u) s (fun x => x.wa &&& i.zeroExtend 64)
/-- ORI (R105). -/
def execOri (i : BitVec 16) (u : BitVec 9) (s : State) : Out := fireScalar (.ori i u) s (fun x => x.wa ||| i.zeroExtend 64)
/-- XORI (R105). -/
def execXori (i : BitVec 16) (u : BitVec 9) (s : State) : Out := fireScalar (.xori i u) s (fun x => x.wa ^^^ i.zeroExtend 64)
/-- SHLI (R105). -/
def execShli (i : BitVec 6) (u : BitVec 9) (s : State) : Out := fireScalar (.shli i u) s (fun x => x.wa <<< i.toNat)
/-- SHRI (R105). -/
def execShri (i : BitVec 6) (u : BitVec 9) (s : State) : Out := fireScalar (.shri i u) s (fun x => x.wa >>> i.toNat)
/-- SARI (R105). -/
def execSari (i : BitVec 6) (u : BitVec 9) (s : State) : Out := fireScalar (.sari i u) s (fun x => x.wa.sshiftRight i.toNat)
/-- CMPEQI (R105). -/
def execCmpeqi (i : BitVec 16) (u : BitVec 9) (s : State) : Out :=
  fireScalar (.cmpeqi i u) s (fun x => if x.wa = i.signExtend 64 then 1 else 0)
/-- CMPLTI (R105). -/
def execCmplti (i : BitVec 16) (u : BitVec 9) (s : State) : Out :=
  fireScalar (.cmplti i u) s (fun x => if x.wa.slt (i.signExtend 64) then 1 else 0)
/-- CMPLTUI (R105). -/
def execCmpltui (i : BitVec 16) (u : BitVec 9) (s : State) : Out :=
  fireScalar (.cmpltui i u) s (fun x => if x.wa.ult (i.zeroExtend 64) then 1 else 0)
/-- MULI (R105). -/
def execMuli (i : BitVec 16) (u : BitVec 9) (s : State) : Out := fireScalar (.muli i u) s (fun x => x.wa * i.signExtend 64)

/-! ### Scalar floating point -/

/-- A FALU result with its flags (R106). -/
def faluResult (f mode c : Nat) (x : Ins) : Tok × Nat :=
  let r := faluOp f mode c x.wa.toNat x.wb.toNat x.wc.toNat
  (scalar (BitVec.ofNat 64 r.1), r.2)

/-- The rounding mode of `x.rm` as committed before dispatch (R106, R110). -/
def Frame.rm (f : Frame) : Nat := (f.spr.getD 0x0A 0).toNat % 4

/-- FALU with RNE (R106, R107). -/
def execFalu (f : BitVec 3) (c : BitVec 4) (t u : BitVec 9) (s : State) : Out :=
  fireResult (.falu f c t u) s (fun _ _ x => faluResult f.toNat 0 c.toNat x)

/-- FALU.DYN: F32 rounded by `x.rm` (R106). -/
def execFaluDyn (c : BitVec 4) (t u : BitVec 9) (s : State) : Out :=
  fireResult (.faluDyn c t u) s (fun _ f x => faluResult 0 f.rm c.toNat x)

/-- CVT (R109). -/
def execCvt (d s : BitVec 4) (h : BitVec 2) (a : BitVec 1) (m : BitVec 2) (u : BitVec 9) (st : State) : Out :=
  fireResult (.cvt d s h a m u) st (fun _ _ x =>
    let src := if h.toNat = 1 then x.wa.toNat / 2 ^ 32 else x.wa.toNat
    let r := convert d.toNat s.toNat m.toNat (a.toNat = 1) (src % 2 ^ fmtWidth s.toNat)
    (scalar (placeScalar d.toNat r.1), r.2))

/-- CVTX: float to integer, rounded by `x.rm` (R110). -/
def execCvtx (d s : BitVec 4) (u : BitVec 9) (st : State) : Out :=
  fireResult (.cvtx d s u) st (fun _ f x =>
    let r := convert d.toNat s.toNat f.rm false (x.wa.toNat % 2 ^ fmtWidth s.toNat)
    (scalar (placeScalar d.toNat r.1), r.2))

/-! ### Trace, counters, waiting -/

/-- NOTE: a trace record when tracing is on; dropped and counted when the buffer is full; then a trigger (R112). -/
def execNote (t u : BitVec 9) (s : State) : Out :=
  let i := Instr.note t u
  fireWith i s (fun _ => i.targets) (passNull i) (fun s t f idx x =>
    let rec_ := [t.cfg, BitVec.ofNat 64 t.pos, BitVec.ofNat 64 t.slot, BitVec.ofNat 64 (s.ctl.now - t.bound), x.wa]
    let s := s.mapPad t.part.toNat (fun p =>
      if !p.tracing then p
      else if p.trace.length < p.cap then { p with trace := p.trace ++ [rec_] } else { p with traceDrops := p.traceDrops + 1 })
    (s, t, f.putAll idx trigger i.targets))

/-- PERF: the counter at firing, this firing included; 0 for a number of 8 or more (R113). -/
def execPerf (t u : BitVec 9) (s : State) : Out :=
  fireResult (.perf t u) s (fun t _ x =>
    (scalar (if x.wa.toNat < 8 then t.perf.toList.getD x.wa.toNat 0 else 0), 0))

/-- WAITT: the trigger follows after a cycles, in the next cycle when a is 0 (R114). -/
def execWaitt (t u : BitVec 9) (s : State) : Out :=
  let i := Instr.waitt t u
  fireWith i s (fun _ => i.targets) (passNull i) (fun s t f idx x =>
    (s, t, .ok (f.wait idx (.timer (s.ctl.now + max 1 x.wa.toNat)))))

/-- A count runs out and its trigger is delivered (R114). -/
def execWaittExpire (pe slot idx : Nat) (s : State) : Out :=
  match s.task? pe slot with
  | none => .next s
  | some t =>
    match t.frame with
    | none => .next s
    | some f =>
      if f.waits.any (fun w => w.idx = idx && (match w.kind with | .timer till => till ≤ s.ctl.now | _ => false)) then
        .next (finish s t f ((f.unwait idx).putAll idx trigger (s.targetsAt t f idx)))
      else .next s

end Sys2Proof.Machine
end

