-- ==== Sys2Proof/Machine/Vector.lean ====
section
/-! DEFINITION. The data plane: lanes, steering, integer and floating-point lanes, conversions, quantisation, permutations and
reductions (R116 to R133), and VMATCH (R154). -/

namespace Sys2Proof.Machine

/-! ### Lanes -/

/-- Lane i of w bits (R36). -/
def lane (w : Nat) (v : Vec) (i : Nat) : Nat := v.toNat / 2 ^ (w * i) % 2 ^ w

/-- All lanes of w bits. -/
def lanes (w : Nat) (v : Vec) : List Nat := (List.range (512 / w)).map (lane w v)

/-- A number made of w-bit lanes, lane 0 lowest. -/
def packNat (w : Nat) : List Nat → Nat
  | [] => 0
  | x :: xs => x % 2 ^ w + 2 ^ w * packNat w xs

/-- A vector of w-bit lanes; lanes not given are 0. -/
def pack (w : Nat) (l : List Nat) : Vec := BitVec.ofNat 512 (packNat w l)

/-- The lane width of a width code: B, H, W, D (R117). -/
def laneWidth (w : Nat) : Nat := 8 * 2 ^ w

/-- Lane results with their flags ORed together (R117). -/
def packRes (w : Nat) (l : List Res) : Tok × Nat :=
  (vector (pack w (l.map (·.1))), l.foldl (fun n r => n ||| r.2) 0)

/-- One function over the lanes of three vectors. -/
def mapLanes {α : Type} (w : Nat) (a b c : Vec) (f : Nat → Nat → Nat → α) : List α :=
  (List.range (512 / w)).map (fun i => f (lane w a i) (lane w b i) (lane w c i))

/-! ### Between planes -/

/-- VGET (R118). -/
def execVget (v : BitVec 5) (t u : BitVec 9) (s : State) : Out :=
  fireResult (.vget v t u) s (fun t _ _ => (vector (t.v.toList.getD v.toNat 0), 0))

/-- SPLAT (R119). -/
def splat (w : Nat) (x : Word) : Vec :=
  let n := laneWidth w
  pack n (List.replicate (512 / n) x.toNat)

/-- SPLAT (R119). -/
def execSplat (w : BitVec 2) (t u : BitVec 9) (s : State) : Out := fireVector (.splat w t u) s (fun x => splat w.toNat x.wa)

/-- VEXT zero-extends one lane (R120). -/
def execVext (w : BitVec 2) (l : BitVec 5) (t u : BitVec 9) (s : State) : Out :=
  fireScalar (.vext w l t u) s (fun x => BitVec.ofNat 64 (lane (laneWidth w.toNat) x.va l.toNat))

/-- VINS replaces one lane (R121). -/
def execVins (w : BitVec 2) (l : BitVec 5) (t u : BitVec 9) (s : State) : Out :=
  fireVector (.vins w l t u) s (fun x =>
    let n := laneWidth w.toNat
    pack n ((lanes n x.va).set l.toNat x.wb.toNat))

/-! ### Steering -/

/-- VFLOW MOV (R122). -/
def execVflowMov (t u : BitVec 9) (s : State) : Out := fireMove (.vflowMov t u) s
/-- VFLOW STEER.D: the condition is the control token of slot b (R122). -/
def execVflowSteerD (t u : BitVec 9) (s : State) : Out := fireSteer (.vflowSteerD t u) t u false s
/-- VFLOW STEER.N (R122). -/
def execVflowSteerN (t u : BitVec 9) (s : State) : Out := fireSteer (.vflowSteerN t u) t u true s
/-- VFLOW MERGE (R122). -/
def execVflowMerge (t u : BitVec 9) (s : State) : Out := fireMerge (.vflowMerge t u) s
/-- VFLOW NULL (R122). -/
def execVflowNull (t u : BitVec 9) (s : State) : Out := fireResult (.vflowNull t u) s (fun _ _ _ => (.null, 0))
/-- VFLOW JOIN (R122). -/
def execVflowJoin (t u : BitVec 9) (s : State) : Out := fireMove (.vflowJoin t u) s
/-- VSEL selects each byte by bit 7 of the mask byte (R122). -/
def execVsel (t u : BitVec 9) (s : State) : Out :=
  fireVector (.vsel t u) s (fun x => pack 8 (mapLanes 8 x.va x.vb x.vc (fun a b c => if 128 ≤ c then a else b)))

/-! ### Integer lanes -/

/-- One VIALU operation of R125 on w-bit lanes, taken modulo 2^w by the caller. -/
def vialuOp (w c A B C : Nat) : Int :=
  let sA := sgn w A
  let sB := sgn w B
  let hi : Int := 2 ^ (w - 1)
  let sh := B % w
  let mask (b : Bool) : Int := if b then -1 else 0
  match c with
  | 0 => A + B
  | 1 => (A : Int) - B
  | 2 => max (-hi) (min (hi - 1) (sA + sB))
  | 3 => max (-hi) (min (hi - 1) (sA - sB))
  | 4 => (A * B : Nat)
  | 5 => sA * sB / 2 ^ w
  | 6 => (A &&& B : Nat)
  | 7 => (A ||| B : Nat)
  | 8 => (A ^^^ B : Nat)
  | 9 => (A * 2 ^ sh : Nat)
  | 10 => (A / 2 ^ sh : Nat)
  | 11 => sarInt sA sh
  | 12 => min sA sB
  | 13 => max sA sB
  | 14 => (min A B : Nat)
  | 15 => (max A B : Nat)
  | 16 => sA.natAbs
  | 17 => mask (A = B)
  | 18 => mask (sA < sB)
  | 19 => mask (A < B)
  | 20 => (sA - sB).natAbs
  | 21 => ((A + B + 1) / 2 : Nat)
  | 22 => (A * B + C : Nat)
  | 23 => popCount w A
  | _ => clz w A

/-- VIALU (R124, R125). -/
def execVialu (w : BitVec 2) (c : BitVec 5) (t u : BitVec 9) (s : State) : Out :=
  fireVector (.vialu w c t u) s (fun x =>
    let n := laneWidth w.toNat
    pack n (mapLanes n x.va x.vb x.vc (fun a b d => wrap n (vialuOp n c.toNat a b d))))

/-! ### Floating-point lanes -/

/-- VFALU: every lane rounds once, RNE (R126, R127). -/
def execVfalu (f : BitVec 3) (c : BitVec 4) (t u : BitVec 9) (s : State) : Out :=
  fireResult (.vfalu f c t u) s (fun _ _ x =>
    let n := fmtWidth f.toNat
    packRes n (mapLanes n x.va x.vb x.vc (fun a b d => vfaluOp f.toNat c.toNat a b d)))

/-- The lanes of VCVT (R128): equal widths lane by lane; widening from a half; narrowing from a, then b, the rest 0. -/
def vcvtLanes (d s h mode : Nat) (sat : Bool) (a b : Vec) : List Res :=
  let wd := fmtWidth d
  let ws := fmtWidth s
  let src := if ws < wd then ((lanes ws a).drop (h * (512 / wd))).take (512 / wd)
    else if wd = ws then lanes ws a else lanes ws a ++ lanes ws b
  src.map (convert d s mode sat)

/-- VCVT (R128). -/
def execVcvt (d s : BitVec 4) (h : BitVec 2) (a : BitVec 1) (m : BitVec 2) (u : BitVec 9) (st : State) : Out :=
  fireResult (.vcvt d s h a m u) st (fun _ _ x =>
    packRes (fmtWidth d.toNat) (vcvtLanes d.toNat s.toNat h.toNat m.toNat (a.toNat = 1) x.va x.vb))

/-- VQNT: 16 or 32 values, the unused lanes hold the zero point (R129). -/
def execVqnt (d : BitVec 4) (g : BitVec 2) (s : BitVec 4) (u : BitVec 9) (st : State) : Out :=
  fireResult (.vqnt d g s u) st (fun _ _ x =>
    let w := fmtWidth d.toNat
    let zp := x.wc.toNat % 2 ^ w
    let q := (lanes (fmtWidth s.toNat) x.va).map (fun v => quantise s.toNat v (x.wb.toNat % 2 ^ 16) zp w)
    packRes w (q ++ List.replicate (512 / w - q.length) (zp, 0)))

/-- VDQNT (R130). -/
def execVdqnt (d : BitVec 4) (g : BitVec 2) (s : BitVec 4) (u : BitVec 9) (st : State) : Out :=
  fireResult (.vdqnt d g s u) st (fun _ _ x =>
    let w := fmtWidth s.toNat
    let n := 512 / fmtWidth d.toNat
    packRes (fmtWidth d.toNat) (((lanes w x.va).take n).map (fun q =>
      dequantise d.toNat q (x.wb.toNat % 2 ^ 16) (x.wc.toNat % 2 ^ w))))

/-- VSCACC: acc + partial × scale, fused (R53, R131). -/
def execVscacc (k : BitVec 1) (t u : BitVec 9) (s : State) : Out :=
  fireResult (.vscacc k t u) s (fun _ _ x =>
    packRes 32 ((List.range 16).map (fun i =>
      scaleAcc (lane 32 x.va i) (sgn 32 (lane 32 x.vb i)) (if k = 0 then x.wc.toNat % 2 ^ 16 else lane 16 x.vc i))))

/-! ### Permutations -/

/-- The lanes in rising order whose mask lane has its top bit set. -/
def selected (w : Nat) (mask : List Nat) (l : List Nat) : List Nat :=
  ((l.zip mask).filter (fun p => 2 ^ (w - 1) ≤ p.2)).map (·.1)

/-- Expands lanes into the selected places (R132 VEXPAND). -/
def expandInto (w : Nat) : List Nat → List Nat → List Nat
  | [], _ => []
  | m :: ms, l =>
    if 2 ^ (w - 1) ≤ m then l.headD 0 :: expandInto w ms l.tail else 0 :: expandInto w ms l

/-- One VPERM operation of R132. -/
def vpermOp (w c : Nat) (a b : List Nat) (n : Nat) : List Nat :=
  let L := 512 / w
  let half := L / 2
  match c with
  | 0 => b.map (fun k => if 2 ^ (w - 1) ≤ k then 0 else a.getD (k % L) 0)
  | 1 => ((a.take half).zip (b.take half)).flatMap (fun p => [p.1, p.2])
  | 2 => ((a.drop half).zip (b.drop half)).flatMap (fun p => [p.1, p.2])
  | 3 => (List.range half).map (fun j => a.getD (2 * j) 0) ++ (List.range half).map (fun j => b.getD (2 * j) 0)
  | 4 => (List.range half).map (fun j => a.getD (2 * j + 1) 0) ++ (List.range half).map (fun j => b.getD (2 * j + 1) 0)
  | 5 => a.drop (L - n % L) ++ a.take (L - n % L)
  | 6 => selected w b a
  | 7 => expandInto w b a
  | _ => if 2 * L ≤ n then [] else ((a ++ b).drop n).take L

/-- VPERM: the count is the control operand of VROTL (slot b) and of VSLIDE (slot c) (R132). -/
def execVperm (w : BitVec 2) (c : BitVec 5) (t u : BitVec 9) (s : State) : Out :=
  fireVector (.vperm w c t u) s (fun x =>
    let n := laneWidth w.toNat
    pack n (vpermOp n c.toNat (lanes n x.va) (lanes n x.vb) (if c.toNat = 5 then x.wb else x.wc).toNat))

/-! ### Reductions -/

/-- One VRED operation of R133: `f` is the width and a zero bit, or the format. -/
def vredOp (f c : Nat) (v : Vec) : Word × Nat :=
  let w := laneWidth (f / 2)
  let l := lanes w v
  let fw := fmtWidth f
  let fl := lanes fw v
  match c with
  | 0 => (sext w (l.foldl (· + ·) 0), 0)
  | 1 => (BitVec.ofInt 64 ((l.map (sgn w)).foldl max (-(2 ^ (w - 1)))), 0)
  | 2 => (BitVec.ofInt 64 ((l.map (sgn w)).foldl min (2 ^ (w - 1) - 1)), 0)
  | 3 => (BitVec.ofNat 64 (l.foldl max 0), 0)
  | 4 => let r := treeSum f (if f = 0 then 4 else 5) fl; (BitVec.ofNat 64 r.1, r.2)
  | 5 => (BitVec.ofNat 64 (fl.tail.foldl (fun x y => (fMinMax f true x y).1) (fMinMax f true (fl.headD 0) (fl.headD 0)).1), 0)
  | 6 => (BitVec.ofNat 64 (fl.tail.foldl (fun x y => (fMinMax f false x y).1) (fMinMax f false (fl.headD 0) (fl.headD 0)).1), 0)
  | _ => (BitVec.ofNat 64 (packNat 1 (l.map (fun x => x / 2 ^ (w - 1)))), 0)

/-- VRED (R133). -/
def execVred (f : BitVec 3) (c : BitVec 4) (t u : BitVec 9) (s : State) : Out :=
  fireResult (.vred f c t u) s (fun _ _ x =>
    let r := vredOp f.toNat c.toNat x.va
    (scalar r.1, r.2))

/-! ### Pairs -/

/-- Pair i of a pair vector: coordinate and value (R148). -/
def pairs (v : Vec) : List (Nat × Nat) := (List.range 8).map (fun i => (lane 32 v (2 * i), lane 32 v (2 * i + 1)))

/-- The sentinel coordinate (R148). -/
def sentinel : Nat := 0xFFFFFFFF

/-- Eight pairs as a vector, the missing ones sentinels with value 0 (R148). -/
def packPairs (l : List (Nat × Nat)) : Vec :=
  pack 32 (((List.range 8).map (fun i => l.getD i (sentinel, 0))).flatMap (fun p => [p.1, p.2]))

/-- VMATCH: for each pair of a, the partner of lowest index in b (R154). -/
def execVmatch (u : BitVec 9) (s : State) : Out :=
  fireVector (.vmatch u) s (fun x =>
    let b := pairs x.vb
    packPairs ((pairs x.va).map (fun p =>
      if p.1 = sentinel then (sentinel, 0)
      else match b.find? (fun q => q.1 = p.1) with
        | some q => (p.1, q.2)
        | none => (sentinel, 0))))

end Sys2Proof.Machine
end

