-- ==== Sys2Proof/Machine/Levels.lean ====
section
/-! DEFINITION. Memory at its homes: timestamps and leases (R244, R245), leased copies (R215, R363), the empty rows that park an
access (R321), moved lines (R367), the L2 slices (R220, R323), partial RED lines (R241), the atomic operations (R144,
R146), and every load and store at a home (R243). -/

namespace Sys2Proof.Machine

/-! ### Timestamps and leases -/

def State.line (s : State) (l : Nat) : LineTs :=
  (s.mem.lines.find? (fun x => x.line = l)).getD { line := l, wts := 0, rts := 0, prev := 0 }

def State.setLine (s : State) (x : LineTs) : State :=
  { s with mem := { s.mem with lines := upsert (fun y => y.line = x.line) x s.mem.lines } }

/-- A load at timestamp `p` served by the home (R244): the lease end rises by 1 to 16; the issuer's new timestamp. -/
def leaseLoad (s : State) (l p : Nat) : State × Nat :=
  let x := s.line l
  let (n, s) := s.draw
  (s.setLine { x with rts := max x.rts (max p x.wts + (Config.leaseLen n).val + 1) }, max p x.wts)

/-- A write performed at the home (R244): the issuer's new timestamp. -/
def stampWrite (s : State) (l p : Nat) : State × Nat :=
  let x := s.line l
  let w := max p (x.rts + 1)
  (s.setLine { x with wts := w, rts := w, prev := x.wts }, w)

/-- A copy is live for a holder at timestamp `p` (R245). -/
def Copy.live (c : Copy) (now p : Nat) : Bool := p ≤ c.rts && now < c.granted + 4096

/-- The crossing cache stands in the list of copies as a cluster of its own number (R363). -/
def crossing : Nat := 640

/-- The ways of a cache of leased copies: a cluster's banks in cache mode that are not switching (R215, R219), or those of the
crossing cache (R363). -/
def cacheWays (s : State) (cluster : Nat) : List Nat :=
  if cluster = crossing then List.range 16
  else (List.range 32).filter (fun n =>
    !s.mem.banks.any (fun b => b.cluster = cluster && b.num = n && (b.mode ≠ 0 || b.switching.isSome)))

/-- The set of a line in a cluster cache, and in the crossing cache for a tenant slot of a paddock: in a shared one the slot stands for
the index's upper two bits (R215, R363, R372). -/
def cacheSet (s : State) (cluster who line : Nat) : Nat :=
  if cluster ≠ crossing then line % 512
  else if (s.pad? (who / 4)).any Paddock.shared then who % 4 * 2 ^ 16 + line % 2 ^ 16 else line % 2 ^ 18

/-- The written lines that a set of a cluster cache holds until they are written back, and the lines of host memory that a set of the
crossing cache holds, each with its way and the cycle of its last use (R215, R363). -/
def writtenIn (s : State) (cluster set : Nat) : List (Nat × Nat × Nat) :=
  if cluster = crossing then (s.mem.hostLines.filter (fun x => x.set = set)).map (fun x => (x.line, x.way, x.used))
  else (s.cores.tasks.flatMap (fun t => if clusterOf t.pos = cluster then t.queue else [])).flatMap (fun r =>
    (r.ways.filter (fun x => x.1 % 512 = set)).map (fun x => (x.1, x.2, r.used)))

/-- The way of a set that a line takes beside the written lines that it holds: a free one, or that of the copy that is the least recently
used line, and leaves; none while that line is a written one, which is written back first (R215). -/
def cacheWay (s : State) (cluster set line : Nat) (held : List (Nat × Nat × Nat)) : Option (Nat × State) :=
  let ways := cacheWays s cluster
  let rest := s.mem.copies.filter (fun x => !(x.cluster = cluster && x.set = set && x.line = line))
  let copies := rest.filter (fun x => x.cluster = cluster && x.set = set)
  match ways.find? (fun w => copies.all (fun x => x.way ≠ w) && held.all (fun x => x.2.1 ≠ w)) with
  | some w => some (w, { s with mem := { s.mem with copies := rest } })
  | none =>
    match copies.find? (fun x => ways.contains x.way) with
    | some old =>
      if held.any (fun x => x.2.2 < old.used) then none
      else some (old.way, { s with mem := { s.mem with copies := rest.filter (fun x => !(x.cluster = cluster && x.set = set && x.line = old.line)) } })
    | none => none

/-- A line of host memory is written back from the crossing cache: those that wrote it owe it no more (R246, R261, R363). -/
def writeBack (s : State) (line : Nat) : State :=
  let paid (t : Task) : Task := { t with owed := t.owed.filter (fun l => l ≠ line)
                                         joins := t.joins.map (fun j => { j with lines := j.lines.filter (fun l => l ≠ line) }) }
  { s with
    eng := { s.eng with copies := s.eng.copies.map (fun c => { c with owed := c.owed.filter (fun l => l ≠ line) }) }
    mem := { s.mem with hostOld := s.mem.hostOld.filter (fun c => lineOf c.1 ≠ line) }
    cores := { s.cores with tasks := s.cores.tasks.map paid }
    drv := { s.drv with ckpts := s.drv.ckpts.map (fun k => { k with tasks := k.tasks.map paid }) } }

/-- The least recently used line of host memory of a set of the crossing cache leaves, written back (R363). -/
def dropOldest (s : State) (set : Nat) : State :=
  match (s.mem.hostLines.filter (fun x => x.set = set)).foldl (fun (m : Option HostLine) x => match m with
    | none => some x
    | some y => if x.used < y.used then some x else some y) none with
  | none => s
  | some x =>
    let s := writeBack s x.line
    { s with mem := { s.mem with hostLines := s.mem.hostLines.filter (fun y => y.line ≠ x.line) } }

/-- Keeps a leased copy in a way of its set (R215). In the crossing cache a line of host memory that is the least recently used leaves for
it; in a cluster none is kept where a written line would have to. Log 21. -/
def keepCopy (s : State) (c : Copy) : State :=
  let s := if c.cluster = crossing && (cacheWay s c.cluster c.set c.line (writtenIn s c.cluster c.set)).isNone
    then dropOldest s c.set else s
  match cacheWay s c.cluster c.set c.line (writtenIn s c.cluster c.set) with
  | some (w, s) => { s with mem := { s.mem with copies := s.mem.copies ++ [{ c with way := w }] } }
  | none => s

/-- A line of host memory that is read or written stands in the crossing cache, its home on the device (R363): in its way, or in that
which the least recently used line of its set leaves, a copy or another host line. -/
def keepHostLine (s : State) (who line : Nat) : State :=
  let set := cacheSet s crossing who line
  let at_ (s : State) (way : Nat) : State :=
    { s with mem := { s.mem with hostLines := s.mem.hostLines.filter (fun x => x.line ≠ line) ++
      [{ line := line, set := set, way := way, used := s.ctl.now }] } }
  match s.mem.hostLines.find? (fun x => x.line = line && x.set = set) with
  | some x => at_ s x.way
  | none =>
    let held (s : State) := (writtenIn s crossing set).filter (fun x => x.1 ≠ line)
    let s := if (cacheWay s crossing set line (held s)).isNone then dropOldest s set else s
    match cacheWay s crossing set line (held s) with
    | some (w, s) => at_ s w
    | none => s

/-- A copy has been used: it is the most recent of its set (R215). -/
def useCopy (s : State) (c : Copy) : State :=
  { s with mem := { s.mem with copies := s.mem.copies.filter (fun x => x ≠ c) ++ [{ c with used := s.ctl.now }] } }

/-- No copy of a line serves any more, also none granted before it moved to where it is (R241, R246, R367): an update has been accepted that
every later access sees. -/
def dropCopies (s : State) (line : Nat) : State :=
  { s with mem := { s.mem with copies := s.mem.copies.filter (fun c =>
      c.line ≠ line && followMoves s 8 (c.line * 64) ≠ some (line * 64)) } }

/-- The place in T that an update of a line takes at its fold or later, which follows a timestamp and every lease granted so far (R246,
R247). -/
def placeLater (s : State) (l p : Nat) : State × Nat :=
  let x := s.line l
  (s.setLine { x with rts := max x.rts p }, max x.rts p + 1)

/-- A copy granted on a line no later than `at_` that is still live (R246), also one granted before the line moved to where it is
(R367). -/
def leaseLive (s : State) (line at_ : Nat) : Bool :=
  s.mem.copies.any (fun c => c.granted ≤ at_ && s.ctl.now < c.granted + 4096 &&
    (c.line = line || followMoves s 8 (c.line * 64) = some (line * 64)))

/-- The writes of lines just made that are not yet performed at paddock scope (R246). -/
def lagOf (s : State) (id : Nat) (lines : List Nat) : List Lagging :=
  (lines.filter (fun l => leaseLive s l s.ctl.now)).map (fun l => { id := id, line := l, at_ := s.ctl.now })

/-- Notes writes of a configuration's units that are not yet performed at paddock scope. -/
def State.confLag (s : State) (cid : Nat) (lines : List Nat) : State :=
  s.mapConf cid (fun c => { c with lag := c.lag ++ lagOf s cid lines })

/-- Some write of a list is not yet performed at paddock scope. -/
def lagging (s : State) (l : List Lagging) : Bool := l.any (fun x => leaseLive s x.line x.at_)

/-! ### Waiting at the home -/

/-- The pseudo-channel of a physical address, counted over the device, as an NM page and as an ordinary page lies (R221,
R222, R310). -/
def nmChannel (a : Nat) : Nat := 4 * (a / tileBytes) + a % tileBytes / 2 ^ 16 % 4
def pageChannel (a : Nat) : Nat := 4 * (a / tileBytes) + a / 256 % 4

/-- The byte of its channel's 16 KiB share of an ordinary page at which a physical address lies: unit u of the page stands at
256·⌊u/4⌋ (R221). -/
def shareOffset (a : Nat) : Nat := 256 * (a % 2 ^ 16 / 256 / 4) + a % 256

/-- The pseudo-channel in which a physical address lies: that of its NM page, or of its unit of an ordinary page. -/
def State.channelOf (s : State) (a : Nat) : Nat := if s.mem.near.contains (a / 2 ^ 16) then nmChannel a else pageChannel a

/-- A pseudo-channel in self-refresh or power-down: that of a row unit, or those of a die past its second threshold (R324,
R387). -/
def channelDown (s : State) (a : Nat) : Bool :=
  s.eng.units.any (fun u => u.power = .down && u.pch = s.channelOf a) || s.hub.dead.contains (dieOf (homeTile a))

/-- An access waits at the home while its row is one that a node has marked empty (R321), or its channel is down (R324). -/
def parked (s : State) (k : Nat) : Bool :=
  regionOf k = 0 && (s.mem.empties.any (fun e => e.row = offsetOf k / 1024 && !e.full) || channelDown s (offsetOf k))

/-- A parked access is still there to be served. -/
def Waiter.alive (s : State) (w : Waiter) : Bool :=
  match w.kind with
  | 0 => s.cores.tasks.any (fun t => (t.queue ++ t.reds).any (fun r => r.id = w.id)) || s.mem.retired.any (fun x => x.req.id = w.id)
  | 1 => s.fab.elems.any (fun e => 8 * e.pos + e.slot = w.id && !e.saved && !e.lost)
  | 2 => s.eng.tiles.any (fun t => t.pos = w.id && !t.saved && !t.blocked)
  | 3 => s.eng.copies.any (fun c => c.id = w.id && !c.lost)
  | 5 => s.eng.deliveries.any (fun d => d.id = w.id)
  | 6 => s.mem.partials.any (fun p => 4 * p.line + p.die = w.id)
  | 7 => s.mem.outside.any (fun x => x.id = w.id)
  | 8 => s.eng.units.any (fun u => u.pch = w.id)
  | 9 => s.eng.scans.any (fun c => c.id = w.id)
  | _ => s.eng.progs.any (fun g => g.id = w.id && !g.stopped)

/-- The accesses parked on the row of a key, in the order of their arrival (R321). -/
def waitersAt (s : State) (k : Nat) : List Waiter :=
  if regionOf k = 0 then s.mem.parkedBy.filter (fun w => w.row = offsetOf k / 1024 && w.alive s) else []

/-- A row unit at work keeps an access off its channel (R320): between two row boundaries every one, at a boundary each that was not
waiting there when it was reached. -/
def heldOff (s : State) (k kind id : Nat) : Bool :=
  regionOf k = 0 && s.eng.units.any (fun u => u.loaded && u.power = .up && !u.cancelled && u.pch = s.channelOf (offsetOf k) &&
    !(u.suspended && u.serving.contains (kind, id, k)))

/-- An access may go on at its home (R320, R321): its line is not parked nor its channel a row unit's, and of the accesses that parked on
the row, if it is one, it is the first. -/
def mayPass (s : State) (k kind id : Nat) : Bool :=
  !parked s k && !heldOff s k kind id && (match waitersAt s k with
  | [] => true
  | w :: ws => (w.kind = kind && w.id = id) || ws.all (fun w => !(w.kind = kind && w.id = id)))

/-- An access that finds its row empty parks there (R321). -/
def parkAt (s : State) (k kind id : Nat) : State :=
  let w : Waiter := { row := offsetOf k / 1024, kind := kind, id := id }
  if regionOf k = 0 && s.mem.empties.any (fun e => e.row = w.row && !e.full) && !s.mem.parkedBy.contains w then
    { s with mem := { s.mem with parkedBy := s.mem.parkedBy ++ [w] } }
  else s

/-- An access that goes on leaves its place. -/
def unpark (s : State) (k kind id : Nat) : State :=
  if s.mem.parkedBy.isEmpty then s
  else { s with mem := { s.mem with
    parkedBy := s.mem.parkedBy.filter (fun w => !(w.row = offsetOf k / 1024 && w.kind = kind && w.id = id)) } }

/-! ### Writing at a home -/

/-- What the host still sees of bytes of host memory about to be written in the crossing cache (R251). -/
def holdBack (s : State) (k n : Nat) : State :=
  let new := (List.range n).filter (fun i => s.mem.hostOld.all (fun c => c.1 ≠ k + i))
  { s with mem := { s.mem with hostOld := s.mem.hostOld ++ new.map (fun i => (k + i, readByte s.mem.bytes (k + i))) } }

/-- Every line of host memory is written back (R262, R378). -/
def writeBackAll (s : State) : State := ((s.mem.hostOld.map (fun c => lineOf c.1)).eraseDups).foldl writeBack s

/-- A byte of host memory as the host sees it (R251). -/
def hostSees (s : State) (k : Nat) : Byte :=
  match s.mem.hostOld.find? (fun c => c.1 = k) with
  | some c => c.2
  | none => readByte s.mem.bytes k

/-- Writes bytes at a home: a PACKED block keeps its metadata, a line of host memory waits in the crossing cache. -/
def State.homeWrite (s : State) (k : Nat) (bs : List Byte) : State :=
  let s := if regionOf k = 1 then holdBack s k bs.length else s
  s.packWrite k bs

/-! ### The L2 slices (R220) -/

/-- A line leaves its slice: a dirty one goes to DRAM; behind a clean one DRAM shows again (R323). -/
def evictL2 (s : State) (line : Nat) : State :=
  match s.mem.l2.find? (fun x => x.line = line) with
  | none => s
  | some x =>
    let s' := { s with mem := { s.mem with l2 := s.mem.l2.filter (fun y => y.line ≠ line)
                                           under := s.mem.under.filter (fun u => u.1 ≠ line) } }
    match s.mem.under.find? (fun u => u.1 = line) with
    | some u => if x.dirty then s' else s'.write (line * 64) (toBytes 64 u.2.toNat)
    | none => s'

/-- The paddock that owns an edge tile. -/
def State.ownerOf (s : State) (tile : Nat) : Option Paddock := s.ten.paddocks.find? (fun p => !p.ended && within p.first p.count tile)

/-- The set of a line in a slice: physical address bits [17:6]; in a shared paddock the tenant slot stands for the upper two (R220,
R372). -/
def l2Set (s : State) (tile who line : Nat) : Nat :=
  if (s.ownerOf tile).any Paddock.shared then who % 4 * 2 ^ 10 + line % 2 ^ 10 else line % 2 ^ 12

/-- Makes room in a set of a slice: of 16 lines in it, partial lines among them, one chosen freely leaves (R220, R241). -/
def l2Room (s : State) (tile set : Nat) : State :=
  let lines := s.mem.l2.filter (fun x => homeOf (x.line * 64) = some tile && x.set = set)
  let parts := s.mem.partials.filter (fun p => p.placed && p.home = tile && l2Set s tile (whoOf p.pad p.ten) p.line = set)
  if lines.length + parts.length < 16 then s
  else
    let (n, s) := s.draw
    let v := Config.victim n % (lines.length + parts.length)
    match lines[v]?, parts[v - lines.length]? with
    | some x, _ => evictL2 s x.line
    | none, some p => { s with mem := { s.mem with partials := s.mem.partials.map (fun q => if q = p then { q with placed := false } else q) } }
    | none, none => s

/-- An access of a line by a tenant slot at its home brings it into its slice, or a line of host memory into the crossing cache (R363). A
write makes a line of device HBM dirty: DRAM keeps what it held. -/
def touchL2 (s : State) (who line : Nat) (wr : Bool) : State :=
  match homeOf (line * 64) with
  | none => if regionOf (line * 64) = 1 then keepHostLine s who line else s
  | some tile =>
    let old := s.mem.l2.find? (fun x => x.line = line)
    let set := l2Set s tile who line
    let s := if old.any (fun x => x.set = set) then s else l2Room s tile set
    let dirty := wr || old.any (·.dirty)
    let s := if wr && s.mem.under.all (fun u => u.1 ≠ line) then
        { s with mem := { s.mem with under := s.mem.under ++ [(line, s.readVec (line * 64))] } } else s
    { s with mem := { s.mem with l2 := upsert (fun x => x.line = line) { line := line, dirty := dirty, set := set } s.mem.l2 } }

/-- A dirty line is written back to DRAM and stays (R306 step 1). -/
def cleanL2 (s : State) (line : Nat) : State :=
  match s.mem.l2.find? (fun x => x.line = line && x.dirty) with
  | none => s
  | some _ => { s with mem := { s.mem with
      l2 := s.mem.l2.map (fun y => if y.line = line then { y with dirty := false } else y)
      under := s.mem.under.filter (fun u => u.1 ≠ line) } }

/-- A line is dropped at its home without a write-back (R306 step 4): DRAM shows again. -/
def dropL2 (s : State) (line : Nat) : State :=
  let gone := { s with mem := { s.mem with l2 := s.mem.l2.filter (fun y => y.line ≠ line)
                                           under := s.mem.under.filter (fun u => u.1 ≠ line) } }
  match s.mem.under.find? (fun u => u.1 = line) with
  | some u => gone.write (line * 64) (toBytes 64 u.2.toNat)
  | none => gone

/-- Fills a range of memory with zeros, in DRAM and in the slices; its lines are encrypted with no slot's key, and its PACKED blocks
are coded again (R223, R373). -/
def wipe (s : State) (k n : Nat) : State :=
  let out (l : Nat) : Bool := l * 64 + 64 ≤ k || k + n ≤ l * 64
  let s := s.zero k n
  let s := { s with mem := { s.mem with
    l2 := s.mem.l2.filter (fun x => out x.line), under := s.mem.under.filter (fun u => out u.1), sealed := s.mem.sealed.filter (fun x => out x.1) } }
  (s.mem.packed.filter (fun x => k ≤ x.1 * 2 ^ 16 && x.1 * 2 ^ 16 < k + n)).foldl (fun s x =>
    (List.range 256).foldl (fun s b => recodeBlock s x.2 (x.1 * 2 ^ 8 + b)) s) s

/-! ### Encryption (R373) -/

/-- Another key than that of a tenant slot has encrypted a line (R373). -/
def foreign (s : State) (who line : Nat) : Bool := s.mem.sealed.any (fun x => x.1 = line && x.2 ≠ s.keyOf who)

/-- `n` bytes of one line as a tenant slot reads them: where another key has encrypted the line, bytes that no rule gives. -/
def State.readAs (s : State) (who k n : Nat) : State × Nat :=
  if !foreign s who (lineOf k) then (s, s.read k n)
  else let (d, s) := s.draw; (s, (Config.garbled d).toNat / 2 ^ (8 * (k % 64)) % 2 ^ (8 * n))

/-- A line as the read just made of it by a tenant slot has decrypted it. -/
def State.lineRead (s : State) (who line : Nat) : Vec :=
  if foreign s who line then Config.garbled (s.ctl.fresh - 1) else s.readVec (line * 64)

/-- A tenant slot is about to write part of a line of device HBM: its key encrypts the line from then on, and the line's other bytes are
those that it reads there. -/
def State.claim (s : State) (who line : Nat) : State :=
  let s := if !foreign s who line then s
    else let r := s.readAs who (line * 64) 64; r.1.packWrite (line * 64) (toBytes 64 r.2)
  if (homeOf (line * 64)).isSome then
    { s with mem := { s.mem with sealed := upsert (fun x => x.1 = line) (line, s.keyOf who) s.mem.sealed } }
  else s

/-- The bytes of a line in DRAM, as a row unit finds them (R323). -/
def dramVec (s : State) (line : Nat) : Vec :=
  match s.mem.under.find? (fun u => u.1 = line) with
  | some u => u.2
  | none => s.readVec (line * 64)

/-- Bytes of DRAM, as a row unit reads them (R323). -/
def dramBytes (s : State) (k n : Nat) : List Byte :=
  if s.mem.under.isEmpty then readBytes s.mem.bytes k n
  else (List.range n).map (fun i => BitVec.ofNat 8 ((dramVec s (lineOf (k + i))).toNat / 2 ^ (8 * ((k + i) % 64))))

/-- Puts bytes into a line from an offset on. -/
def patchVec (v : Vec) (off : Nat) (bs : List Byte) : Vec :=
  BitVec.ofNat 512 (ofBytes ((List.range 64).map (fun i =>
    if off ≤ i then bs.getD (i - off) (BitVec.ofNat 8 (v.toNat / 2 ^ (8 * i))) else BitVec.ofNat 8 (v.toNat / 2 ^ (8 * i)))))

/-- Writes bytes to DRAM as a row unit does: behind a line that a slice holds the home goes on showing that line (R323). -/
def dramWrite (s : State) (k : Nat) (bs : List Byte) : State :=
  let held (l : Nat) : Bool := s.mem.l2.any (fun x => x.line = l)
  if (lineCuts (bs.length / 64 + 2) k bs.length).all (fun c => !held (lineOf c.1)) then s.write k bs
  else (lineCuts (bs.length / 64 + 2) k bs.length).foldl (fun s c =>
    let part := (bs.drop (c.1 - k)).take c.2
    if held (lineOf c.1) then
      { s with mem := { s.mem with
          under := upsert (fun u => u.1 = lineOf c.1) (lineOf c.1, patchVec (dramVec s (lineOf c.1)) (c.1 % 64) part) s.mem.under } }
    else s.write c.1 part) s

/-! ### Atomic operations -/

/-- The new memory value of an atomic of R144 at n bits (CAS is made apart), and its flags. -/
def atomicOp (c n old b : Nat) : Res :=
  let b := b % 2 ^ n
  match c with
  | 0 => ((old + b) % 2 ^ n, 0)
  | 1 => (old &&& b, 0)
  | 2 => (old ||| b, 0)
  | 3 => (old ^^^ b, 0)
  | 4 => (if sgn n old ≤ sgn n b then old else b, 0)
  | 5 => (if sgn n old ≤ sgn n b then b else old, 0)
  | 6 => (min old b, 0)
  | 7 => (max old b, 0)
  | 8 => (b, 0)
  | 10 => fAdd 0 0 old b
  | 11 => fMinMax 0 true old b
  | _ => fMinMax 0 false old b

/-! ### Partial RED lines -/

/-- The context a partial line keeps: that of the last RED applied to it (R241). -/
def Partial.ctx (p : Partial) : Ctx := .task p.pad p.ten p.cid p.pos p.slot

/-- Applies the valid words of a partial line to the home's value, in rising order (R241). -/
def applyPartial (s : State) (p : Partial) : State :=
  let bytes := if p.size = 0 then 4 else 8
  let s := (touchL2 s (whoOf p.pad p.ten) p.line true).claim (whoOf p.pad p.ten) p.line
  let words := (List.range (64 / bytes)).filter (fun i => p.valid / 2 ^ i % 2 = 1)
  let r := words.foldl (fun (x : State × Nat) i =>
      let k := p.line * 64 + bytes * i
      if x.1.poisoned k bytes then (confFault x.1 p.cid { code := 0x16, sub := 5, tile := p.pos, slot := p.slot }, x.2) else
      let q := atomicOp p.op (8 * bytes) (x.1.read k bytes) (lane (8 * bytes) p.val i)
      (x.1.homeWrite k (toBytes bytes q.1), x.2 ||| q.2)) (s, 0)
  let s := (stampWrite r.1 p.line 0).1
  lateFlags s p.ctx r.2

/-- Folds every partial line of a line, dies in order 0 to 3 (R241). -/
def foldLine (s : State) (line : Nat) : State :=
  if s.mem.partials.any (fun p => p.line = line) then
    let mine := (List.range 4).flatMap (fun d => s.mem.partials.filter (fun p => p.line = line && p.die = d))
    let s := { s with mem := { s.mem with partials := s.mem.partials.filter (fun p => p.line ≠ line) } }
    mine.foldl applyPartial s
  else s

/-- The partial home of a key's fibre or line on a die (R237, R241): the strip by the handle's or the address's low bits, the edge and
the column parity of the home. -/
def partialHome (s : State) (pad home die handle : Nat) : Option Nat :=
  match s.pad? pad with
  | none => none
  | some p =>
    let strips := (List.range p.count).map (p.first + ·) |>.filter (fun x => dieOfStrip x = die)
    match strips with
    | [] => none
    | first :: _ => some (edgePos (first + handle / 64 % strips.length) (edgeIndex home))

/-- Applies a RED in a partial line of its die, in the slice of its partial home; a line of another operation or size first goes home
(R241). What folds the line later places it after the leases granted so far and after the task's last fence (R246, R247). -/
def redPartial (s : State) (pad die line i op size : Nat) (b : Nat) (t : Task) : State × Nat :=
  let n := if size = 0 then 32 else 64
  let home := (partialHome s pad (homeTile (line * 64)) die (line * 64)).getD 0
  let mine (p : Partial) : Bool := p.line = line && p.die = die && p.placed
  let fresh : Partial := { line := line, die := die, home := home, placed := true, val := 0, valid := 0, op := op, size := size, pad := pad
                           ten := t.ten.toNat, pos := t.pos, slot := t.slot, cid := t.cid }
  let old := s.mem.partials.find? mine
  let s := match old with
    | some p => if p.op = op ∧ p.size = size then s else
        applyPartial { s with mem := { s.mem with partials := s.mem.partials.filter (fun p => !mine p) } } p
    | none => s
  let s := if (s.mem.partials.find? mine).isSome then s else l2Room s home (l2Set s home t.who line)
  let p := ((s.mem.partials.find? mine).getD fresh)
  let r : Res := if p.valid / 2 ^ i % 2 = 1 then atomicOp op n (lane n p.val i) b else (b % 2 ^ n, 0)
  let p := { p with val := pack n ((lanes n p.val).set i r.1), valid := p.valid ||| 2 ^ i, ten := t.ten.toNat
                    pos := t.pos, slot := t.slot, cid := t.cid }
  let (s, place) := placeLater (dropCopies s line) line t.fenced
  let s := s.mapTask t.pos t.slot (fun x => if x.cid = t.cid then { x with redPts := max x.redPts place } else x)
  ({ s with mem := { s.mem with partials := upsert mine p s.mem.partials } }, r.2)

/-! ### Loads and stores at the home -/

/-- A read of `n` bytes at its home by a party at timestamp `p` (R243, R244); partial RED lines fold first (R241). Windows keep
no timestamps (R216). -/
def homeLoad (s : State) (who k n p : Nat) : State × Nat × Nat :=
  if regionOf k = 2 then (s, s.read k n, p)
  else
    let s := touchL2 (foldLine s (lineOf k)) who (lineOf k) false
    let (s, p') := leaseLoad s (lineOf k) p
    let (s, v) := s.readAs who k n
    (s, v, p')

/-- A write of bytes at its home by a party at timestamp `p` (R244). -/
def homeStore (s : State) (who k : Nat) (bs : List Byte) (p : Nat) : State × Nat :=
  if regionOf k = 2 then (s.write k bs, p)
  else
    let s := (touchL2 (foldLine s (lineOf k)) who (lineOf k) true).claim who (lineOf k)
    let (s, p') := stampWrite s (lineOf k) p
    (s.homeWrite k bs, p')

/-- Reads the bytes at a list of keys, each an access of its own, by a party at timestamp `p` and for a tenant slot; its new timestamp. -/
def readKeys (s : State) (who p : Nat) : List (Nat × Nat) → State × List Byte × Nat
  | [] => (s, [], p)
  | (k, n) :: rest =>
    let (s, v, p) := homeLoad s who k n p
    let r := readKeys s who p rest
    (r.1, toBytes n v ++ r.2.1, r.2.2)

/-- Writes bytes over a list of keys, each an access of its own, by a party at timestamp `p`; its new timestamp. -/
def writeKeys (s : State) (who p : Nat) : List (Nat × Nat) → List Byte → State × Nat
  | [], _ => (s, p)
  | (k, n) :: rest, bs =>
    let r := homeStore s who k (bs.take n) p
    writeKeys r.1 who r.2 rest (bs.drop n)

/-- The bytes at a list of keys as a tenant slot reads them, without a timestamp. -/
def bytesAs (s : State) (who : Nat) : List (Nat × Nat) → State × List Byte
  | [] => (s, [])
  | (k, n) :: rest =>
    let (s, v) := s.readAs who k n
    let r := bytesAs s who rest
    (r.1, toBytes n v ++ r.2)

/-- The lines of a tile access at one timestamp (R244, R254): reads give the largest wts; each lease ends no earlier. -/
def tileStamp (s : State) (lines : List Nat) (p : Nat) : State × Nat :=
  let t := lines.foldl (fun m l => max m (s.line l).wts) 0
  (lines.foldl (fun s l => let x := s.line l; s.setLine { x with rts := max x.rts t }) s, max p t)

/-- A tile load by a party at timestamp `p` (R244, R254): partial RED lines fold, every line is read at one timestamp. -/
def readTile (s : State) (who p : Nat) (ks : List (Nat × Nat)) : State × List Byte × Nat :=
  let lines := (ks.filter (fun k => regionOf k.1 ≠ 2)).map (fun k => lineOf k.1)
  let s := lines.foldl (fun s l => touchL2 (foldLine s l) who l false) s
  let (s, t) := tileStamp s lines p
  let (s, bs) := bytesAs s who ks
  (s, bs, t)

/-- Writes bytes over a list of keys, without a timestamp. -/
def writeRaw (who : Nat) : State → List (Nat × Nat) → List Byte → State
  | s, [], _ => s
  | s, (k, n) :: rest, bs =>
    let s := if regionOf k = 2 then s.write k (bs.take n)
      else ((touchL2 s who (lineOf k) true).claim who (lineOf k)).homeWrite k (bs.take n)
    writeRaw who s rest (bs.drop n)

/-- A tile store by a party at timestamp `p` (R244, R254 to R256): every line is written at one timestamp, after every lease
granted on any of them; partial lines fold when the locks are released. -/
def tileStore (s : State) (who : Nat) (ks : List (Nat × Nat)) (bs : List Byte) (p : Nat) : State × Nat :=
  let lines := ((ks.filter (fun k => regionOf k.1 ≠ 2)).map (fun k => lineOf k.1)).eraseDups
  let w := lines.foldl (fun m l => max m ((s.line l).rts + 1)) p
  let s := writeRaw who s ks bs
  let s := lines.foldl (fun s l => s.setLine { s.line l with wts := w, rts := w, prev := (s.line l).wts }) s
  (lines.foldl foldLine s, w)

/-- The write permission of a line that holds a live fibre header, where it now lives (R367), is refused to stores (R137 ACCESS 4,
R148). -/
def liveHeader (s : State) (k : Nat) : Bool :=
  let k := (followMoves s 8 k).getD k
  s.eng.fibres.any (fun f => lineOf f.key = lineOf k)

end Sys2Proof.Machine
end

