-- ==== Sys2Proof/Machine/Fibre.lean ====
section
/-! DEFINITION. The fibre engine: header records (R148), units, segments and directories with their splits (R232 to R235),
merging and overflow (R150, R151), coarsening (R236), partials and folds (R237 to R240), the operations of R149 and the
reads of R152, R153 and R155 with their costs (R156). -/

namespace Sys2Proof.Machine

/-! ### The header record -/

/-- The fields of a header record (R148). -/
structure FibHdr where
  fmt : Nat
  cop : Nat
  pz : Bool
  home : Bool
  pol : Nat
  step : Nat
  sealed_ : Bool
  two : Bool
  live : Bool
  level : Nat
  pdie : Nat
  absent : Nat
  pairs : Nat
  plim : Nat
  segs : Nat
  sres : Nat
  ver : Nat
  nspl : Nat
  root : Nat
  nmrg : Nat
  ncrs : Nat
  nfld : Nat
  ecyc : Nat
  deriving DecidableEq, Repr

/-- Reads the record at a key (R148). -/
def readHdr (s : State) (k : Nat) : FibHdr :=
  let b := fun o => s.read (k + o) 1
  { fmt := b 0 % 16, cop := b 1 % 8, pz := bits (b 1) 3 3 = 1, home := bits (b 1) 4 4 = 1, pol := b 2 % 4
    step := bits (b 2) 4 2, sealed_ := bits (b 3) 0 0 = 1, two := bits (b 3) 1 1 = 1, live := bits (b 3) 2 2 = 1
    level := b 4, pdie := b 5, absent := s.read (k + 8) 4, pairs := s.read (k + 12) 4, plim := s.read (k + 16) 4
    segs := s.read (k + 20) 2, sres := s.read (k + 22) 2, ver := s.read (k + 24) 4, nspl := s.read (k + 28) 4
    root := s.read (k + 32) 8, nmrg := s.read (k + 40) 4, ncrs := s.read (k + 44) 2, nfld := s.read (k + 46) 2
    ecyc := s.read (k + 48) 8 }

def ofFlag (b : Bool) (n : Nat) : Nat := if b then n else 0

/-- The 64 bytes of a record (R148). -/
def FibHdr.bytes (h : FibHdr) : List Byte :=
  toBytes 1 h.fmt ++ toBytes 1 (h.cop + ofFlag h.pz 8 + ofFlag h.home 16) ++ toBytes 1 (h.pol + 4 * h.step) ++
  toBytes 1 (ofFlag h.sealed_ 1 + ofFlag h.two 2 + ofFlag h.live 4) ++ toBytes 1 h.level ++ toBytes 1 h.pdie ++
  toBytes 2 0 ++ toBytes 4 h.absent ++ toBytes 4 h.pairs ++ toBytes 4 h.plim ++ toBytes 2 h.segs ++ toBytes 2 h.sres ++
  toBytes 4 h.ver ++ toBytes 4 h.nspl ++ toBytes 8 h.root ++ toBytes 4 h.nmrg ++ toBytes 2 h.ncrs ++ toBytes 2 h.nfld ++
  toBytes 8 h.ecyc ++ toBytes 8 0

/-- Charges engine cycles (R156). -/
def FibHdr.charge (h : FibHdr) (n : Nat) : FibHdr := { h with ecyc := (h.ecyc + n) % 2 ^ 64 }

/-- The directory levels of R156. -/
def FibHdr.levels (h : FibHdr) : Nat := if h.two then 2 else 1

/-! ### Values -/

/-- A zero that PZ removes (R150). -/
def fibZero (fmt v : Nat) : Bool :=
  if fmt = 0 then v % 2 ^ 31 = 0 else if fmt ≤ 2 then v % 2 ^ 15 = 0 else v = 0

/-- Combines an old value with an incoming one (R148). -/
def fibCombine (fmt cop v x : Nat) : Res :=
  match cop with
  | 0 => if fmt ≤ 2 then fAdd fmt 0 v x else ((v + x) % 2 ^ 32, 0)
  | 1 => if fmt ≤ 2 then fMinMax fmt true v x
    else if fmt = 11 then ((if sgn 32 v < sgn 32 x then x else v), 0) else (max v x, 0)
  | 2 => if fmt ≤ 2 then fMinMax fmt false v x
    else if fmt = 11 then ((if sgn 32 x < sgn 32 v then x else v), 0) else (min v x, 0)
  | 3 => (v ||| x, 0)
  | 4 => (x, 0)
  | _ => (v, 0)

/-! ### Segments and directories -/

def Shape.empty : Shape := { segs := [], dirs := [], two := false }

/-- Every pair, ascending. -/
def Shape.all (h : Shape) : List (Nat × Nat) := h.segs.flatten

def Shape.count (h : Shape) : Nat := h.segs.foldl (fun n x => n + x.length) 0

/-- The segment that a coordinate belongs to: the last whose LOW is not above it, or the first (R234). -/
def segOf (segs : List (List (Nat × Nat))) (c : Nat) : Nat :=
  (segs.takeWhile (fun x => match x with | p :: _ => p.1 ≤ c | [] => true)).length - 1

/-- The value stored at a coordinate. -/
def Shape.lookup (h : Shape) (c : Nat) : Option Nat :=
  ((h.segs.getD (segOf h.segs c) []).find? (fun p => p.1 = c)).map (·.2)

/-- Puts a pair into a sorted list, in place of one of the same coordinate. -/
def putPair (c v : Nat) : List (Nat × Nat) → List (Nat × Nat)
  | [] => [(c, v)]
  | p :: ps => if c < p.1 then (c, v) :: p :: ps else if c = p.1 then (c, v) :: ps else p :: putPair c v ps

/-- `n` counts that differ by at most one, the larger first, with sum `total` (R235, R236). -/
def spread (total n : Nat) : List Nat := (List.range n).map (fun i => total / n + if i < total % n then 1 else 0)

/-- The directory that holds entry `i`, and the number of entries before it. -/
def dirOf : List Nat → Nat → Nat → Nat × Nat
  | [], _, _ => (0, 0)
  | [_], _, before => (0, before)
  | n :: rest, i, before =>
    if i < before + n then (0, before) else let r := dirOf rest i (before + n); (r.1 + 1, r.2)

/-- A new entry after entry `i`: the directories, their units (none for one still to be drawn), and the directory units written
(R235). In a split the lower half keeps its unit. -/
def Shape.grow (h : Shape) (dunits : List (Option Nat)) (i : Nat) : Shape × List (Option Nat) × Nat :=
  let total := h.segs.length
  if !h.two && total ≤ 64 then (h, dunits, 0)
  else
    let (dirs, dunits, paid) := if h.two then (h.dirs, dunits, 0) else ([64], [none], 2)
    let (d, before) := dirOf dirs i 0
    if dirs.getD d 0 < 64 then ({ h with dirs := dirs.modify d (· + 1), two := true }, dunits, paid)
    else if dirs.length < 64 then
      let halves := if 32 ≤ i - before then [32, 33] else [33, 32]
      ({ h with dirs := dirs.take d ++ halves ++ dirs.drop (d + 1), two := true },
        dunits.take (d + 1) ++ [none] ++ dunits.drop (d + 1), paid + 3)
    else ({ h with dirs := spread total 64, two := true }, dunits, paid + 65)

/-- The work of a batch on a structure: its segments (each marked when touched), the units of segments and directories (none for
one still to be drawn), touched segments returned, flags, segment splits and directory units written (R156). -/
structure FibWork where
  shape : Shape
  marks : List Bool
  units : List (Option Nat)
  dunits : List (Option Nat)
  gone : Nat
  flags : Nat
  splits : Nat
  dirWrites : Nat
  deriving DecidableEq, Repr

def FibWork.start (h : Shape) (units dunits : List Nat) : FibWork :=
  { shape := h, marks := h.segs.map (fun _ => false), units := units.map some, dunits := dunits.map some, gone := 0, flags := 0, splits := 0, dirWrites := 0 }

/-- Distinct segments touched. -/
def FibWork.touched (w : FibWork) : Nat := w.gone + (w.marks.filter id).length

/-- Stores a pair (R234, R235): into an empty structure, into its segment, or into the half of a split segment. -/
def FibWork.put (w : FibWork) (c v : Nat) : FibWork :=
  let h := w.shape
  if h.segs.isEmpty then
    { w with shape := { h with segs := [[(c, v)]], dirs := if h.two then [1] else [] }, marks := [true], units := [none]
             dunits := if h.two then [none] else [] }
  else
    let i := segOf h.segs c
    let seg := h.segs.getD i []
    if seg.length < 126 || seg.any (fun p => p.1 = c) then
      { w with shape := { h with segs := h.segs.set i (putPair c v seg) }, marks := w.marks.set i true }
    else
      let lo := seg.take 63
      let hi := seg.drop 63
      let inHi : Bool := match hi with | p :: _ => p.1 ≤ c | [] => true
      let two := if inHi then [lo, putPair c v hi] else [putPair c v lo, hi]
      let h := { h with segs := h.segs.take i ++ two ++ h.segs.drop (i + 1) }
      let (h, dunits, paid) := h.grow w.dunits i
      { w with shape := h, marks := w.marks.take i ++ [true, true] ++ w.marks.drop (i + 1), splits := w.splits + 1
               units := w.units.take (i + 1) ++ [none] ++ w.units.drop (i + 1), dunits := dunits
               dirWrites := w.dirWrites + paid }

/-- Removes a pair (R150 PZ, R235): an empty segment is returned, and an empty directory below the root too. -/
def FibWork.remove (w : FibWork) (c : Nat) : FibWork :=
  let h := w.shape
  let i := segOf h.segs c
  let seg := (h.segs.getD i []).filter (fun p => p.1 ≠ c)
  if !seg.isEmpty then { w with shape := { h with segs := h.segs.set i seg }, marks := w.marks.set i true }
  else
    let (d, _) := dirOf h.dirs i 0
    let dirs := h.dirs.modify d (· - 1)
    let bare := h.two && dirs.getD d 1 = 0
    { w with
      shape := { h with segs := dropAt i h.segs, dirs := if bare then dropAt d dirs else dirs }
      marks := dropAt i w.marks, units := dropAt i w.units, dunits := if bare then dropAt d w.dunits else w.dunits, gone := w.gone + 1, dirWrites := w.dirWrites + if bare then 1 else 0 }

/-- The lanes of one coordinate in lane order (R150); mode 0 COMBINE, 1 REPLACE, 2 KEEP. -/
def foldLanes (fmt cop mode : Nat) : List Nat → Option Nat × Nat → Option Nat × Nat
  | [], r => r
  | x :: xs, (none, fl) => foldLanes fmt cop mode xs (some x, fl)
  | x :: xs, (some v, fl) =>
    let q : Res := if mode = 1 then (x, 0) else if mode = 2 then (v, 0) else fibCombine fmt cop v x
    foldLanes fmt cop mode xs (some q.1, fl ||| q.2)

/-- Puts a number into a rising list once. -/
def addOnce (c : Nat) : List Nat → List Nat
  | [] => [c]
  | d :: ds => if c < d then c :: d :: ds else if c = d then d :: ds else d :: addOnce c ds

/-- The loop of R150 on one structure: its lanes already shifted, its coordinates ascending. -/
def applyBatch (fmt cop mode : Nat) (pz : Bool) (lanes : List (Nat × Nat)) (start : FibWork) : FibWork :=
  let coords := lanes.foldl (fun l p => addOnce p.1 l) []
  coords.foldl (fun w c =>
    let w := { w with marks := w.marks.set (segOf w.shape.segs c) true }
    let old := w.shape.lookup c
    let r := foldLanes fmt cop mode ((lanes.filter (fun p => p.1 = c)).map (·.2)) (old, w.flags)
    let w := { w with flags := r.2 }
    let v := r.1.getD 0
    if pz && fibZero fmt v then (if old.isSome then w.remove c else w) else w.put c v) start

/-! ### Coarsening -/

/-- Shifts pairs and combines those that collide, in ascending old order (R151). -/
def coarsePairs (fmt cop step : Nat) : List (Nat × Nat) → Option (Nat × Nat) → List (Nat × Nat) × Nat
  | [], none => ([], 0)
  | [], some p => ([p], 0)
  | (c, v) :: ps, none => coarsePairs fmt cop step ps (some (c / 2 ^ step, v))
  | (c, v) :: ps, some (d, u) =>
    if c / 2 ^ step = d then
      let q := fibCombine fmt cop u v
      let r := coarsePairs fmt cop step ps (some (d, q.1))
      (r.1, r.2 ||| q.2)
    else
      let r := coarsePairs fmt cop step ps (some (c / 2 ^ step, v))
      ((d, u) :: r.1, r.2)

/-- Cuts a list into `k` runs of at most `n`. -/
def chunk {α : Type} (n : Nat) : Nat → List α → List (List α)
  | 0, _ => []
  | k + 1, l => if l.isEmpty then [] else l.take n :: chunk n k (l.drop n)

/-- One coarsening (R236): the rebuilt structure, its cost (R156) and its flags. -/
def Shape.coarsen (h : Shape) (fmt cop step : Nat) (pz : Bool) : Shape × Nat × Nat :=
  let all := h.all
  let (ps, fl) := coarsePairs fmt cop step all none
  let ps := if pz then ps.filter (fun p => !fibZero fmt p.2) else ps
  let segs := chunk 126 (ps.length / 126 + 1) ps
  let n := segs.length
  ({ segs := segs, dirs := if n ≤ 64 then [] else spread n ((n + 63) / 64), two := 64 < n }, 2 * all.length + 16 * n, fl)

/-- Why the engine refuses (R149 to R151, R232, R240): the fault's code and subcode. -/
abbrev FibErr := Nat × Nat

/-- The result of fitting a batch: its work, the coarsenings made, the level reached, their cost and flags. -/
structure Fit where
  work : FibWork
  times : Nat
  level : Nat
  cost : Nat
  flags : Nat
  deriving DecidableEq, Repr

/-- Puts a number into a rising list. -/
def putRising (n : Nat) : List Nat → List Nat
  | [] => [n]
  | m :: ms => if n ≤ m then n :: m :: ms else m :: putRising n ms

/-- The `n` lowest numbers of a list, rising. -/
def lowest (n : Nat) (l : List Nat) : List Nat := (l.foldl (fun r x => putRising x r) []).take n

/-- The least number of coarsenings after which the batch fits, under the policy (R151). `fuel` bounds the coarsenings by
the 31 that LEVEL allows; a rebuilt structure stands in the lowest-numbered units the fibre holds (R236). -/
def fitBatch (h : FibHdr) (mode : Nat) (lanes : List (Nat × Nat)) (segUnits dirUnits : List Nat) :
    Nat → FibWork → Fit → Except FibErr Fit
  | fuel, start, f =>
    let sh := start.shape
    let w := applyBatch h.fmt h.cop mode h.pz (lanes.map (fun p => (p.1 / 2 ^ f.level, p.2))) start
    let plim := if h.plim = 0 then 516096 else h.plim
    let slim := if h.pol = 2 then h.sres else 4096
    let excess := if plim < w.shape.count then 1 else if slim < w.shape.segs.length then 2 else 0
    if excess = 0 then .ok { f with work := w }
    else if h.pol ≠ 1 then .error (0x20, excess)
    else
      match fuel with
      | 0 => .error (0x20, 3)
      | fuel + 1 =>
        if 31 < f.level + h.step then .error (0x20, 3)
        else
          let (sh', c, fl) := sh.coarsen h.fmt h.cop h.step h.pz
          fitBatch h mode lanes segUnits dirUnits fuel
            (FibWork.start sh' (lowest sh'.segs.length segUnits) (lowest sh'.dirs.length dirUnits))
            { f with times := f.times + 1, level := f.level + h.step, cost := f.cost + c, flags := f.flags ||| fl }

/-! ### Pens -/

/-- The units of its home's pen that a fibre holds. -/
def Fibre.units (f : Fibre) : List Nat := f.root :: f.segUnits ++ f.dirUnits ++ f.spareSegs ++ f.spareDirs

/-- The units of its partial home's pen that a partial holds. -/
def FibPart.units (p : FibPart) : List Nat := p.root :: p.segUnits

/-- The size of the pen of a paddock at an edge tile (R232); a tile with no pen has none. -/
def penSize (s : State) (pad pos : Nat) : Nat :=
  match s.eng.pens.find? (fun p => p.pad = pad && p.pos = pos) with
  | some p => p.size
  | none => 0

/-- The units of a pen that fibres and partials hold. -/
def penTaken (s : State) (pad pos : Nat) : List Nat :=
  (s.eng.fibres.filter (fun f => f.pad = pad)).flatMap (fun f =>
    (if (homeOf f.key).getD 0xFFFF = pos then f.units else []) ++ (f.parts.filter (fun p => p.pos = pos)).flatMap (·.units))

/-- Free units of a pen (R232). -/
def penFree (s : State) (pad pos : Nat) : Nat := penSize s pad pos - (penTaken s pad pos).length

/-- Draws `n` units of a pen beside those taken: the spec does not say which of the free ones (log 14). -/
def drawUnits (size : Nat) : Nat → List Nat → State → List Nat × State
  | 0, _, s => ([], s)
  | n + 1, taken, s =>
    let free := (List.range size).filter (fun u => !taken.contains u)
    let (d, s) := s.draw
    let u := free.getD (Config.victim d % free.length) 0
    let r := drawUnits size n (u :: taken) s
    (u :: r.1, r.2)

/-- Gives each structure without a unit the next of a list of units. -/
def giveUnits : List (Option Nat) → List Nat → List Nat
  | [], _ => []
  | some u :: rest, l => u :: giveUnits rest l
  | none :: rest, u :: l => u :: giveUnits rest l
  | none :: rest, [] => 0 :: giveUnits rest []

/-- The units held that no structure keeps. -/
def idleUnits (want : List (Option Nat)) (held : List Nat) : List Nat := held.filter (fun u => !want.contains (some u))

/-- The units to be drawn beside those held. -/
def unitsWanted (want : List (Option Nat)) (held : List Nat) : Nat := (want.filter (·.isNone)).length - (idleUnits want held).length

/-- The units that structures take, first those held and not in use, then drawn ones; and what stays reserved. -/
def settleUnits (want : List (Option Nat)) (held : List Nat) (reserve : Nat) (drawn : List Nat) : List Nat × List Nat :=
  let idle := idleUnits want held
  (giveUnits want (idle ++ drawn), (idle.drop (want.filter (·.isNone)).length).take (reserve - want.length))

/-- The units held that stay with the fibre: those in use and those still reserved. -/
def keptUnits (want : List (Option Nat)) (held : List Nat) (reserve : Nat) : List Nat :=
  let r := settleUnits want held reserve []
  held.filter (fun u => want.contains (some u)) ++ (idleUnits want held).take (want.filter (·.isNone)).length ++ r.2

/-- The directories of a FNEW with SRES segments, the root included (R235). -/
def reservedDirs (sres : Nat) : Nat := if sres ≤ 64 then 1 else 1 + min 64 ((sres + 31) / 32)

/-- The units a fibre holds of its pen: its segments or their reservation, its directories or theirs, the root (R235). -/
def unitsHeld (sres : Nat) (h : Shape) : Nat := max sres h.segs.length + max (reservedDirs sres) (1 + h.dirs.length)

/-! ### Fibres of State -/

/-- Keeps the storage of a fibre. -/
def State.putFibre (s : State) (f : Fibre) : State :=
  { s with eng := { s.eng with fibres := upsert (fun x => x.key = f.key) f s.eng.fibres } }

def State.fibre? (s : State) (k : Nat) : Option Fibre := s.eng.fibres.find? (fun f => f.key = k)

/-- The edge tile that homes a header. -/
def fibHome (k : Nat) : Nat := (homeOf k).getD 0xFFFF

/-- Writes a fibre back: its header record in memory and its storage. -/
def State.setFibre (s : State) (f : Fibre) (h : FibHdr) : State :=
  let h := { h with two := f.shape.two, pairs := f.shape.count, segs := f.shape.segs.length }
  (s.homeWrite f.key h.bytes).putFibre f

/-- The units that the engine reads to reach coordinates (R234): the root, and the directory and segment of each. -/
def unitsReached (sh : Shape) (root : Nat) (segUnits dirUnits : List Nat) (cs : List Nat) : List Nat :=
  root :: (if sh.segs.isEmpty then [] else cs.flatMap (fun c =>
    let i := segOf sh.segs c
    (if sh.two then [dirUnits.getD (dirOf sh.dirs i 0).1 0] else []) ++ [segUnits.getD i 0]))

/-- A fibre's structure holds a poisoned unit that a read of some coordinates meets (R348). -/
def Fibre.meetsBad (f : Fibre) (cs : List Nat) : Bool :=
  !f.bad.isEmpty && (unitsReached f.shape f.root f.segUnits f.dirUnits cs).any f.bad.contains

/-- The engine reads a poisoned segment, directory or header (R348). -/
def poisonErr : FibErr := (0x16, 6)

/-- A batch at the home (R150, R151, R232); `counted` is false for one pair of a fold, which R156 charges by its own row. Where the batch
changes the number of directory levels, the l of its charge is the number after it. Log 46. -/
def homeBatch (s : State) (f : Fibre) (h : FibHdr) (mode : Nat) (lanes : List (Nat × Nat)) (counted : Bool) :
    Except FibErr (State × Fibre × FibHdr × Nat) :=
  let segUnits := f.segUnits ++ f.spareSegs
  let dirUnits := f.dirUnits ++ f.spareDirs
  let start := FibWork.start f.shape f.segUnits f.dirUnits
  if f.meetsBad (lanes.map (fun p => p.1 / 2 ^ h.level)) then .error poisonErr
  else
  match fitBatch h mode lanes segUnits dirUnits 31 start { work := start, times := 0, level := h.level, cost := 0, flags := 0 } with
  | .error e => .error e
  | .ok fit =>
    let held := unitsHeld h.sres fit.work.shape
    let free := penFree s f.pad (fibHome f.key)
    let newSegs := unitsWanted fit.work.units segUnits
    let newDirs := unitsWanted fit.work.dunits dirUnits
    if fit.times ≠ 0 ∧ !f.bad.isEmpty then .error poisonErr
    else if newSegs + newDirs ≠ 0 ∧ free + f.units.length < held + 1 then .error (0x21, 0)
    else
      -- a batch may draw what it returns itself
      let kept := f.root :: (keptUnits fit.work.units segUnits h.sres ++ keptUnits fit.work.dunits dirUnits (reservedDirs h.sres - 1))
      let taken := (penTaken s f.pad (fibHome f.key)).filter (fun u => !f.units.contains u || kept.contains u)
      let (drawn, s) := drawUnits (penSize s f.pad (fibHome f.key)) (newSegs + newDirs) taken s
      let segs := settleUnits fit.work.units segUnits h.sres (drawn.take newSegs)
      let dirs := settleUnits fit.work.dunits dirUnits (reservedDirs h.sres - 1) (drawn.drop newSegs)
      let f := { f with shape := fit.work.shape, segUnits := segs.1, spareSegs := segs.2, dirUnits := dirs.1, spareDirs := dirs.2 }
      let f := { f with bad := f.bad.filter (fun u => f.root = u || f.segUnits.contains u || f.dirUnits.contains u) }
      let l := if fit.work.shape.two then 2 else 1
      let cost := fit.cost + (if counted then 8 + 2 * l + 10 * fit.work.touched else 0) +
        24 * (fit.work.splits + fit.work.dirWrites)
      let h := { h with level := fit.level, ncrs := (h.ncrs + fit.times) % 2 ^ 16, ver := (h.ver + fit.times) % 2 ^ 32
                        nspl := (h.nspl + fit.work.splits) % 2 ^ 32, two := fit.work.shape.two }
      .ok (s.putFibre f, f, h.charge cost, fit.flags ||| fit.work.flags)

/-- A batch at the partial of a die (R237, R238): a one-level structure without PZ, level or capacity check; none when it
needs a 65th segment or a unit the pen cannot give. An error when it meets a poisoned unit (R348). -/
def partialBatch (s : State) (f : Fibre) (h : FibHdr) (die : Nat) (lanes : List (Nat × Nat)) :
    Except FibErr (Option (State × Fibre × FibHdr × Nat)) :=
  match partialHome s f.pad (fibHome f.key) die f.handle with
  | none => .ok none
  | some pos =>
    let old : FibPart := (f.parts.find? (fun p => p.die = die)).getD { die := die, pos := pos, segs := [], root := 0, segUnits := [], bad := [] }
    let fresh := f.parts.all (fun p => p.die ≠ die)
    let sh : Shape := { segs := old.segs, dirs := [], two := false }
    let w := applyBatch h.fmt h.cop 0 false lanes (FibWork.start sh old.segUnits [])
    let need := (if fresh then 1 else 0) + w.shape.segs.length - old.segs.length
    if (unitsReached sh old.root old.segUnits [] (lanes.map (·.1))).any old.bad.contains then .error poisonErr
    else if w.shape.two ∨ (need ≠ 0 ∧ penFree s f.pad old.pos < need + 1) then .ok none
    else
      let (drawn, s) := drawUnits (penSize s f.pad old.pos) need (penTaken s f.pad old.pos) s
      let (root, drawn) := if fresh then (drawn.getD 0 0, drawn.drop 1) else (old.root, drawn)
      let part : FibPart := { old with segs := w.shape.segs, root := root, segUnits := giveUnits w.units drawn }
      let h := { h with pdie := h.pdie ||| 2 ^ die }
      let f := { f with parts := upsert (fun p => p.die = die) part f.parts }
      .ok (some (s.putFibre f, f, h.charge (8 + 2 + 10 * w.touched + 24 * w.splits), w.flags))

/-- Applies the pairs of a fold one by one (R239, R240): the flags, and the pairs left at the first that does not fit. -/
def foldPairs : List (Nat × Nat) → State → Fibre → FibHdr → Nat → State × Fibre × FibHdr × Nat × Option (FibErr × Nat)
  | [], s, f, h, fl => (s, f, h, fl, none)
  | p :: ps, s, f, h, fl =>
    match homeBatch s f h 0 [p] false with
    | .ok (s, f, h, fl') => foldPairs ps s f h (fl ||| fl')
    | .error e => (s, f, h, fl, some (if e.1 = 0x20 then (0x20, 4) else e, ps.length + 1))

/-- Folds a fibre (R239, R240). A fold that does not fit discards its rest and counts it as fold loss. The partials' units return
to their pens. -/
def foldFibre (s : State) (f : Fibre) (h : FibHdr) : State × Fibre × FibHdr × Nat × Option FibErr :=
  if h.pdie = 0 then (s, f, h, 0, none)
  else
    let dies := (List.range 4).filter (fun d => h.pdie / 2 ^ d % 2 = 1)
    let ps := dies.flatMap (fun d => match f.parts.find? (fun p => p.die = d) with | some p => p.segs.flatten | none => [])
    let f := { f with parts := [] }
    let s := s.putFibre f
    let h := { h with pdie := 0, nfld := (h.nfld + 1) % 2 ^ 16, ver := (h.ver + 1) % 2 ^ 32 }
    let h := h.charge (20 * dies.length + 4 * ps.length)
    match foldPairs ps s f h 0 with
    | (s, f, h, fl, none) => (s, f, h, fl, none)
    | (s, f, h, fl, some (e, left)) =>
      (s.mapPad f.pad (fun p => { p with foldLoss := p.foldLoss + left }), f, h, fl, some e)

/-! ### Operations -/

/-- The answer of a fibre operation: the state, the result token's value and flags; or a refusal, which may still have folded, with
the flags of what was folded. -/
abbrev FibOut (α : Type) := State × Except (FibErr × Nat) (α × Nat)

/-- A refusal that has done nothing. -/
def fibRefuse {α : Type} (s : State) (code sub : Nat) : FibOut α := (s, .error ((code, sub), 0))

/-- FNEW (R149, R235, R348): the checks, then the header's engine fields at their resets and the reservation taken. A live header with
bad fields raises FFMT subcode 2: R149 gives the two no order. Log 46. -/
def fibNew (s : State) (pad k handle : Nat) (b : Word) : FibOut Word :=
  let raw := fun o => s.read (k + o) 1
  let h := readHdr s k
  let plim := b.toNat % 2 ^ 32
  let sres := bits b.toNat 47 32
  if (s.fibre? k).isSome then fibRefuse s 0x22 2
  else if s.poisoned k 64 then fibRefuse s 0x16 6
  else if !([0, 1, 2, 11, 12].contains h.fmt) || 5 < h.cop || (h.cop = 3 && h.fmt ≤ 2) || h.pol = 3 || h.step = 0 || 4 < h.step
      || 16 ≤ raw 0 || 32 ≤ raw 1 || 32 ≤ raw 2 || b.toNat / 2 ^ 48 ≠ 0 || 516096 < plim || 4096 < sres
      || (h.pol = 2 && sres = 0) then fibRefuse s 0x22 1
  else
    let need := sres + reservedDirs sres
    let free := penFree s pad (fibHome k)
    if free < need then fibRefuse s 0x21 0
    else
      let (drawn, s) := drawUnits (penSize s pad (fibHome k)) need (penTaken s pad (fibHome k)) s
      let root := drawn.getD 0 0
      let h : FibHdr := { h with
        sealed_ := false, two := false, live := true, level := 0, pdie := 0, pairs := 0, plim := plim, segs := 0, sres := sres
        ver := 0, nspl := 0, root := root, nmrg := 0, ncrs := 0, nfld := 0, ecyc := 16 + sres }
      (s.setFibre { key := k, handle := handle, pad := pad, shape := Shape.empty, parts := [], root := root, segUnits := []
                    dirUnits := [], spareSegs := (drawn.drop 1).take sres, spareDirs := (drawn.drop 1).drop sres, bad := [] } h, .ok (0, 0))

/-- FSTAT's counters (R149). -/
def fibCounter (h : FibHdr) (n : Nat) : Nat :=
  [h.nmrg, h.nspl, h.ncrs, h.nfld, h.ecyc, h.pairs, h.segs, h.level].getD n 0

/-- An operation on a live fibre whose header is not poisoned (R149, R150, R152, R153, R348). -/
def withFibre {α : Type} (s : State) (k : Nat) (op : Fibre → FibHdr → FibOut α) : FibOut α :=
  match s.fibre? k with
  | none => fibRefuse s 0x22 3
  | some f => if s.poisoned k 64 then fibRefuse s 0x16 6 else op f (readHdr s k)

/-- A fold meets a poisoned unit: of a partial, or of the home on the way to a pair (R348). -/
def foldMeetsBad (f : Fibre) (h : FibHdr) : Bool :=
  f.parts.any (fun p => h.pdie / 2 ^ p.die % 2 = 1 &&
    (!p.bad.isEmpty || f.meetsBad (p.segs.flatten.map (fun x => x.1 / 2 ^ h.level))))

/-- An operation that folds first (R239) and reads the units it names; after a fold that does not fit it is not performed (R240);
one that meets a poisoned unit changes nothing (R348). -/
def afterFold {α : Type} (s : State) (k : Nat) (reads : Fibre → FibHdr → List Nat) (op : State → Fibre → FibHdr → State × α) :
    FibOut α :=
  withFibre s k (fun f h =>
    if foldMeetsBad f h then fibRefuse s 0x16 6
    else
      match foldFibre s f h with
      | (s', f, h, fl, some e) => if e = poisonErr then fibRefuse s 0x16 6 else (s'.setFibre f h, .error (e, fl))
      | (s', f, h, fl, none) =>
        if (reads f h).any f.bad.contains then fibRefuse s 0x16 6
        else let r := op s' f h; (r.1, .ok (r.2, fl)))

/-- FMGT operations 1 to 6 (R149). What FCLR removes is the header's PAIRS, and FSTAT's ECYC is that before its own charge. Log 53. -/
def fibManage (s : State) (op k : Nat) (b : Word) : FibOut Word :=
  match op with
  | 1 => withFibre s k (fun f h =>
      let h := { h.charge (16 + h.segs) with sealed_ := false, two := false, live := false, pdie := 0 }
      let s := s.homeWrite k h.bytes
      ({ s with eng := { s.eng with fibres := s.eng.fibres.filter (fun x => x.key ≠ k) } },
        .ok (BitVec.ofNat 64 f.shape.segs.length, 0)))
  | 2 => withFibre s k (fun f h =>
      let g := { f with shape := Shape.empty, parts := [], segUnits := [], dirUnits := []
                        spareSegs := (f.segUnits ++ f.spareSegs).take h.sres
                        spareDirs := (f.dirUnits ++ f.spareDirs).take (reservedDirs h.sres - 1), bad := [] }
      let h := { h.charge (16 + h.segs) with level := 0, pdie := 0, ver := (h.ver + 1) % 2 ^ 32 }
      (s.setFibre g h, .ok (BitVec.ofNat 64 h.pairs, 0)))
  | 3 => afterFold s k (fun _ _ => []) (fun s f h => (s.setFibre f (h.charge 4), BitVec.ofNat 64 f.shape.count))
  | 4 => afterFold s k (fun _ _ => []) (fun s f h => (s.setFibre f { h.charge 4 with sealed_ := true }, BitVec.ofNat 64 f.shape.count))
  | 5 => withFibre s k (fun f h => (s.setFibre f { h.charge 4 with sealed_ := false }, .ok (0, 0)))
  | _ => withFibre s k (fun f h => (s.setFibre f (h.charge 4), .ok (BitVec.ofNat 64 (fibCounter h b.toNat), 0)))

/-- A merge batch from a die (R150): to the die's partial when R150 sends it there and R238 keeps it, else to the home. It answers
whether the batch was applied at the home. A batch of sentinels alone is charged the home's directory levels, wherever it goes. Log 53. -/
def fibMerge (s : State) (k die mode : Nat) (lanes : List (Nat × Nat)) : FibOut Bool :=
  withFibre s k (fun f h =>
    if h.sealed_ then fibRefuse s 0x23 0
    else
      let cut := fun v => if h.fmt = 1 ∨ h.fmt = 2 then v % 2 ^ 16 else v
      let lanes := (lanes.filter (fun p => p.1 ≠ sentinel)).map (fun p => (p.1, cut p.2))
      let away := die ≠ dieOf (fibHome k) && mode = 0 && h.cop ≤ 3 && !h.home
      if lanes.isEmpty then (s.setFibre f (h.charge (8 + 2 * h.levels)), .ok (!away, 0))
      else
        match (if away then partialBatch s f h die lanes else .ok none) with
        | .error e => fibRefuse s e.1 e.2
        | .ok (some (s, f, h, fl)) => (s.setFibre f h, .ok (false, fl))
        | .ok none =>
          match homeBatch s f h mode lanes true with
          | .error e => fibRefuse s e.1 e.2
          | .ok (s, f, h, fl) =>
            (s.setFibre f { h with nmrg := (h.nmrg + 1) % 2 ^ 32, ver := (h.ver + 1) % 2 ^ 32 }, .ok (true, fl)))

/-- One lookup (R152): a sentinel misses. -/
def fibLookup (f : Fibre) (h : FibHdr) (c : Nat) : Option Nat :=
  if c = sentinel then none else f.shape.lookup (c / 2 ^ h.level)

/-- The units that lookups of coordinates read; a sentinel reads none. -/
def lookupUnits (cs : List Nat) (f : Fibre) (h : FibHdr) : List Nat :=
  unitsReached f.shape f.root f.segUnits f.dirUnits ((cs.filter (fun c => c ≠ sentinel)).map (fun c => c / 2 ^ h.level))

/-- The units that a read of `n` pairs in order from a coordinate on reads. -/
def scanUnits (lo n : Nat) (f : Fibre) (_h : FibHdr) : List Nat :=
  unitsReached f.shape f.root f.segUnits f.dirUnits (lo :: ((f.shape.all.filter (fun p => lo ≤ p.1)).take n).map (·.1))

/-- FPRB (R152). -/
def fibProbe (s : State) (k : Nat) (b : Word) : FibOut Word :=
  afterFold s k (lookupUnits [b.toNat % 2 ^ 32]) (fun s f h =>
    (s.setFibre f (h.charge (6 + 2 * h.levels)),
      match fibLookup f h (b.toNat % 2 ^ 32) with
      | some v => BitVec.ofNat 64 (2 ^ 63 + v)
      | none => BitVec.ofNat 64 h.absent))

/-- VFPRB and VFHIT (R152): 16 lookups after one fold. -/
def fibProbes (s : State) (k : Nat) (hit : Bool) (b : Vec) : FibOut Vec :=
  afterFold s k (lookupUnits (lanes 32 b)) (fun s f h =>
    let cs := lanes 32 b
    let real := cs.filter (fun c => c ≠ sentinel && !f.shape.segs.isEmpty)
    let segs := (real.foldl (fun l c => addOnce (segOf f.shape.segs (c / 2 ^ h.level)) l) []).length
    (s.setFibre f (h.charge (6 + 2 * h.levels + 2 * segs)),
      pack 32 (cs.map (fun c =>
        match fibLookup f h c with
        | some v => if hit then 2 ^ 32 - 1 else v
        | none => if hit then 0 else h.absent))))

/-- VFRD (R153): the first eight pairs at or above the whole 64-bit cursor. -/
def fibRead (s : State) (k : Nat) (b : Word) : FibOut Vec :=
  afterFold s k (scanUnits b.toNat 8) (fun s f h =>
    (s.setFibre f (h.charge (10 + 2 * h.levels)),
      packPairs (if sentinel ≤ b.toNat then [] else (f.shape.all.filter (fun p => b.toNat ≤ p.1)).take 8)))

/-- The pairs of one ring slot of a scan (R155, R156). -/
def fibScan (s : State) (k lo hi n : Nat) : FibOut (List (Nat × Nat)) :=
  afterFold s k (scanUnits lo n) (fun s f h =>
    let ps := (f.shape.all.filter (fun p => lo ≤ p.1 && p.1 ≤ hi)).take n
    (s.setFibre f (h.charge (8 + ps.length)), ps))

/-! ### Units as bytes -/

/-- The 1 KiB of a segment (R233): its pairs, and the unit of the next one. -/
def segBytes (ps : List (Nat × Nat)) (next : Nat) : List Byte :=
  let ends : Nat × Nat := match ps with | [] => (sentinel, sentinel) | p :: _ => (p.1, ((ps.getLast?).getD p).1)
  toBytes 2 ps.length ++ toBytes 2 0 ++ toBytes 4 ends.1 ++ toBytes 4 ends.2 ++ toBytes 4 next ++
  ((List.range 126).map (fun i => ps.getD i (sentinel, 0))).flatMap (fun p => toBytes 4 p.1 ++ toBytes 4 p.2)

/-- The 1 KiB of a directory (R233): an entry for each run of pairs below it, with the unit that holds them. -/
def dirBytes (entries : List (List (Nat × Nat) × Nat)) : List Byte :=
  (List.range 64).flatMap (fun e =>
    match entries[e]? with
    | some (p :: ps, u) => toBytes 4 p.1 ++ toBytes 4 ((ps.getLast?).getD p).1 ++ toBytes 4 u ++ toBytes 4 (ps.length + 1)
    | _ => toBytes 4 sentinel ++ toBytes 4 sentinel ++ toBytes 4 sentinel ++ toBytes 4 0)

/-- Cuts a list into runs of the lengths of another. -/
def cut {α : Type} : List Nat → List α → List (List α)
  | [], _ => []
  | n :: ns, l => l.take n :: cut ns (l.drop n)

/-- What a unit of the home's pen holds for a fibre (R233): a segment, a directory below the root, or the root. -/
def Fibre.unitBytes (f : Fibre) (u : Nat) : Option (List Byte) :=
  let segs := f.shape.segs.zip f.segUnits
  let dirs : List (List (List (Nat × Nat) × Nat)) := cut f.shape.dirs segs
  match segs.zipIdx.find? (fun x => x.1.2 = u), (dirs.zip f.dirUnits).find? (fun x => x.2 = u) with
  | some (x, i), _ => some (segBytes x.1 ((f.segUnits[i + 1]?).getD sentinel))
  | none, some x => some (dirBytes x.1)
  | none, none =>
    if u = f.root then
      some (dirBytes (if f.shape.two then (dirs.zip f.dirUnits).map (fun x => ((x.1.map (·.1)).flatten, x.2)) else segs))
    else none

end Sys2Proof.Machine
end

