-- ==== Sys2Proof/Machine/MemOps.lean ====
section
/-! DEFINITION. Memory instructions: joining the wave chain (R30 to R34), the checks of R137 at issue, the request queue of a
task and how its requests are performed (R242 to R247), fences (R147), page misses (R340, R341), and the events of memory. -/

namespace Sys2Proof.Machine

/-! ### The wave chain -/

/-- The links of an operation as edges between places: the start is 0, slot k is k + 1, the end is m + 1 (R30). -/
def opEdges (m q p d : Nat) : List (Nat × Nat) :=
  (if p = 0 then [] else [(q + 1 - p, q + 1)]) ++ (if d = 0 then [] else [(q + 1, min (q + 1 + d) (m + 1))])

def Frame.edges (f : Frame) : List (Nat × Nat) := f.chain.flatMap (fun o => opEdges f.m o.q o.p o.d)

/-- The WAVE subcode of an operation that joins (R34). -/
def joinFault (f : Frame) (q p d : Nat) : Option Nat :=
  if f.m ≤ q then some 1
  else if f.chain.any (fun o => o.q = q) then some 2
  else if (q = 0 && p ≠ 1) || (0 < q && q < p) then some 3
  else if (opEdges f.m q p d).any (fun e => f.edges.any (fun x => e ≠ x && (e.1 = x.1 || e.2 = x.2))) then some 4
  else none

/-- The place that follows a place, if a link names it. -/
def Frame.after (f : Frame) (n : Nat) : Option Nat := (f.edges.find? (fun e => e.1 = n)).map (·.2)

/-- The operations of the chain in order from a place, and whether it reaches the block's end. -/
def Frame.walk (f : Frame) : Nat → Nat → List MemOp × Bool
  | 0, _ => ([], false)
  | fuel + 1, n =>
    match f.after n with
    | none => ([], false)
    | some k =>
      if k = f.m + 1 then ([], true)
      else
        match f.chain.find? (fun o => o.q + 1 = k) with
        | none => ([], false)
        | some o => let r := f.walk fuel k; (o :: r.1, r.2)

/-- The chain is closed (R32): it runs from start to end through every joined operation. A block without memory slots has
a closed chain. -/
def Frame.closed (f : Frame) : Bool :=
  f.m = 0 || (let r := f.walk (f.m + 2) 0; r.2 && r.1.length = f.chain.length)

def MemOp.resolved (o : MemOp) : Bool := o.st = .issued || o.st = .nulled

/-- The slots that have not joined are skipped: the chain is closed, with the exit and the outputs there (R32). -/
def Frame.skips (f : Frame) : Bool := f.closed && f.exit.isSome && f.outs = f.w

/-- Condition 3 of R25: every memory slot has resolved as issued, nulled or skipped. -/
def Frame.slotsResolved (f : Frame) : Bool := f.chain.all MemOp.resolved && (f.chain.length = f.m || f.skips)

/-- A block goes on to a later cycle: from then on its skipped slots take nothing (R32). -/
def Frame.shutBy (f : Frame) (now : Nat) : Frame := if f.till < now then { f with shut := f.shut || f.skips } else f

/-- An operation that fires after the cycle in which the slots that had not joined were skipped does nothing (R32); one that fires in
that cycle joins, as R65 has what fires in the cycle of completion come first. Log 33. -/
def Frame.leftover (f : Frame) : Bool := f.shut

/-- The next operation to issue: the first in chain order that has not resolved, when it waits for nothing else (R31). -/
def Frame.nextOp (f : Frame) : Option MemOp :=
  match ((f.walk (f.m + 2) 0).1.dropWhile MemOp.resolved) with
  | o :: _ => if o.st = .waiting then some o else none
  | [] => none

def Frame.setOp (f : Frame) (q : Nat) (st : OpSt) : Frame :=
  { f with chain := f.chain.map (fun o => if o.q = q then { o with st := st } else o) }

/-- A fired memory instruction joins the chain (R31). -/
def Frame.join (f : Frame) (i : Instr) (idx : Nat) (x : Ins) (st : OpSt) : Except Raise Frame :=
  match i.link with
  | none => .ok f
  | some (q, p, d) =>
    match joinFault f q p d with
    | some sub => .error { code := 0x07, sub := sub, idx := idx }
    | none => .ok { f with chain := f.chain ++ [{ q := q, p := p, d := d, idx := idx, a := x.a, b := x.b, c := x.c, st := st }] }

/-! ### What an instruction accesses -/

/-- The accesses of a memory instruction: virtual addresses in lane order (none for an inactive lane), size in bytes, the
ALIGN subcode, whether only paddock memory is allowed, whether it reads and writes (R135 to R145, R339). -/
structure MemForm where
  addrs : List (Option Nat)
  size : Nat
  align : Nat
  paddock : Bool
  rd : Bool
  wr : Bool
  deriving DecidableEq, Repr

/-- The address of a scalar or vector access (R139 to R141). -/
def offAddr {n : Nat} (a : Word) (o : BitVec n) (size : Nat) : Nat := (a + o.signExtend 64 * BitVec.ofNat 64 size).toNat

def loadForm {n : Nat} (a : Word) (o : BitVec n) (size align : Nat) : MemForm :=
  { addrs := [some (offAddr a o size)], size := size, align := align, paddock := false, rd := true, wr := false }

def storeForm {n : Nat} (a : Word) (o : BitVec n) (size align : Nat) : MemForm :=
  { addrs := [some (offAddr a o size)], size := size, align := align, paddock := false, rd := false, wr := true }

/-- The lane addresses of VLDS and VSTS (R142). -/
def strideForm (w : Nat) (a b : Word) (rd : Bool) : MemForm :=
  let size := 2 ^ w
  { addrs := (List.range (64 / size)).map (fun i => some (a + BitVec.ofNat 64 i * b).toNat), size := size, align := 3
    paddock := false, rd := rd, wr := !rd }

/-- The lane addresses of VGATH and VSCAT (R143). -/
def gatherForm (a : Word) (b : Vec) (rd : Bool) : MemForm :=
  { addrs := (lanes 32 b).map (fun o => if o = 2 ^ 31 then none else some (a + sext 32 o).toNat), size := 4, align := 3
    paddock := false, rd := rd, wr := !rd }

/-- A fibre handle (R135, R136). -/
def fibreForm (a : Word) (rd wr : Bool) : MemForm :=
  { addrs := [some a.toNat], size := 64, align := 4, paddock := true, rd := rd, wr := wr }

def atomicForm (a : Word) (z : Nat) (rd : Bool) : MemForm :=
  { addrs := [some a.toNat], size := if z = 0 then 4 else 8, align := 1, paddock := false, rd := rd, wr := true }

/-- The accesses of each memory instruction. FCNT and FSTAT need read permission, the other operations of FMGT write permission. Log
53. -/
def memForm (i : Instr) (a b : Tok) : Option MemForm :=
  match i with
  | .ldb _ _ _ o _ | .ldbz _ _ _ o _ => some (loadForm a.word o 1 1)
  | .ldh _ _ _ o _ | .ldhz _ _ _ o _ => some (loadForm a.word o 2 1)
  | .ldw _ _ _ o _ | .ldwz _ _ _ o _ => some (loadForm a.word o 4 1)
  | .ldd _ _ _ o _ => some (loadForm a.word o 8 1)
  | .stb _ _ _ o => some (storeForm a.word o 1 1)
  | .sth _ _ _ o => some (storeForm a.word o 2 1)
  | .stw _ _ _ o => some (storeForm a.word o 4 1)
  | .std _ _ _ o => some (storeForm a.word o 8 1)
  | .vld _ _ _ o _ => some (loadForm a.word o 64 2)
  | .vst _ _ _ o => some (storeForm a.word o 64 2)
  | .vlds _ _ _ w _ => some (strideForm w.toNat a.word b.word true)
  | .vsts _ _ _ w => some (strideForm w.toNat a.word b.word false)
  | .vgath _ _ _ _ => some (gatherForm a.word b.vec true)
  | .vscat _ _ _ => some (gatherForm a.word b.vec false)
  | .amo _ _ _ _ z _ _ | .amoCas _ _ _ z _ _ | .amod _ _ _ _ z => some (atomicForm a.word z.toNat true)
  | .red _ _ _ _ z _ => some (atomicForm a.word z.toNat false)
  | .fprb _ _ _ _ | .vfrd _ _ _ _ | .vfprb _ _ _ _ | .vfhit _ _ _ _ | .fcnt _ _ _ _ | .fstat _ _ _ _ =>
    some (fibreForm a.word true false)
  | .fins _ _ _ _ | .vfmrg _ _ _ _ | .fnew _ _ _ _ | .fdel _ _ _ _ | .fclr _ _ _ _ | .fseal _ _ _ _ | .funseal _ _ _ _ =>
    some (fibreForm a.word false true)
  | _ => none

/-- Loads and fibre reads answer with LOAD_RESPONSE, the others with STORE_PERFORMED. -/
def readsMem (i : Instr) : Bool :=
  match i with
  | .ldb _ _ _ _ _ | .ldbz _ _ _ _ _ | .ldh _ _ _ _ _ | .ldhz _ _ _ _ _ | .ldw _ _ _ _ _ | .ldwz _ _ _ _ _ | .ldd _ _ _ _ _
  | .vld _ _ _ _ _ | .vlds _ _ _ _ _ | .vgath _ _ _ _ | .fprb _ _ _ _ | .vfrd _ _ _ _ | .vfprb _ _ _ _ | .vfhit _ _ _ _ => true
  | _ => false

/-- Fibre operations: their slot resolves only with the engine's answer (R150). -/
def isFibre (i : Instr) : Bool :=
  match i with
  | .fprb _ _ _ _ | .vfrd _ _ _ _ | .vfprb _ _ _ _ | .vfhit _ _ _ _ | .fcnt _ _ _ _ | .fstat _ _ _ _ | .fins _ _ _ _
  | .vfmrg _ _ _ _ | .fnew _ _ _ _ | .fdel _ _ _ _ | .fclr _ _ _ _ | .fseal _ _ _ _ | .funseal _ _ _ _ => true
  | _ => false

/-- The result of a load from the lanes it read (R139, R141 to R143). -/
def loadValue (i : Instr) (got : List Nat) : Tok :=
  let v := got.getD 0 0
  match i with
  | .ldb _ _ _ _ _ => scalar (sext 8 v)
  | .ldh _ _ _ _ _ => scalar (sext 16 v)
  | .ldw _ _ _ _ _ => scalar (sext 32 v)
  | .vld _ _ _ _ _ => vector (BitVec.ofNat 512 v)
  | .vlds _ _ _ w _ => vector (pack (laneWidth w.toNat) got)
  | .vgath _ _ _ _ => vector (pack 32 got)
  | _ => scalar (BitVec.ofNat 64 v)

/-- The bytes that lane `n` of a store writes (R140 to R143). -/
def storeBytes (i : Instr) (b c : Tok) (n : Nat) : List Byte :=
  match i with
  | .stb _ _ _ _ => toBytes 1 b.word.toNat
  | .sth _ _ _ _ => toBytes 2 b.word.toNat
  | .stw _ _ _ _ => toBytes 4 b.word.toNat
  | .std _ _ _ _ => toBytes 8 b.word.toNat
  | .vst _ _ _ _ => toBytes 64 b.vec.toNat
  | .vsts _ _ _ w => toBytes (2 ^ w.toNat) (lane (laneWidth w.toNat) c.vec n)
  | _ => toBytes 4 (lane 32 c.vec n)

/-! ### Checks -/

/-- How the checks of R137 end. -/
inductive Checked where
  | ok (keys : List (Option Nat))
  /-- the bank is switching (R219) -/
  | wait
  | miss (va : Nat) (wr host : Bool)
  | bad (code sub extra addr : Nat)
  /-- dropped at a hurdle (R370) -/
  | lost
  deriving DecidableEq, Repr

/-- A BMODE of the cluster that fired before a given cycle and place still waits on a bank (R219): of one cycle, the PEs of the
cluster go in their order. -/
def bankAsked (s : State) (cluster num : Nat) (before : Nat × Nat → Bool) : Bool :=
  s.cores.tasks.any (fun t => clusterOf t.pos = cluster && (match t.frame with
    | some f => f.waits.any (fun w => match w.kind with
      | .bank n since => n = num && before (since, inCluster t.pos)
      | _ => false)
    | none => false))

/-- Whether a bank of a cluster is switching, or a BMODE waits on it: one that waits goes before any other (R219). -/
def State.bankBusy (s : State) (cluster num : Nat) : Bool :=
  s.mem.banks.any (fun b => b.cluster = cluster && b.num = num && b.switching.isSome) || bankAsked s cluster num (fun _ => true)

/-- R135 to R339 for one address of a task. -/
def checkAddr (s : State) (t : Task) (m : MemForm) (va : Nat) : State × Checked :=
  let top := va / 2 ^ 56
  let cl := clusterOf t.pos
  if top = 0xFE then
    if m.paddock then (s, .bad 0x12 6 0 va)
    else if bits va 55 20 ≠ 0 then (s, .bad 0x12 2 0 va)
    else if s.bankBusy cl (bits va 19 15) then (s, .wait)
    else if s.bankMode cl (bits va 19 15) ≠ 1 then (s, .bad 0x12 2 0 va)
    else if va % m.size ≠ 0 then (s, .bad 0x10 m.align 0 va)
    else (s, .ok [some (windowKey cl (va % 2 ^ 20))])
  else if top ≠ 0 then (s, .bad 0x12 1 0 va)
  else if va % m.size ≠ 0 then (s, .bad 0x10 m.align 0 va)
  else
    match translate s t.part.toNat t.ten.toNat (some t.cid) none va m.rd m.wr with
    | (s, .ok k _) => (s, .ok [some k])
    | (s, .miss host) => (s, .miss va m.wr host)
    | (s, .fault c sub e) => (s, .bad c sub e va)
    | (s, .dropped) => (s.mapPad t.part.toNat (fun p => { p with pdrop := (p.pdrop + 1) % 2 ^ 32 }), .lost)

/-- Every address of an instruction is checked before any is used (R142, R143). -/
def checkAddrs (s : State) (t : Task) (m : MemForm) : List (Option Nat) → State × Checked
  | [] => (s, .ok [])
  | none :: rest =>
    match checkAddrs s t m rest with
    | (s, .ok ks) => (s, .ok (none :: ks))
    | r => r
  | some va :: rest =>
    match checkAddr s t m va with
    | (s, .ok k) =>
      match checkAddrs s t m rest with
      | (s, .ok ks) => (s, .ok (k ++ ks))
      | r => r
    | r => r

/-- A PE of a paddock: a compute tile of one of its strips (R209). -/
def padPe (s : State) (pad pos : Nat) : Bool :=
  match s.pad? pad with
  | some p => isPe pos && within p.first p.count pos
  | none => false

/-- Stands for the key of a place outside the paddock, which no packet reaches (R370). -/
def nowhere : Nat := 2 ^ 100

/-- The delivery word of an AMOD (R145): its translated destination for KIND 2, which a live fibre header, or one that is it already at
the issue, refuses as it does a store of the program (R148). Log 46. -/
def checkDelivery (s : State) (t : Task) (d : Word) (size : Nat) : State × Checked :=
  let x := d.toNat
  let dest := x % 2 ^ 56
  let bad := Checked.bad 0x12 5 0 dest
  if bits x 61 56 ≠ 0 then (s, bad)
  else
    match bits x 63 62 with
    | 0 => (s, if dest = 0 then .ok [none] else bad)
    | 1 => (s, if bits dest 55 22 = 0 ∧ padPe s t.part.toNat (dest % 2 ^ 16) then .ok [none] else bad)
    | 2 =>
      if dest % size ≠ 0 then (s, bad)
      else
        match translate s t.part.toNat t.ten.toNat (some t.cid) none dest false true with
        | (s, .ok k _) => (s, if liveHeader s k then .bad 0x12 4 0 dest else .ok [some k])
        | (s, .miss host) => (s, .miss dest true host)
        | (s, .dropped) => (s, .ok [some nowhere])
        | (s, _) => (s, bad)
    | _ => (s, bad)

/-- Tenant scope (R375). -/
def limited (s : State) (t : Task) : Bool := !(s.tenant t.part.toNat t.ten.toNat).sysScope

/-- The scope field of an atomic (R144, R146), its operation, and the operations that host memory performs. -/
def isSystem (i : Instr) : Bool :=
  match i with
  | .amo _ _ _ _ _ e _ | .amoCas _ _ _ _ e _ | .red _ _ _ _ _ e => e = 1
  | _ => false

def pcieAtomic (i : Instr) : Bool :=
  match i with
  | .amo _ _ _ c _ _ _ | .red _ _ _ c _ _ => c = 0 || c = 8
  | .amoCas _ _ _ _ _ _ => true
  | _ => false

/-- The first lane whose key has a property: its address. -/
def firstLane (p : Nat → Bool) (addrs keys : List (Option Nat)) : Option Nat :=
  ((addrs.zip keys).find? (fun (x : Option Nat × Option Nat) => match x.2 with | some k => p k | none => false)).map
    (fun (x : Option Nat × Option Nat) => x.1.getD 0)

/-- The instruction's own checks (step 5 of R137): a live fibre header, and a system-scope operation that host memory cannot
perform. -/
def ownCheck (s : State) (t : Task) (i : Instr) (addrs keys : List (Option Nat)) : Option Checked :=
  match (if isStoreOp i then firstLane (liveHeader s) addrs keys else none) with
  | some va => some (.bad 0x12 4 0 va)
  | none =>
    match (if isSystem i && !limited s t && !pcieAtomic i then firstLane (fun k => regionOf k = 1) addrs keys else none) with
    | some va => some (.bad 0x12 7 0 va)
    | none => none

/-! ### Page misses -/

/-- A token withheld on a page: it joins the page's request or starts one, sent when fewer than 64 are outstanding (R340,
R341). -/
def pageMiss (s : State) (pad ten va : Nat) (wr host : Bool) : Nat × State :=
  let page := va / 2 ^ 16
  match s.mem.pages.find? (fun q => q.pad = pad && q.ten = ten && q.page = page && !q.stale) with
  | some q => (q.id, s)
  | none =>
    let (id, s) := s.newId
    let asked := (s.mem.pages.filter (fun q => q.pad = pad && q.asked)).length < 64
    let q : PageReq := { id := id, pad := pad, ten := ten, page := page, write := wr, host := host, fgen := (s.tenant pad ten).fgen, vf := (s.tenant pad ten).vf
                         va := va, sent := s.ctl.now, asked := asked, stale := false, confs := [], nodes := [], copies := [] }
    let s := { s with mem := { s.mem with pages := s.mem.pages ++ [q] } }
    (id, if !asked then s else s.say (if host then .pageRequest pad ten page wr id else .firmwareRequest pad ten page wr id))

/-- A configuration, or a node of a launch, waits on a request by something other than a task's operation. -/
def PageReq.hasConf (q : PageReq) (cid : Nat) : Bool := q.confs.any (fun x => x.1 = cid)

def PageReq.hasNode (q : PageReq) (launch node : Nat) : Bool := q.nodes.any (fun x => x.1 = (launch, node))

/-- A configuration waits on a page request. -/
def pageMissConf (s : State) (pad ten cid va : Nat) (wr host : Bool) : State :=
  let (id, s) := pageMiss s pad ten va wr host
  { s with mem := { s.mem with pages := s.mem.pages.map (fun q =>
      if q.id = id ∧ !q.hasConf cid then { q with confs := q.confs ++ [(cid, va)] } else q) } }

/-- A copy, and so its configuration, waits on a page request (R292). -/
def pageMissCopy (s : State) (c : CopyOp) (va : Nat) (wr host : Bool) : State :=
  let (id, s) := pageMiss (pageMissConf s c.pad c.ten c.cid va wr host) c.pad c.ten va wr host
  { s with mem := { s.mem with pages := s.mem.pages.map (fun q =>
      if q.id = id ∧ c.id ∉ q.copies then { q with copies := q.copies ++ [c.id] } else q) } }

/-! ### What is still to be performed -/

/-- Every memory operation of a task below an identifier is performed at paddock scope (R246), the old values that its AMODs
store among them (R242, R260; log 27). -/
def performedUpto (s : State) (t : Task) (upto : Nat) : Bool :=
  t.queue.all (fun r => upto ≤ r.id) && t.reds.all (fun r => upto ≤ r.id) &&
  t.lag.all (fun l => upto ≤ l.id || !leaseLive s l.line l.at_) &&
  s.eng.deliveries.all (fun d =>
    !(d.cid = t.cid && d.pos = t.pos && d.slot = t.slot && bits d.word.toNat 63 62 = 2) || upto ≤ d.id)

/-- A fence may deliver (R147, R246): at cluster scope window accesses are accepted and loads bound; at paddock scope all is
performed; at system scope what the task itself wrote is also written back to the host (R261), and what the operations that it joins wrote
there (R251); and the copies and scans it joins are done. -/
def fenceReady (s : State) (t : Task) (scope : Nat) (join : Bool) : Bool :=
  (if scope = 0 then t.queue.all (fun r => !readsMem r.ins && r.keys.all (fun k => match k with | some k => regionOf k ≠ 2 | none => true))
   else performedUpto s t s.ctl.ids && (scope = 1 || t.owed.all (fun l => s.mem.hostOld.all (fun c => lineOf c.1 ≠ l)))) &&
  (!join || scope ≠ 2 || t.joins.all (fun j => j.lines.all (fun l => s.mem.hostOld.all (fun c => lineOf c.1 ≠ l)))) &&
  (!join || (s.eng.copies.all (fun c => !(c.cid = t.cid && c.pos = t.pos && c.slot = t.slot)) &&
    s.eng.scans.all (fun c => !(c.cid = t.cid && c.pos = t.pos && c.slot = t.slot))))

/-! ### Performing -/

/-- The issuing context of a task (R359). -/
def Task.ctx (t : Task) : Ctx := .task t.part.toNat t.ten.toNat t.cid t.pos t.slot

/-- Delivers the answer of a request to its block, if that block still runs; a slot that waited for the answer resolves. -/
def deliver (s : State) (pos slot : Nat) (r : Req) (tok : Option Tok) : State :=
  match s.task? pos slot with
  | none => s
  | some t =>
    match t.frame with
    | none => s
    | some f =>
      if f.id ≠ r.fid then s
      else
        let f := { f with
          narrowed := f.narrowed || r.narrowed
          chain := f.chain.map (fun o => if o.idx = r.idx ∧ o.st = .sent then { o with st := .issued } else o) }
        finish s t f (match tok with | some k => f.putAll r.idx k r.ins.targets | none => .ok f)

/-- A fault that the home answers: raised in the issuing block while it runs, where an instruction of a lower index may still precede it
in this cycle (R65); when the block is gone, a terminating fault still ends the configuration. -/
def homeFault (s : State) (pos slot : Nat) (r : Req) (code sub : Nat) (extra : Word := 0) : State :=
  let addr : Word := (r.a.getD .null).word
  match s.task? pos slot with
  | none => s
  | some t =>
    match t.frame with
    | some f =>
      if f.id = r.fid then
        s.setFrame t (f.raiseFault { code := code, sub := sub, idx := r.idx, addr := addr, extra := extra })
      else if faultClass code sub = .terminating then
        confFault s t.cid { code := code, sub := sub, tile := pos, slot := slot, idx := r.idx, blk := r.hdr, addr := addr
                            extra := extra }
      else s
    | none =>
      if faultClass code sub = .terminating then
        confFault s t.cid { code := code, sub := sub, tile := pos, slot := slot, idx := r.idx, blk := r.hdr, addr := addr
                            extra := extra }
      else s

/-- The crossing cache keeps a line for a requester: one of a remote window, or of device HBM two or more dies away (R363). -/
def crosses (t : Task) (k : Nat) : Bool :=
  match homeOf k with
  | some h => 2 ≤ max (dieOf h) (dieOf t.pos) - min (dieOf h) (dieOf t.pos)
  | none => regionOf k = 3

/-- A copy that may serve a load of a task: granted to its tenant slot, of its cluster, in a bank that is looked up, or of the crossing
cache, in the slot's set, where that serves it, live at the task's timestamp (R215, R219, R244, R245, R363, R372, R373). -/
def servingCopy (s : State) (t : Task) (k : Nat) : Option Copy :=
  if regionOf k = 2 then none
  else s.mem.copies.find? (fun c => c.line = lineOf k && c.who = t.who && c.live s.ctl.now t.pts.toNat &&
    ((c.cluster = clusterOf t.pos && (cacheWays s c.cluster).contains c.way) ||
     (c.cluster = crossing && crosses t k && c.set = cacheSet s crossing t.who (lineOf k))))

/-- The poisoned words of a line, as a mask (R348). -/
def badWords (s : State) (line : Nat) : Nat := packNat 1 ((List.range 8).map (fun i => ofFlag (s.poisoned (line * 64 + 8 * i) 8) 1))

/-- A word of `n` bytes at an offset of a line is marked in a mask. -/
def markedIn (mask off n : Nat) : Bool := (List.range 8).any (fun i => off / 8 ≤ i && i ≤ (off + n - 1) / 8 && mask / 2 ^ i % 2 = 1)

/-- One read of a request: by a live leased copy when `cached` allows one, else at the home, whose line is then kept with its
marks (R215, R244, R245, R348, R363). The value, and whether a word read is poisoned. -/
def loadOne (s : State) (t : Task) (k n : Nat) (cached : Bool) : State × Word × Nat × Bool :=
  let p := t.pts.toNat
  match (if cached then servingCopy s t k else none) with
  | some c =>
    (useCopy s c, BitVec.ofNat 64 (max p c.wts), c.val.toNat / 2 ^ (8 * (k % 64)) % 2 ^ (8 * n), markedIn c.bad (k % 64) n)
  | none =>
    let (s, v, p) := homeLoad s t.who k n p
    let x := s.line (lineOf k)
    let keep (s : State) (c : Nat) : State :=
      keepCopy s { line := lineOf k, cluster := c, who := t.who, set := cacheSet s c t.who (lineOf k), way := 0
                   val := s.lineRead t.who (lineOf k), bad := badWords s (lineOf k)
                   wts := x.wts, rts := x.rts, granted := s.ctl.now, used := s.ctl.now }
    let s := if regionOf k = 0 then keep s (clusterOf t.pos) else s
    let s := if crosses t k then keep s crossing else s
    (s, BitVec.ofNat 64 p, v, s.poisoned k n)

/-- Changes a task while it is bound. -/
def State.mapBound (s : State) (t : Task) (f : Task → Task) : State :=
  s.mapTask t.pos t.slot (fun x => if x.cid = t.cid then f x else x)

/-- Raises the timestamp of a task (R244). -/
def setPts (s : State) (t : Task) (p : Nat) : State := s.mapBound t (fun t => t.raisePts p)

/-- Notes the place in T of a RED or a batch of a task, which its next fence or release orders (R247). -/
def setRedPts (s : State) (t : Task) (p : Nat) : State := s.mapBound t (fun t => { t with redPts := max t.redPts p })

/-- Records that a write of a task stays to be performed while leases granted before it live (R246). -/
def addLag (s : State) (t : Task) (id line : Nat) : State :=
  let l : Lagging := { id := id, line := line, at_ := s.ctl.now }
  if !leaseLive s line s.ctl.now then s
  else if (s.task? t.pos t.slot).any (fun x => x.cid = t.cid) then s.mapBound t (fun t => { t with lag := t.lag ++ [l] })
  else { s with ten := { s.ten with lag := s.ten.lag ++ [(t.part.toNat, t.ten.toNat, l)] } }

/-- Records that a task has written a line of host memory, which is not yet written back (R246, R261). -/
def addOwed (s : State) (t : Task) (k : Nat) : State :=
  if regionOf k = 1 then s.mapBound t (fun t => { t with owed := t.owed.filter (fun l => l ≠ lineOf k) ++ [lineOf k] }) else s

/-- One write of a request at its home. -/
def storeOne (s : State) (t : Task) (id k : Nat) (bs : List Byte) : State :=
  let s := if regionOf k = 2 then s else addLag s t id (lineOf k)
  let (s, p) := homeStore s t.who k bs t.pts.toNat
  addOwed (setPts s t p) t k

/-- An atomic of system scope on host memory is a PCIe AtomicOp: the host sees it at once (R144, R146). -/
def atHost (s : State) (r : Req) (k : Nat) : State :=
  if isSystem r.ins && !r.narrowed && regionOf k = 1 then writeBack s (lineOf k) else s

/-- The read-modify-write of an atomic at its home (R144): the old value, or POISON subcode 5. -/
def atomicAt (s : State) (t : Task) (id k c size : Nat) (b new : Nat) : State × Option (Nat × Nat) :=
  let s := if regionOf k = 2 then s else foldLine s (lineOf k)
  if s.poisoned k size then (s, none)
  else
    let n := 8 * size
    let (s, old) := s.readAs t.who k size
    let q : Res := if c = 9 then (if old = b % 2 ^ n then new % 2 ^ n else old, 0) else atomicOp c n old b
    (storeOne s t id k (toBytes size q.1), some (old, q.2))

/-- The atomic that an instruction performs: code, operand, replacement of a CAS. -/
def atomicOf (i : Instr) (b c : Word) : Nat × Nat × Nat × Nat :=
  match i with
  | .amo _ _ _ o z _ _ | .amod _ _ _ o z => (o.toNat, if z = 0 then 4 else 8, b.toNat, 0)
  | .red _ _ _ o z _ => (o.toNat, if z = 0 then 4 else 8, b.toNat, 0)
  | .amoCas _ _ _ z _ _ => (9, if z = 0 then 4 else 8, b.toNat, c.toNat)
  | _ => (0, 4, 0, 0)

/-- A RED of a task is held in a partial line of its die and does not reach its home (R241). -/
def toPartial (i : Instr) (pos k : Nat) : Bool :=
  match i with
  | .red _ _ _ _ _ _ => regionOf k = 0 && (match homeOf k with | some h => dieOf h ≠ dieOf pos | none => false)
  | _ => false

/-- A RED of a task applied at its home or in its die's partial line (R146, R241), with its flags; once it is accepted no older copy
of the line serves a load, and its place in T is what the task's next fence or release orders (R246, R247). None where it meets a poisoned
word. -/
def redAt (s : State) (t : Task) (r : Req) (k : Nat) : Option State :=
  let (c, size, b, _) := atomicOf r.ins (r.b.getD .null).word 0
  if toPartial r.ins t.pos k then
    let (s, fl) := redPartial s t.part.toNat (dieOf t.pos) (lineOf k) (k % 64 / size) c (if size = 4 then 0 else 1) b t
    some (lateFlags s t.ctx fl)
  else if s.poisoned k size then none
  else
    let (s, old) := s.readAs t.who k size
    let q := atomicOp c (8 * size) old b
    let s := if regionOf k = 2 then s.write k (toBytes size q.1)
      else
        let s := (touchL2 (dropCopies s (lineOf k)) t.who (lineOf k) true).claim t.who (lineOf k)
        let (s, p) := stampWrite (s.homeWrite k (toBytes size q.1)) (lineOf k) t.fenced
        atHost (addOwed (setRedPts s t p) t k) r k
    some (lateFlags s t.ctx q.2)

/-- Performs a RED (R146); one that finds a live header where it was none at its issue is refused (R148). Log 46. -/
def performRed (s : State) (pos slot : Nat) (r : Req) (k : Nat) : State :=
  match s.task? pos slot with
  | none => s
  | some t =>
    if liveHeader s k then homeFault s pos slot r 0x12 4
    else
      match redAt s t r k with
      | some s => deliver s pos slot r none
      | none => homeFault s pos slot r 0x16 5

/-- How a fibre operation stands in the total order (R244, R247): a read of the header's line, a write of it, or a batch held in
a partial. -/
inductive FibAccess where
  | read
  | write
  | held
  deriving DecidableEq, Repr

/-- The fibre operations that read (R149, R152, R153). -/
def readsFibre (i : Instr) : Bool :=
  match i with
  | .fcnt _ _ _ _ | .fstat _ _ _ _ => true
  | i => readsMem i

/-- The engine has rewritten the record of a header since an earlier state: that is a write of its line (R148, R244). -/
def stampHeader (old s : State) (k : Nat) : State :=
  if old.read k 64 = s.read k 64 then s else (stampWrite s (lineOf k) 0).1

/-- A fibre operation at its engine: its place in the order, the result token and flags (R149 to R153). -/
def fibreOp (s : State) (t : Task) (i : Instr) (k : Nat) (a b c : Tok) : FibOut (FibAccess × Option Tok) :=
  let how : FibAccess := if readsFibre i then .read else .write
  let scalarOut (r : FibOut Word) : FibOut (FibAccess × Option Tok) :=
    (r.1, match r.2 with | .ok (v, fl) => .ok ((how, some (scalar v)), fl) | .error e => .error e)
  let vectorOut (r : FibOut Vec) : FibOut (FibAccess × Option Tok) :=
    (r.1, match r.2 with | .ok (v, fl) => .ok ((how, some (vector v)), fl) | .error e => .error e)
  let mergeOut (r : FibOut Bool) : FibOut (FibAccess × Option Tok) :=
    (r.1, match r.2 with | .ok (home, fl) => .ok ((if home then .write else .held, none), fl) | .error e => .error e)
  let die := dieOf t.pos
  match i with
  | .fprb _ _ _ _ => scalarOut (fibProbe s k b.word)
  | .vfrd _ _ _ _ => vectorOut (fibRead s k b.word)
  | .vfprb _ _ _ _ => vectorOut (fibProbes s k false b.vec)
  | .vfhit _ _ _ _ => vectorOut (fibProbes s k true b.vec)
  | .fins _ _ _ m => mergeOut (fibMerge s k die m.toNat [(b.word.toNat % 2 ^ 32, c.word.toNat % 2 ^ 32)])
  | .vfmrg _ _ _ m => mergeOut (fibMerge s k die m.toNat (pairs b.vec))
  | .fnew _ _ _ _ => scalarOut (fibNew s t.part.toNat k a.word.toNat b.word)
  | .fdel _ _ _ _ => scalarOut (fibManage s 1 k b.word)
  | .fclr _ _ _ _ => scalarOut (fibManage s 2 k b.word)
  | .fcnt _ _ _ _ => scalarOut (fibManage s 3 k b.word)
  | .fseal _ _ _ _ => scalarOut (fibManage s 4 k b.word)
  | .funseal _ _ _ _ => scalarOut (fibManage s 5 k b.word)
  | _ => scalarOut (fibManage s 6 k b.word)

/-- A fibre request at its engine: partial RED lines of the header line fold first; a read takes a lease, a write a stamp, and what
the engine rewrites in the header is a write of its line (R244); a batch accepted in a partial raises no timestamp of the task, its place
is what the next fence orders (R247), and no older copy of the header serves from then on (R246). Flags of a fold stand also when the
access is not performed (R29, R240). The result, or the code and subcode of its fault. -/
def fibreAt (s : State) (t : Task) (r : Req) (k : Nat) : State × Except (Nat × Nat) (Option Tok) :=
  let s := foldLine s (lineOf k)
  match fibreOp s t r.ins k (r.a.getD .null) (r.b.getD .null) (r.c.getD .null) with
  | (s', .error e) => (lateFlags (stampHeader s s' k) t.ctx e.2, .error e.1)
  | (s', .ok ((.read, tok), fl)) =>
    let (s', p) := leaseLoad (touchL2 (stampHeader s s' k) t.who (lineOf k) true) (lineOf k) t.pts.toNat
    (lateFlags (setPts s' t p) t.ctx fl, .ok tok)
  | (s', .ok ((.write, tok), fl)) =>
    let (s', p) := stampWrite (touchL2 (addLag s' t r.id (lineOf k)) t.who (lineOf k) true) (lineOf k) t.pts.toNat
    (lateFlags (setPts s' t p) t.ctx fl, .ok tok)
  | (s', .ok ((.held, tok), fl)) =>
    let s' := dropCopies (touchL2 (stampHeader s s' k) t.who (lineOf k) true) (lineOf k)
    let (s', p) := placeLater s' (lineOf k) t.fenced
    (lateFlags (setRedPts s' t p) t.ctx fl, .ok tok)

/-- Performs a fibre request of a task, whose block takes the result or the fault. -/
def performFibre (s : State) (pos slot : Nat) (r : Req) (k : Nat) : State :=
  match s.task? pos slot with
  | none => s
  | some t =>
    match fibreAt s t r k with
    | (s, .error e) => homeFault s pos slot r e.1 e.2
    | (s, .ok tok) => deliver s pos slot r tok

/-- Drops leading inactive lanes, which read as 0 (R143). -/
def skipLanes : List (Option Nat) → List Nat → List (Option Nat) × List Nat
  | none :: rest, got => skipLanes rest (got ++ [0])
  | keys, got => (keys, got)

/-- The size of each access of a request. -/
def Req.size (r : Req) : Nat :=
  match memForm r.ins (r.a.getD .null) (r.b.getD .null) with | some m => m.size | none => 1

/-- A read request takes its next access; after the last its value is delivered, poisoned when a word read was (R348). -/
def performLoad (s : State) (t : Task) (r : Req) (cached : Bool) : State :=
  let (s, r) := match r.keys with
    | some k :: rest =>
      let (s, p, v, bad) := loadOne s t k r.size cached
      let next := skipLanes rest (r.got ++ [v])
      (setPts s t p.toNat, { r with keys := next.1, got := next.2, tainted := r.tainted || bad })
    | _ => (s, r)
  if r.keys.isEmpty then
    let tok := match loadValue r.ins r.got with
      | .ctl x _ => Tok.ctl x r.tainted
      | .data x _ => Tok.data x r.tainted
      | .null => .null
    deliver s t.pos t.slot r (some tok)
  else s.mapTask t.pos t.slot (fun t => { t with queue := r :: t.queue })

/-- The next write of a store request made, and the lines that it has no more writes for left to memory (R215). -/
def Req.storeNext (s : State) (t : Task) (r : Req) : State × Req :=
  match r.keys with
  | some k :: rest =>
    let s := storeOne s t r.id k (storeBytes r.ins (r.b.getD .null) (r.c.getD .null) r.got.length)
    let next := skipLanes rest (r.got ++ [0])
    (s, { r with keys := next.1, got := next.2
                 ways := r.ways.filter (fun w => next.1.any (fun k => match k with | some k => lineOf k = w.1 | none => false)) })
  | _ => (s, r)

/-- The next access of a request would touch a live fibre header. -/
def Req.meetsHeader (s : State) (r : Req) : Bool := match r.keys with | some k :: _ => liveHeader s k | _ => false

/-- A store request takes its next access; one that finds a live header where it was none at its issue is refused (R148). Log 46. -/
def performStore (s : State) (t : Task) (r : Req) : State :=
  if r.meetsHeader s then homeFault s t.pos t.slot r 0x12 4
  else
    let (s, r) := r.storeNext s t
    if r.keys.isEmpty then deliver s t.pos t.slot r none
    else s.mapTask t.pos t.slot (fun t => { t with queue := r :: t.queue })

/-- The atomic of a request of a task made at its home, with its flags, and the delivery of an AMOD sent (R144, R145): the old value, or
none where it meets a poisoned word. Flags of an AMO whose result is discarded and whose block has completed before it is performed go to
its task late, as those of R49 do, where R144 speaks of the block's completion alone. Log 46. -/
def atomicSent (s : State) (t : Task) (r : Req) (k : Nat) : State × Option Nat :=
  let (c, size, b, new) := atomicOf r.ins (r.b.getD .null).word (r.c.getD .null).word
  match atomicAt s t r.id k c size b new with
  | (s, none) => (s, none)
  | (s, some (old, fl)) =>
    let s := atHost (lateFlags s t.ctx fl) r k
    match r.ins with
    | .amod _ _ _ _ _ =>
      let word := (r.c.getD .null).word
      let d : Delivery := { word := word, value := old, size := size, cid := t.cid, key := r.got.getD 0 0, pad := t.part.toNat
                            ten := t.ten.toNat, pos := t.pos, slot := t.slot, id := r.id }
      (if bits word.toNat 63 62 = 0 then s
       else if bits word.toNat 63 62 = 2 && d.key = nowhere then s.mapPad d.pad (fun p => { p with pdrop := (p.pdrop + 1) % 2 ^ 32 })
       else { s with eng := { s.eng with deliveries := s.eng.deliveries ++ [d] } }, some old)
    | _ => (s, some old)

/-- An AMO or AMOD at its home (R144, R145); one that finds a live header where it was none at its issue is refused (R148). Log 46. -/
def performAtomic (s : State) (t : Task) (r : Req) (k : Nat) : State :=
  if liveHeader s k then homeFault s t.pos t.slot r 0x12 4
  else
    match atomicSent s t r k, r.ins with
    | (s, none), _ => homeFault s t.pos t.slot r 0x16 5
    | (s, some _), .amod _ _ _ _ _ => deliver s t.pos t.slot r none
    | (s, some old), _ => deliver s t.pos t.slot r (some (scalar (BitVec.ofNat 64 old)))

/-- A request of a task at a place may be performed: its line has not moved, and, where it reaches the home, is not on an empty row, and no
access that parked there before it is left (R241, R321, R367). -/
def Req.free (s : State) (pos : Nat) (r : Req) : Bool :=
  match r.keys with
  | some k :: _ => (movedTo s k).isNone && (toPartial r.ins pos k || mayPass s k 0 r.id)
  | _ => true

/-- A request that finds its row empty parks there; none when it has already, or waits for something else. -/
def Req.park (s : State) (r : Req) : Option State :=
  match r.keys with
  | some k :: _ => let s' := parkAt s k 0 r.id; if s'.mem.parkedBy.length = s.mem.parkedBy.length then none else some s'
  | _ => none

/-- A request leaves the place where it parked. -/
def Req.leave (s : State) (r : Req) : State :=
  match r.keys with
  | some k :: _ => unpark s k 0 r.id
  | _ => s

/-- A live copy serves the next read of a request, also while its row is empty (R321, R329). -/
def Req.fromCopy (s : State) (t : Task) (r : Req) : Bool :=
  match r.keys with
  | some k :: _ => !isFibre r.ins && (servingCopy s t k).isSome
  | _ => false

/-- Performs the oldest request of a task's queue (R242), when it is of the wanted sort. -/
def performHead (s : State) (pos slot : Nat) (reads cached : Bool) : Option State :=
  match s.task? pos slot with
  | none => none
  | some t =>
    match t.queue with
    | [] => none
    | r :: rest =>
      if readsMem r.ins ≠ reads then none
      else if !(r.free s pos || (cached && r.fromCopy s t)) then r.park s
      else
        let t := { t with queue := rest }
        let s := r.leave (s.setTask t)
        match r.keys with
        | some k :: _ =>
          if isFibre r.ins then some (performFibre s pos slot r k)
          else if reads then some (performLoad s t r cached)
          else
            match r.ins with
            | .amo _ _ _ _ _ _ _ | .amoCas _ _ _ _ _ _ | .amod _ _ _ _ _ => some (performAtomic s t r k)
            | _ => some (performStore s t r)
        | _ => if reads then some (performLoad s t r cached) else some (performStore s t r)

/-- Performs RED `k` of a task's REDs, which program order does not bind (R247). -/
def performRedAt (s : State) (pos slot k : Nat) : Option State :=
  match s.task? pos slot with
  | none => none
  | some t =>
    match t.reds[k]? with
    | none => none
    | some r =>
      match r.keys with
      | some key :: _ =>
        if !r.free s pos then r.park s
        else some (performRed (r.leave (s.setTask { t with reds := dropAt k t.reds })) pos slot r key)
      | _ => some (s.setTask { t with reds := dropAt k t.reds })

/-! ### Issue -/

/-- Operation `k` that the cluster had accepted from a task whose configuration has ended makes its next access (R181, R214); those of
one task keep their order, REDs apart (R242, R247). A poisoned word, a header that is not, or is, a live one, and a ninth redirect end it. -/
def performRetired (s : State) (k : Nat) : Option State :=
  match s.mem.retired[k]? with
  | none => none
  | some x =>
    let t := x.task
    let r := x.req
    let red (i : Instr) : Bool := match i with | .red _ _ _ _ _ _ => true | _ => false
    let mine (y : Retired) : Bool := y.task.cid = t.cid && y.task.pos = t.pos && y.task.slot = t.slot
    let gone (s : State) : State := { s with mem := { s.mem with retired := dropAt k s.mem.retired } }
    if !red r.ins && (s.mem.retired.take k).any (fun y => mine y && !red y.req.ins) then none
    else
      match r.keys with
      | some key :: rest =>
        match followMoves s 8 key with
        | none => some (gone s)
        | some key =>
          let r := { r with keys := some key :: rest }
          if !(toPartial r.ins t.pos key || mayPass s key 0 r.id) then r.park s
          else
            let s := unpark s key 0 r.id
            if isMergeOp r.ins then some (gone (fibreAt s t r key).1)
            else if liveHeader s key then some (gone s)
            else
              match r.ins with
              | .red _ _ _ _ _ _ => some (gone ((redAt s t r key).getD s))
              | .amo _ _ _ _ _ _ _ | .amoCas _ _ _ _ _ _ | .amod _ _ _ _ _ => some (gone (atomicSent s t r key).1)
              | _ =>
                let (s, r) := r.storeNext s t
                if r.keys.isEmpty then some (gone s)
                else some { s with mem := { s.mem with retired := s.mem.retired.set k { x with req := r } } }
      | none :: rest =>
        if rest.isEmpty then some (gone s)
        else some { s with mem := { s.mem with retired := s.mem.retired.set k { x with req := { r with keys := rest, got := r.got ++ [0] } } } }
      | [] => some (gone s)

/-- Issues a fence whose conditions hold: its trigger is delivered (R147), and it joins what J names (R253); one of paddock or system scope
orders the task's REDs and batches (R247). -/
def issueFence (s : State) (t : Task) (f : Frame) (o : MemOp) (i : Instr) (scope : Nat) (join : Bool) : Option State :=
  let narrow := scope = 2 && limited s t
  if !fenceReady s t (if narrow then 1 else scope) join then none
  else
    let f := { f.setOp o.q .issued with narrowed := f.narrowed || narrow }
    let t := if join then t.joins.foldl Task.join t else t
    let t := if scope = 0 then t else s.ordered t
    some (finish s (t.count 4) f (f.putAll o.idx trigger i.targets))

/-- An operation that writes lines in the cluster cache (R215). -/
def isStore (i : Instr) : Bool :=
  match i with
  | .stb _ _ _ _ | .sth _ _ _ _ | .stw _ _ _ _ | .std _ _ _ _ | .vst _ _ _ _ | .vsts _ _ _ _ | .vscat _ _ _ => true
  | _ => false

/-- The ways that the lines of a store take in the cluster cache (R215), beside those that `own` lists: the way that a written line of
the cluster has already, or one of its set. None while a written line has to leave first; a set full of the store's own lines keeps no
more of them. -/
def takeWays (s : State) (cluster : Nat) : List Nat → List (Nat × Nat) → Option (List (Nat × Nat) × State)
  | [], own => some (own, s)
  | l :: ls, own =>
    let held := writtenIn s cluster (l % 512)
    if (cacheWays s cluster).isEmpty || own.any (fun x => x.1 = l) then takeWays s cluster ls own
    else
      match held.find? (fun x => x.1 = l) with
      | some x => takeWays s cluster ls (own ++ [(l, x.2.1)])
      | none =>
        let mine := (own.filter (fun x => x.1 % 512 = l % 512)).map (fun x => (x.1, x.2, s.ctl.now))
        match cacheWay s cluster (l % 512) l (held ++ mine) with
        | some (w, s) => takeWays s cluster ls (own ++ [(l, w)])
        | none => if held.isEmpty then takeWays s cluster ls own else none

/-- A checked operation enters the task's queue; a RED to a window is performed at once (R31, R146). None while its lines find no place in
the cluster cache (R215). -/
def enqueue (s : State) (t : Task) (f : Frame) (o : MemOp) (i : Instr) (keys : List (Option Nat)) (dest : Nat) : Option State :=
  match takeWays s (clusterOf t.pos)
    (if isStore i then keys.filterMap (fun k => k.bind (fun k => if regionOf k = 0 then some (lineOf k) else none)) else []) [] with
  | none => none
  | some (ways, s) =>
  let narrowed := isSystem i && limited s t && keys.any (fun k => match k with | some k => regionOf k ≠ 2 | none => false)
  let (id, s) := s.newId
  let trim := skipLanes keys []
  let amod := match i with | .amod _ _ _ _ _ => true | _ => false
  let r : Req := { id := id, fid := f.id, hdr := f.hdr, idx := o.idx, ins := i, a := o.a, b := o.b, c := o.c
                   keys := if amod then keys else trim.1, got := if amod then [dest] else trim.2
                   narrowed := narrowed, tainted := false, hops := 0, ways := ways, used := s.ctl.now }
  let red := match i with | .red _ _ _ _ _ _ => true | _ => false
  let f := f.setOp o.q (if isFibre i then .sent else .issued)
  let t := (t.count 4)
  let t := { t with frame := some f }
  if red then
    match keys with
    | [some k] =>
      some (if regionOf k = 2 then performRed (s.setTask t) t.pos t.slot r k else s.setTask { t with reds := t.reds ++ [r] })
    | _ => some (s.setTask { t with reds := t.reds ++ [r] })
  else some (s.setTask { t with queue := t.queue ++ [r] })

/-- What the checks of an operation lead to: a fault is raised in its block (R65). -/
def afterCheck (s : State) (t : Task) (f : Frame) (o : MemOp) (i : Instr) (dest : Nat) : Checked → Option State
  | .ok keys => enqueue s t f o i keys dest
  | .wait => none
  | .bad c sub e va =>
    some (s.setFrame t (f.raiseFault { code := c, sub := sub, idx := o.idx, addr := BitVec.ofNat 64 va, extra := BitVec.ofNat 64 e }))
  | .miss va wr host =>
    let (id, s) := pageMiss s t.part.toNat t.ten.toNat va wr host
    some (s.setFrame t (f.setOp o.q (.withheld id s.ctl.now va)))
  | .lost => some (s.setFrame (t.count 4) (f.setOp o.q .sent))

/-- Issues the next operation of a task's chain (R31, R137), with its place after what the configuration follows (R252, R253): none when it
has none, that one waits, or an instruction of a lower index has raised a fault (R65). -/
def issueNext (s : State) (pos slot : Nat) : Option State :=
  match s.task? pos slot with
  | none => none
  | some t =>
    match t.frame with
    | none => none
    | some f =>
      match f.nextOp with
      | none => none
      | some o =>
        if f.raised.any (fun r => r.idx ≤ o.idx) then none else
        let t := t.raisePts (s.confPts t.cid)
        match decodeWord (s.insWord pos f.hdr o.idx) with
        | none => none
        | some i =>
          let a := o.a.getD .null
          match i with
          | .fence _ _ _ e j _ => issueFence s t f o i e.toNat (j = 1)
          | _ =>
            match memForm i a (o.b.getD .null) with
            | none => none
            | some m =>
              let r := checkAddrs s t m m.addrs
              match r.2 with
              | .ok keys =>
                match ownCheck r.1 t i m.addrs keys with
                | some c => afterCheck r.1 t f o i 0 c
                | none =>
                  match i with
                  | .amod _ _ _ _ _ =>
                    match checkDelivery r.1 t (o.c.getD .null).word m.size with
                    | (s, .ok [some d]) => afterCheck s t f o i d (.ok keys)
                    | (s, .ok _) => afterCheck s t f o i 0 (.ok keys)
                    | (s, c) => afterCheck s t f o i 0 c
                  | _ => afterCheck r.1 t f o i 0 (.ok keys)
              | c => afterCheck r.1 t f o i 0 c

/-- Follows one redirect of a task's requests (R367): the access goes to the line's new home; the ninth is refused. -/
def redirectOne (s : State) (pos slot : Nat) : Option State :=
  match s.task? pos slot with
  | none => none
  | some t =>
    let moved (r : Req) : Bool := match r.keys with | some k :: _ => (movedTo s k).isSome | _ => false
    match (t.queue ++ t.reds).find? moved with
    | none => none
    | some r =>
      let drop (l : List Req) : List Req := l.filter (fun x => x.id ≠ r.id)
      if 8 ≤ r.hops then
        some (homeFault (s.setTask { t with queue := drop t.queue, reds := drop t.reds }) pos slot r 0x15 4)
      else
        let r' := match r.keys with
          | some k :: rest =>
            let new := (movedTo s k).getD k
            { r with hops := r.hops + 1, keys := some new :: rest
                     ways := r.ways.map (fun w => if w.1 = lineOf k then (lineOf new, w.2) else w) }
          | _ => { r with hops := r.hops + 1 }
        let put (l : List Req) : List Req := l.map (fun x => if x.id = r.id then r' else x)
        some (s.setTask { t with queue := put t.queue, reds := put t.reds })

/-- One step of a task's memory operations, the oldest work first. -/
def memStep (s : State) (pos slot : Nat) : Option State :=
  match redirectOne s pos slot with
  | some s => some s
  | none =>
    match performHead s pos slot true false with
    | some s => some s
    | none =>
      match performHead s pos slot false false with
      | some s => some s
      | none =>
        match performRedAt s pos slot 0 with
        | some s => some s
        | none => issueNext s pos slot

/-- Lets a task's memory operations act as far as they can (log 3). -/
def settle : Nat → State → Nat → Nat → State
  | 0, s, _, _ => s
  | n + 1, s, pos, slot =>
    match memStep s pos slot with
    | some s => settle n s pos slot
    | none => s

/-- The bound of one settling: every operation of a chain with all its lanes. -/
def settleFuel : Nat := 2200

/-- After an event, the memory operations of a task act at once when the model's control says so (log 3). -/
def settled (s : State) (pos slot : Nat) : State := if s.ctl.eager then settle settleFuel s pos slot else s

/-- FIRES a memory instruction (R31): it joins the chain, waiting or nulled; a leftover does nothing (R32). -/
def fireMem (i : Instr) (s : State) : Out :=
  let r := fireWith i s (fun _ => i.targets)
    (fun s t f idx x =>
      if f.leftover then (s, t, .ok f)
      else (s, t, do let f ← f.join i idx x .nulled; f.putAll idx .null i.targets))
    (fun s t f idx x => if f.leftover then (s, t, .ok f) else (s, t, f.join i idx x .waiting))
  match r, s.ctl.focus with
  | .next s, .fire pos slot _ => .next (settled s pos slot)
  | r, _ => r

/-! ### The instructions -/

/-- LDB (R139). -/
def execLdb (q : BitVec 5) (p d : BitVec 2) (o : BitVec 7) (u : BitVec 9) (s : State) : Out := fireMem (.ldb q p d o u) s
/-- LDBZ (R139). -/
def execLdbz (q : BitVec 5) (p d : BitVec 2) (o : BitVec 7) (u : BitVec 9) (s : State) : Out := fireMem (.ldbz q p d o u) s
/-- LDH (R139). -/
def execLdh (q : BitVec 5) (p d : BitVec 2) (o : BitVec 7) (u : BitVec 9) (s : State) : Out := fireMem (.ldh q p d o u) s
/-- LDHZ (R139). -/
def execLdhz (q : BitVec 5) (p d : BitVec 2) (o : BitVec 7) (u : BitVec 9) (s : State) : Out := fireMem (.ldhz q p d o u) s
/-- LDW (R139). -/
def execLdw (q : BitVec 5) (p d : BitVec 2) (o : BitVec 7) (u : BitVec 9) (s : State) : Out := fireMem (.ldw q p d o u) s
/-- LDWZ (R139). -/
def execLdwz (q : BitVec 5) (p d : BitVec 2) (o : BitVec 7) (u : BitVec 9) (s : State) : Out := fireMem (.ldwz q p d o u) s
/-- LDD (R139). -/
def execLdd (q : BitVec 5) (p d : BitVec 2) (o : BitVec 7) (u : BitVec 9) (s : State) : Out := fireMem (.ldd q p d o u) s
/-- STB (R140). -/
def execStb (q : BitVec 5) (p d : BitVec 2) (o : BitVec 16) (s : State) : Out := fireMem (.stb q p d o) s
/-- STH (R140). -/
def execSth (q : BitVec 5) (p d : BitVec 2) (o : BitVec 16) (s : State) : Out := fireMem (.sth q p d o) s
/-- STW (R140). -/
def execStw (q : BitVec 5) (p d : BitVec 2) (o : BitVec 16) (s : State) : Out := fireMem (.stw q p d o) s
/-- STD (R140). -/
def execStd (q : BitVec 5) (p d : BitVec 2) (o : BitVec 16) (s : State) : Out := fireMem (.std q p d o) s
/-- VLD (R141). -/
def execVld (q : BitVec 5) (p d : BitVec 2) (o : BitVec 7) (u : BitVec 9) (s : State) : Out := fireMem (.vld q p d o u) s
/-- VST (R141). -/
def execVst (q : BitVec 5) (p d : BitVec 2) (o : BitVec 16) (s : State) : Out := fireMem (.vst q p d o) s
/-- VLDS (R142). -/
def execVlds (q : BitVec 5) (p d w : BitVec 2) (u : BitVec 9) (s : State) : Out := fireMem (.vlds q p d w u) s
/-- VSTS (R142). -/
def execVsts (q : BitVec 5) (p d w : BitVec 2) (s : State) : Out := fireMem (.vsts q p d w) s
/-- VGATH (R143). -/
def execVgath (q : BitVec 5) (p d : BitVec 2) (u : BitVec 9) (s : State) : Out := fireMem (.vgath q p d u) s
/-- VSCAT (R143). -/
def execVscat (q : BitVec 5) (p d : BitVec 2) (s : State) : Out := fireMem (.vscat q p d) s
/-- AMO (R144). -/
def execAmo (q : BitVec 5) (p d : BitVec 2) (c : BitVec 4) (z : BitVec 2) (e : BitVec 1) (u : BitVec 9) (s : State) : Out :=
  fireMem (.amo q p d c z e u) s
/-- AMO CAS (R144). -/
def execAmoCas (q : BitVec 5) (p d z : BitVec 2) (e : BitVec 1) (u : BitVec 9) (s : State) : Out :=
  fireMem (.amoCas q p d z e u) s
/-- AMOD (R145). -/
def execAmod (q : BitVec 5) (p d : BitVec 2) (c : BitVec 4) (z : BitVec 2) (s : State) : Out := fireMem (.amod q p d c z) s
/-- RED (R146). -/
def execRed (q : BitVec 5) (p d : BitVec 2) (c : BitVec 4) (z : BitVec 2) (e : BitVec 1) (s : State) : Out :=
  fireMem (.red q p d c z e) s
/-- FENCE (R147). -/
def execFence (q : BitVec 5) (p d e : BitVec 2) (j : BitVec 1) (u : BitVec 9) (s : State) : Out := fireMem (.fence q p d e j u) s
/-- FPRB (R152). -/
def execFprb (q : BitVec 5) (p d : BitVec 2) (u : BitVec 9) (s : State) : Out := fireMem (.fprb q p d u) s
/-- FINS (R150). -/
def execFins (q : BitVec 5) (p d m : BitVec 2) (s : State) : Out := fireMem (.fins q p d m) s
/-- FNEW (R149). -/
def execFnew (q : BitVec 5) (p d : BitVec 2) (u : BitVec 9) (s : State) : Out := fireMem (.fnew q p d u) s
/-- FDEL (R149). -/
def execFdel (q : BitVec 5) (p d : BitVec 2) (u : BitVec 9) (s : State) : Out := fireMem (.fdel q p d u) s
/-- FCLR (R149). -/
def execFclr (q : BitVec 5) (p d : BitVec 2) (u : BitVec 9) (s : State) : Out := fireMem (.fclr q p d u) s
/-- FCNT (R149). -/
def execFcnt (q : BitVec 5) (p d : BitVec 2) (u : BitVec 9) (s : State) : Out := fireMem (.fcnt q p d u) s
/-- FSEAL (R149). -/
def execFseal (q : BitVec 5) (p d : BitVec 2) (u : BitVec 9) (s : State) : Out := fireMem (.fseal q p d u) s
/-- FUNSEAL (R149). -/
def execFunseal (q : BitVec 5) (p d : BitVec 2) (u : BitVec 9) (s : State) : Out := fireMem (.funseal q p d u) s
/-- FSTAT (R149). -/
def execFstat (q : BitVec 5) (p d : BitVec 2) (u : BitVec 9) (s : State) : Out := fireMem (.fstat q p d u) s
/-- VFRD (R153). -/
def execVfrd (q : BitVec 5) (p d : BitVec 2) (u : BitVec 9) (s : State) : Out := fireMem (.vfrd q p d u) s
/-- VFMRG (R150). -/
def execVfmrg (q : BitVec 5) (p d m : BitVec 2) (s : State) : Out := fireMem (.vfmrg q p d m) s
/-- VFPRB (R152). -/
def execVfprb (q : BitVec 5) (p d : BitVec 2) (u : BitVec 9) (s : State) : Out := fireMem (.vfprb q p d u) s
/-- VFHIT (R152). -/
def execVfhit (q : BitVec 5) (p d : BitVec 2) (u : BitVec 9) (s : State) : Out := fireMem (.vfhit q p d u) s

/-! ### Events -/

/-- A fired memory operation issues once its chain predecessor is issued, nulled or the block's start (R31). -/
def execMemoryIssue (pe slot : Nat) (s : State) : Out :=
  match issueNext s pe slot with
  | some s => .next (settled s pe slot)
  | none => .next s

/-- A read of the oldest request is answered, by the home or, where the lease rules allow it, by a live copy (R244, R245). -/
def execLoadResponse (pe slot : Nat) (cached : Bool) (s : State) : Out :=
  match performHead s pe slot true cached with
  | some s => .next (settled s pe slot)
  | none => .next s

/-- A write of the oldest request (k = 0), or RED k - 1, is performed (R244, R246, R247). -/
def execStorePerformed (pe slot k : Nat) (s : State) : Out :=
  match (if k = 0 then performHead s pe slot false false else performRedAt s pe slot (k - 1)) with
  | some s => .next (settled s pe slot)
  | none => .next s

/-- Whether a port of a PE is bound with the control plane to some task there (R145). -/
def controlPort (s : State) (pos n : Nat) : Bool :=
  s.cores.tasks.any (fun t => t.pos = pos && t.ports.any (fun p => p.num = n && p.plane = .ctl))

/-- AMOD delivery k: the old value goes to its port, or the token is dropped with a noted record; or it is stored at the line's
home, following a moved line, whose ninth redirect ends the configuration (R347, R367), or refused there with a noted record when its line
has become a live header (R148, log 46) (R145). -/
def execAmodDelivery (k : Nat) (s : State) : Out :=
  match s.eng.deliveries[k]? with
  | none => .next s
  | some d =>
    let held := s
    let s := { s with eng := { s.eng with deliveries := dropAt k s.eng.deliveries } }
    let dest := d.word.toNat % 2 ^ 56
    if bits d.word.toNat 63 62 = 1 then
      let pos := dest % 2 ^ 16
      let n := bits dest 21 16
      if controlPort s pos n && (s.input? (portEp pos n)).isSome then
        .next (s.mapInput (portEp pos n) (fun i => i.put s.ctl.now (scalar (BitVec.ofNat 64 d.value)) false))
      else
        .next (notedFault s d.cid { code := 0x12, sub := 5, idx := 0xFF, blk := 0xFFFFFFFF, tile := pos
                                    addr := BitVec.ofNat 64 dest })
    else
      match followMoves s 8 d.key with
      | none => .next (confFault s d.cid { code := 0x15, sub := 4, tile := d.pos, slot := d.slot, idx := 0xFF, addr := BitVec.ofNat 64 dest })
      | some key =>
        if !mayPass held key 5 d.id then .next (parkAt held key 5 d.id)
        else if liveHeader s key then
          .next (notedFault s d.cid { code := 0x12, sub := 4, idx := 0xFF, blk := 0xFFFFFFFF, addr := BitVec.ofNat 64 dest })
        else
          let s := unpark s key 5 d.id
          let mine : Bool := s.cores.tasks.any (fun t => t.cid = d.cid && t.pos = d.pos && t.slot = d.slot)
          let s := s.confLag d.cid [lineOf key]
          let s := if mine then s.mapTask d.pos d.slot (fun t => { t with lag := t.lag ++ lagOf s d.id [lineOf key] }) else s
          let (s, p) := homeStore s (whoOf d.pad d.ten) key (toBytes d.size d.value) 0
          .next (match s.task? d.pos d.slot with | some t => if t.cid = d.cid then addOwed (setRedPts s t p) t key else s | none => s)

/-- A partial line evicted from its slice goes home and is applied (R241); it parks there while its row is empty (R321). -/
def execPartialLineEvict (k : Nat) (s : State) : Out :=
  match s.mem.partials[k]? with
  | none => .next s
  | some p =>
    let id := 4 * p.line + p.die
    if !mayPass s (p.line * 64) 6 id then
      .next (parkAt { s with mem := { s.mem with partials := s.mem.partials.set k { p with placed := false } } } (p.line * 64) 6 id)
    else
      let s := unpark s (p.line * 64) 6 id
      .next (applyPartial { s with mem := { s.mem with partials := dropAt k s.mem.partials } } p)

/-- A timestamp after a rise by 1 and a free value more: any that is higher, and the highest stays (R244). Log 8. -/
def risenPts (p : Word) (r : Nat) : Word :=
  if p.toNat = 2 ^ 64 - 1 then p else BitVec.ofNat 64 (p.toNat + 1 + r % (2 ^ 64 - 1 - p.toNat))

/-- Every slot's timestamp rises by at least one (R244, log 8). -/
def risePts (s : State) : State :=
  let (n, s) := s.draw
  { s with cores := { s.cores with tasks := s.cores.tasks.map (fun t => { t with pts := risenPts t.pts (Config.ptsRise n) }) } }

/-- PTS_TICK (R244). -/
def execPtsTick (s : State) : Out := .next (risePts s)

/-- Copies of a line stop being live 4,096 cycles after their grant, and writes that waited for them are performed (R245,
R246). -/
def execLeaseExpiry (line : Nat) (s : State) : Out :=
  let s := { s with mem := { s.mem with copies := s.mem.copies.filter (fun c => c.line ≠ line || s.ctl.now < c.granted + 4096) } }
  .next { s with
    cores := { s.cores with tasks := s.cores.tasks.map (fun t =>
      { t with lag := t.lag.filter (fun l => l.line ≠ line || leaseLive s l.line l.at_) }) }
    ten := { s.ten with posted := s.ten.posted.filter (fun x => x.2.2.line ≠ line || leaseLive s x.2.2.line x.2.2.at_) } }

/-- REDIRECT (R367). -/
def execRedirect (pe slot : Nat) (s : State) : Out :=
  match redirectOne s pe slot with
  | some s => .next (settled s pe slot)
  | none => .next s

end Sys2Proof.Machine
end

