-- ==== Sys2Proof/Machine/Issue.lean ====
section
/-! DEFINITION. Which instructions of a PE issue in a cycle, and in which order (R18, R19, R65, R115, R134, R178, R205, R386). -/

namespace Sys2Proof.Machine

/-! ### The order of blocks (R178) -/

/-- Puts a block into a list in the order of R178: by priority, then by dispatch. -/
def insertBlock (x : Task × Frame) : List (Task × Frame) → List (Task × Frame)
  | [] => [x]
  | y :: ys =>
    if y.1.prio < x.1.prio ∨ (x.1.prio = y.1.prio ∧ x.2.order ≤ y.2.order) then x :: y :: ys else y :: insertBlock x ys

/-- Running blocks in the order of R178. -/
def blockOrder (s : State) : List (Task × Frame) :=
  (s.cores.tasks.filterMap (fun t => t.frame.map (fun f => (t, f)))).foldr insertBlock []

/-! ### Barriers (R205) -/

/-- A barrier of a PE; one that nothing has touched holds the values of R179 step 3 (R205). -/
def State.bar (s : State) (pos n : Nat) : Bar :=
  (s.cores.bars.find? (fun b => b.pos = pos && b.num = n)).getD
    { pos := pos, num := n, count := 1, arr := 0, phase := 0, rem := false, recs := [], touched := 0, turn := 0, pts := 0, past := 0 }

def State.setBar (s : State) (b : Bar) : State :=
  { s with cores := { s.cores with bars := upsert (fun x => x.pos = b.pos && x.num = b.num) b s.cores.bars } }

/-- The barrier of its PE that an instruction touches (R205). -/
def barrierOf : Instr → Option Nat
  | .arrive b _ _ | .arriveRlx b _ _ | .wait b _ _ | .barcfg b _ _ => some b.toNat
  | _ => none

/-- The turn of an instruction of a block among the events of one cycle: priority, dispatch, index (R178). -/
def turnOf (t : Task) (f : Frame) (idx : Nat) : Nat := (3 - t.prio) * 2 ^ 96 + f.order * 64 + idx

/-- The turn of a remote arrival: after every local event of its cycle (R205). -/
def remoteTurn : Nat := 2 ^ 99

/-- An event may touch a barrier in this cycle: none with a later turn has touched it in this cycle (R205). -/
def State.barOpen (s : State) (pos n turn : Nat) : Bool := (s.bar pos n).touched ≠ s.ctl.now || (s.bar pos n).turn ≤ turn

/-- Notes the turn of an event that has touched a barrier. -/
def State.touchBar (s : State) (pos n turn : Nat) : State :=
  let b := s.bar pos n
  if b.touched = s.ctl.now ∧ turn ≤ b.turn then s else s.setBar { b with touched := s.ctl.now, turn := turn }

/-! ### The issue mix (R19, R115, R134, R386) -/

/-- The issue mix of a PE in this cycle. -/
def State.mix (s : State) (pos : Nat) : Mix :=
  match s.cores.mixes.find? (fun m => m.pos = pos) with
  | some m => if m.at_ = s.ctl.now then m else { m with at_ := s.ctl.now, used := [] }
  | none => { pos := pos, at_ := s.ctl.now, used := [], divTill := 0, rootTill := 0, vecTill := 0 }

/-- The operations of a class that one cycle takes (R19). -/
def classBudget : IssueClass → Nat
  | .control => 2
  | _ => 1

/-- The unit that a firing needs (R115, R134): one that fires as null computes nothing and needs none (R22). Log 51. -/
def unitOf (i : Instr) (null : Bool) : Option LongUnit := if null then none else i.longUnit

/-- The mix has room for an instruction, and the unit that it needs is free (R19, R115, R134). -/
def Mix.takes (m : Mix) (i : Instr) (null : Bool) : Bool :=
  (m.used.filter (· == i.issueClass)).length < classBudget i.issueClass &&
  (match unitOf i null with
  | some .divide => m.divTill ≤ m.at_
  | some .root => m.rootTill ≤ m.at_
  | some .vector => m.vecTill ≤ m.at_
  | none => true)

/-- The mix once an instruction of a latency has issued. -/
def Mix.issue (m : Mix) (i : Instr) (null : Bool) (l : Nat) : Mix :=
  let m := { m with used := i.issueClass :: m.used }
  match unitOf i null with
  | some .divide => { m with divTill := m.at_ + l }
  | some .root => { m with rootTill := m.at_ + l }
  | some .vector => { m with vecTill := m.at_ + l }
  | none => m

/-- An instruction of a running block may issue in this cycle: throttling does not skip the cycle (R386), no fault of a lower index has
been raised in it (R65), it is ready, its turn at its barrier has not passed (R205), and the mix takes it. A word that raises
ILLEGAL at its firing takes no place in the mix. -/
def mayIssue (s : State) (t : Task) (f : Frame) (idx : Nat) : Bool :=
  t.st = .running && !t.saved && f.met.isNone && !s.hub.skips s.ctl.now && f.raised.all (fun r => idx < r.idx) && readyAt s t f idx &&
  (match decodeWord (s.insWord t.pos f.hdr idx) with
  | some i => i.badSub.isSome || ((s.mix t.pos).takes i ((f.ins.getD idx Ins.empty).firesNull i) &&
      (barrierOf i).all (fun n => s.barOpen t.pos n (turnOf t f idx)))
  | none => true)

/-- Some instruction of a block may issue in this cycle. -/
def State.issues (s : State) (t : Task) (f : Frame) : Bool := (List.range f.n).any (mayIssue s t f)

/-- The instructions of a PE that may issue in this cycle, in the order of R178: by block, then by index. -/
def issueOrder (s : State) (pos : Nat) : List (Nat × Nat) :=
  ((blockOrder s).filter (fun x => x.1.pos = pos)).flatMap (fun x =>
    ((List.range x.2.n).filter (mayIssue s x.1 x.2)).map (fun k => (x.1.slot, k)))

/-- Some task of a PE has an instruction of a kind that may issue in this cycle. -/
def State.issuesKind (s : State) (pos : Nat) (kind : Task → Frame → Nat → Instr → Bool) : Bool :=
  s.cores.tasks.any (fun t => t.pos = pos && (match t.frame with
    | some f => (List.range f.n).any (fun k => mayIssue s t f k &&
        (match decodeWord (s.insWord t.pos f.hdr k) with | some i => i.badSub.isNone && kind t f k i | none => false))
    | none => false))

/-- A local event of a barrier may still come in this cycle: a remote arrival comes after it (R205). -/
def localBarFirst (s : State) (pos n : Nat) : Bool := s.issuesKind pos (fun _ _ _ i => barrierOf i = some n)

/-- The ring that a well-formed handle names, by cluster and base (R294). -/
def handleKey (h : Word) : Option Nat :=
  let x := h.toNat
  if bits x 63 56 = 0xFE && bits x 55 55 = 1 && bits x 54 48 = 0 && bits x 31 20 = 0 && bits x 19 0 % 64 = 0 && isPe (bits x 47 32) then
    some (clusterOf (bits x 47 32) * 2 ^ 20 + bits x 19 0)
  else none

/-- What the PEs of a cluster ask for in a fixed order within one cycle: a bank (R219), the next slot of a ring (R296). -/
def clusterAsk (i : Instr) (x : Ins) : Option (Nat × Nat) :=
  match i with
  | .bmode _ _ => some (0, x.wa.toNat)
  | .rbwait _ _ _ => (handleKey x.wa).map (fun k => (1, k))
  | _ => none

/-- An instruction of another PE of the cluster, earlier in the order of R219 and R296, may still issue in this cycle and asks for the same
bank or slot. -/
def clusterFirst (s : State) (pos : Nat) (i : Instr) (x : Ins) : Bool :=
  (clusterAsk i x).isSome && (s.cores.tasks.map (·.pos)).any (fun p => clusterOf p = clusterOf pos && inCluster p < inCluster pos &&
    s.issuesKind p (fun _ f k j => !(f.ins.getD k Ins.empty).firesNull j && clusterAsk j (f.ins.getD k Ins.empty) = clusterAsk i x))

end Sys2Proof.Machine
end

