-- ==== Sys2Proof/Machine/Wire.lean ====
section
/-! DEFINITION. Tokens on the wire (R168 to R172): the flits that a sender makes of a token, and what a receiver makes of the
flits at the head of a link; the route of a link and its hops (R164, R349). -/

namespace Sys2Proof.Machine

/-! ### Sending -/

/-- The sideband of a data flit: FORM, LAST, VC and NUL (R168). -/
def sideband (form last vc nul : Nat) : BitVec 16 := BitVec.ofNat 16 (form * 2 ^ 14 + last * 2 ^ 13 + vc * 2 ^ 10 + nul * 2 ^ 9)

/-- The 16-bit elements of a token that are not 0, in rising order (R169). -/
def nonZeros (v : Vec) : List Nat := (lanes 16 v).filter (· ≠ 0)

/-- The mask of a token: bit i is set when element i is not 0 (R170). -/
def elementMask (v : Vec) : Nat := packNat 1 ((lanes 16 v).map (fun x => if x = 0 then 0 else 1))

/-- The flits of a data token after the previous one on its link (R168 to R170). -/
def dataFlits (vc : Nat) (last : Option Vec) (t : Tok) : List Flit :=
  match t with
  | .data v _ =>
    let xs := nonZeros v
    let head : BitVec 256 := BitVec.ofNat 256 (elementMask v + 2 ^ 32 * packNat 16 (xs.take 14))
    if last = some v then [.data (sideband 2 1 vc 0) 0]
    else if xs.length ≤ 14 then [.data (sideband 1 1 vc 0) head]
    else if xs.length ≤ 30 then
      [.data (sideband 1 0 vc 0) head, .data (sideband 1 1 vc 0) (BitVec.ofNat 256 (packNat 16 (xs.drop 14)))]
    else [.data (sideband 0 0 vc 0) (v.truncate 256), .data (sideband 0 1 vc 0) ((v >>> 256).truncate 256)]
  | _ => [.data (sideband 1 1 vc 1) 0]

/-- The one flit of a control token (R172). -/
def ctlFlit (t : Tok) : Flit := if t.isNull then .ctl 2 0 else .ctl 0 t.word

/-- A marker flit of a plane (R168, R172, R351). -/
def markerFlit (p : PortPlane) (vc : Nat) : Flit :=
  match p with
  | .data => .data (sideband 3 1 vc 0) 0
  | _ => .ctl 12 0

/-! ### Receiving -/

/-- What a receiver makes of the flits at the head of a link: a token, in its number of data flits, or a marker, with the flits
behind it; nothing while a flit of it is missing; or a flit that the formats do not allow (R168, R172). -/
inductive Wire where
  | token (t : Tok) (flits : Nat) (rest : List Flit)
  | marker (rest : List Flit)
  | nothing
  | bad
  deriving DecidableEq, Repr

/-- Places the elements of a masked token at the set bits of its mask, from element `i` on (R170). -/
def placeElements (mask : Nat) : Nat → Nat → List Nat → List Nat
  | _, 0, _ => []
  | i, n + 1, xs =>
    if mask / 2 ^ i % 2 = 1 then xs.headD 0 :: placeElements mask (i + 1) n xs.tail else 0 :: placeElements mask (i + 1) n xs

/-- The 16-bit elements of a flit. -/
def flitElements (b : BitVec 256) : List Nat := (List.range 16).map (fun i => b.toNat / 2 ^ (16 * i) % 2 ^ 16)

/-- The number of elements that a mask announces. -/
def maskCount (m : Nat) : Nat := ((List.range 32).filter (fun i => m / 2 ^ i % 2 = 1)).length

/-- The second flit of a two-flit token of a form: its last, on the same channel. -/
def secondFlit (form vc : Nat) : List Flit → Option (Option (BitVec 256) × List Flit)
  | [] => none
  | .data side b :: rest => some (if side = sideband form 1 vc 0 then some b else none, rest)
  | _ :: rest => some (none, rest)

/-- What the receiver of a data link, which last heard a given token, makes of its flits. -/
def takeData (heard : Option Vec) : List Flit → Wire
  | [] => .nothing
  | .ctl _ _ :: _ => .bad
  | .data side b :: rest =>
    let w := side.toNat
    let form := w / 2 ^ 14
    let last := bits w 13 13
    let vc := bits w 12 10
    let mask := b.toNat % 2 ^ 32
    if bits w 8 0 ≠ 0 then .bad
    else if bits w 9 9 = 1 then (if form = 1 ∧ last = 1 ∧ b = 0 then .token .null 1 rest else .bad)
    else
      match form, last with
      | 3, 1 => if b = 0 then .marker rest else .bad
      | 2, 1 => (match heard with | some v => if b = 0 then .token (.data v false) 1 rest else .bad | none => .bad)
      | 1, 1 =>
        if maskCount mask ≤ 14 then .token (.data (pack 16 (placeElements mask 0 32 ((flitElements b).drop 2))) false) 1 rest
        else .bad
      | 1, 0 =>
        (match secondFlit 1 vc rest with
        | none => .nothing
        | some (some c, rest) =>
          if 15 ≤ maskCount mask ∧ maskCount mask ≤ 30 then
            .token (.data (pack 16 (placeElements mask 0 32 ((flitElements b).drop 2 ++ flitElements c))) false) 2 rest
          else .bad
        | some (none, _) => .bad)
      | 0, 0 =>
        (match secondFlit 0 vc rest with
        | none => .nothing
        | some (some c, rest) => .token (.data (BitVec.ofNat 512 (b.toNat + 2 ^ 256 * c.toNat)) false) 2 rest
        | some (none, _) => .bad)
      | _, _ => .bad

/-- What the receiver of a control link makes of its flits (R172). -/
def takeCtl : List Flit → Wire
  | [] => .nothing
  | .data _ _ :: _ => .bad
  | .ctl side x :: rest =>
    match side.toNat with
    | 0 => .token (.ctl x false) 0 rest
    | 2 => if x = 0 then .token .null 0 rest else .bad
    | 12 => .marker rest
    | _ => .bad

/-- What stands at the head of a link for its receiver. -/
def Link.arriving (l : Link) : Wire :=
  match l.plane with
  | .data => takeData l.heard l.flight
  | _ => takeCtl l.flight

/-! ### Routes -/

/-- The place of a row along its column: the north edge, the rows, the south edge (R164). -/
def linePlace (row : Nat) : Nat := if row = 25 then 0 else if row = 26 then 26 else row + 1

/-- The row at a place along a column. -/
def placeRow (p : Nat) : Nat := if p = 0 then 25 else if p = 26 then 26 else p - 1

/-- The distance of two numbers. -/
def apart (a b : Nat) : Nat := max a b - min a b

/-- The hops of a route: along the column, then the row; a die boundary counts as six (R164). -/
def hopCount (a b : Nat) : Nat :=
  apart (linePlace (rowOf a)) (linePlace (rowOf b)) + apart (colOf a) (colOf b) + 5 * apart (dieOf a) (dieOf b)

/-- The numbers from one to another, either way. -/
def stretch (a b : Nat) : List Nat :=
  (List.range (apart a b + 1)).map (fun i => if a ≤ b then a + i else a - i)

/-- The tile boundaries that a route crosses, each by its two tiles in the direction of travel: along the column first, then
along the row (R164, R349). -/
def routeHops (a b : Nat) : List (Nat × Nat) :=
  let tiles := (stretch (linePlace (rowOf a)) (linePlace (rowOf b))).map (fun p => mkPos (colOf a) (placeRow p)) ++
    ((stretch (colOf a) (colOf b)).drop 1).map (fun c => mkPos c (rowOf b))
  tiles.zip (tiles.drop 1)

/-- The hops of a link. -/
def Link.route (l : Link) : List (Nat × Nat) := routeHops l.src.pos l.dst.pos

end Sys2Proof.Machine
end

