-- ==== Sys2Proof/Machine/Fabric.lean ====
section
/-! DEFINITION. Links and ports (R162 to R173), receiving (R123, R204), barriers (R205 to R209), index ranges and stealing (R210,
R211), and the life of a block: wake, dispatch, completion, watchdog (R14 to R17, R25 to R28, R65, R102, R176, R177). -/

namespace Sys2Proof.Machine

/-! ### Links -/

/-- Whether a link can take one more token or pulse (R163, R173). -/
def linkOpen (s : State) (l : Link) : Bool :=
  match l.plane with
  | .pulse => (match s.input? l.dst with | some i => i.pulses | none => 0) + l.pulses < 255
  | _ => 0 < l.credits

/-- A token enters a link (R163, R168, R169, R171, R172); on a pulse link it is one pulse. -/
def Link.push (l : Link) (t : Tok) : Link :=
  match l.plane with
  | .pulse => if t.isNull then l else { l with pulses := l.pulses + 1 }
  | .ctl => { l with credits := l.credits - 1, flight := l.flight ++ [ctlFlit t] }
  | .data =>
    let fs := dataFlits l.vc l.last t
    let form (n : Nat) : Nat := (fs.filter (fun x => match x with | .data side _ => side.toNat / 2 ^ 14 = n | _ => false)).length
    { l with
      credits := l.credits - 1
      flight := l.flight ++ fs
      last := if t.isNull then l.last else some t.vec
      raw := l.raw + form 0
      masked := l.masked + form 1
      repeats := l.repeats + form 2 }

/-- A marker enters a link: it takes no credit and ends the repeat state (R351). -/
def Link.mark (l : Link) : Link := { l with flight := l.flight ++ [markerFlit l.plane l.vc], last := none }

/-- Notes that something of a configuration moved (R182). -/
def State.touch (s : State) (cid : Nat) : State := s.mapConf cid (fun c => { c with moved := s.ctl.now })

/-- Sends a token from an endpoint into every link it feeds, when each has credit (R163); what no link names is discarded
(R185). The number of data flits sent. -/
def sendOn (s : State) (e : Ep) (t : Tok) : Option (State × Nat) :=
  let ls := s.outLinks e
  if ls.all (linkOpen s) then
    let flits := ls.foldl (fun n l => if l.plane = .data then n + (dataFlits l.vc l.last t).length else n) 0
    let s := { s with fab := { s.fab with links := s.fab.links.map (fun l => if l.src = e then l.push t else l) } }
    some ((match ls with | l :: _ => s.touch l.cid | [] => s), flits)
  else none

/-- Removes the oldest token of an input; a token that came over the link gives its credit back (R164). -/
def takeToken (s : State) (e : Ep) : Option (Tok × State) :=
  match s.input? e with
  | none => none
  | some i =>
    match i.toks with
    | [] => none
    | (t, linked) :: rest =>
      let s := s.mapInput e (fun i => { i with toks := rest, came := i.came.drop 1 })
      some (t, if linked then
          { s with fab := { s.fab with links := s.fab.links.map (fun l => if l.dst = e then { l with returning := l.returning + 1 } else l) } }
        else s)

/-- The oldest token of an input. -/
def peekToken (s : State) (e : Ep) : Option Tok :=
  match s.input? e with
  | some i => i.toks.head?.map (·.1)
  | none => none

/-- Replaces link `l` of the list. -/
def State.setLink (s : State) (l : Nat) (x : Link) : State := { s with fab := { s.fab with links := s.fab.links.set l x } }

/-- The part that an endpoint belongs to has saved its state in a drain (R351). -/
def partSaved (s : State) (cid : Nat) (e : Ep) : Bool :=
  match e.cls with
  | .pe => s.cores.tasks.any (fun t => t.pos = e.pos && (t.port? e.idx).isSome && t.saved)
  | .elem => s.fab.elems.any (fun x => x.pos = e.pos && x.slot = e.idx / 8 && x.saved)
  | .engine =>
    s.eng.tiles.any (fun t => t.pos = e.pos && t.saved) ||
    (match s.conf? cid with | some c => c.drain.any (fun d => d.edges.contains e.pos) | none => false)

/-- An uncorrectable error on a hop of a link (R349): every configuration with a link through the hop ends, and no work is placed
on the hop again. Which hop of the route it is, the spec leaves to the fault: a free choice. Log 48. -/
def linkError (s : State) (x : Link) : State :=
  let (n, s) := s.draw
  match x.route[Config.victim n % x.route.length]? with
  | none => confFault s x.cid { code := 0x16, sub := 7, tile := x.dst.pos }
  | some hop =>
    let hit := (s.fab.links.filter (fun y => y.route.contains hop)).map (·.cid)
    let s := { s with fab := { s.fab with badHops := s.fab.badHops ++ [hop] } }
    (s.fab.confs.filter (fun c => hit.contains c.cid)).foldl
      (fun s c => confFault s c.cid { code := 0x16, sub := 7, tile := hop.2 }) s

/-- A flit of link l fails its CRC eight times (R349). -/
def execLinkFlitError (l : Nat) (s : State) : Out :=
  match s.fab.links[l]? with
  | none => .next s
  | some x => .next (linkError s x)

/-- A token that link l delivers (R166): it stands in its consumer's buffer; at a port of a task its flits are counted (R113,
R171). Behind a marker it is recorded as channel state (R351). -/
def arriveTok (s : State) (l : Nat) (x : Link) (t : Tok) (n : Nat) (rest : List Flit) : State :=
  let heard := match t with | .data v _ => some v | _ => x.heard
  let s := (s.setLink l { x with flight := rest, heard := heard }).touch x.cid
  let s := s.mapInput x.dst (fun i =>
    if i.marker || partSaved s x.cid x.dst then { i with chan := i.chan ++ [t] } else i.put s.ctl.now t true)
  { s with cores := { s.cores with tasks := s.cores.tasks.map (fun t =>
      if t.pos = x.dst.pos ∧ x.dst.cls = .pe ∧ (t.port? x.dst.idx).isSome then t.count 6 n else t) } }

/-- The flits at the head of link l reach its consumer as a token (R166, R168 to R172), or are not allowed (R349). -/
def execTokenArrive (l : Nat) (s : State) : Out :=
  match s.fab.links[l]? with
  | none => .next s
  | some x =>
    match x.arriving with
    | .token t n rest => .next (arriveTok s l x t n rest)
    | .bad => .next (linkError s x)
    | _ => .next s

/-- An input gives nothing more to a frame or task of an identifier: a marker came before it (R351, R352). -/
def Input.shut (i : Input) (id : Nat) : Bool := i.marker && !i.cyc && i.markedAt ≤ id

/-- A returned credit reaches the producer of link l (R164). -/
def execCreditReturn (l : Nat) (s : State) : Out :=
  match s.fab.links[l]? with
  | none => .next s
  | some x =>
    if x.returning = 0 then .next s
    else .next (s.setLink l { x with returning := x.returning - 1, credits := min x.depth (x.credits + 1) })

/-- A pulse in flight on link l reaches its consumer (R173). -/
def execPulseArrive (l : Nat) (s : State) : Out :=
  match s.fab.links[l]? with
  | none => .next s
  | some x =>
    if x.pulses = 0 then .next s
    else
      let s := (s.setLink l { x with pulses := x.pulses - 1 }).touch x.cid
      .next (s.mapInput x.dst (fun i => { i with pulses := i.pulses + 1 }))

/-- Accepts the k-th waiting send of a block when every link has credit (R27, R163): it is an output; one too many is not
produced and raises (R28, R65). None while it waits. Of two sends to one port that have reached it the lower index goes first. -/
def acceptSend (s : State) (pos slot k : Nat) : Option State :=
  match s.task? pos slot with
  | none => none
  | some t =>
    match t.frame with
    | none => none
    | some f =>
      match f.sends[k]? with
      | none => none
      | some p =>
        if f.sends.any (fun q => q.port = p.port && q.idx < p.idx) || (f.sends.take k).any (fun q => q.port = p.port && q.idx = p.idx) then none
        else
          match sendOn s (portEp pos p.port) p.tok with
          | none => none
          | some (s', n) =>
            match f.output p.idx with
            | .error e => some (s.setFrame t ({ f with sends := dropAt k f.sends }.raiseFault e))
            | .ok f => some (s'.setFrame (t.count 5 n) { f with sends := dropAt k f.sends })

/-- LINK_SEND_ACCEPT (R163). -/
def execLinkSendAccept (pe slot k : Nat) (s : State) : Out :=
  match acceptSend s pe slot k with
  | some s => .next s
  | none => .next s

/-! ### Receiving -/

/-- A token of a matrix tile joins the commands behind it (R253). -/
def Task.joinPort (t : Task) (s : State) (e : Ep) : Task :=
  match s.fab.links.find? (fun l => l.dst = e && l.src.cls = .engine) with
  | some l => (match s.eng.tiles.find? (fun x => x.pos = l.src.pos) with | some x => t.raisePts x.pts | none => t)
  | none => t

/-- RECV and VRECV (R123, R167, R199, R204): misuse of the port, then the oldest token; they wait while the port is empty or shut
by a marker (R351), in the order they fired. A port of the wrong plane that is also an output raises ILLEGAL: log 46. -/
def fireReceive (i : Instr) (n : Nat) (peek data : Bool) (s : State) : Out :=
  fireWaiting i s
    (fun s t _ idx _ =>
      match t.port? n with
      | none => some { code := 0x01, sub := 2, idx := idx }
      | some p =>
        if s.isOutput (portEp t.pos n) || (!data && t.isStealPort n) then some { code := 0x01, sub := 2, idx := idx }
        else if (p.plane = .data) ≠ data then some { code := 0x02, sub := 3, idx := idx }
        else none)
    (fun _ _ _ => .port n)
    (fun s t f idx _ _ before =>
      if before.any (fun w => w.kind = .port n) then none
      else
        let e := portEp t.pos n
        match s.input? e with
        | none => none
        | some q =>
          if q.shut f.id then none
          else if q.plane = .pulse then
            if q.pulses = 0 then none
            else some (if peek then s else s.mapInput e (fun q => { q with pulses := q.pulses - 1 }), t, f.putAll idx trigger i.targets)
          else if peek then (peekToken s e).map (fun k => (s, t.joinPort s e, f.putAll idx k i.targets))
          else (takeToken s e).map (fun r => (r.2, t.joinPort s e, f.putAll idx r.1 i.targets)))

/-- RECV (R204). -/
def execRecv (p : BitVec 6) (e : BitVec 1) (t u : BitVec 9) (s : State) : Out :=
  fireReceive (.recv p e t u) p.toNat (e = 1) false s

/-- VRECV (R123). -/
def execVrecv (p : BitVec 6) (e : BitVec 1) (t u : BitVec 9) (s : State) : Out :=
  fireReceive (.vrecv p e t u) p.toNat (e = 1) true s

/-! ### Barriers -/

/-- Completes the phase when the arrivals have reached the count (R205); what they released, a WAIT for it follows (R208, R253). -/
def Bar.check (b : Bar) : Bar :=
  if b.count ≤ b.arr then { b with arr := 0, phase := (b.phase + 1) % 2 ^ 32, past := max b.past b.pts, pts := 0 } else b

/-- One more arrival, which releases what stands in T up to a timestamp (R205, R253). -/
def Bar.arrive (b : Bar) (pts : Nat) : Bar := { b with arr := b.arr + 1, pts := max b.pts pts }.check

/-- One arrival, and the phase it is counted in (R205). -/
def arriveAt (s : State) (pos n pts : Nat) : State × Nat :=
  let b := s.bar pos n
  (s.setBar (b.arrive pts), b.phase)

/-- A remote arrival is applied at its barrier, after the local events of its cycle (R205, R209). -/
def remoteArrive (s : State) (pos n pts : Nat) : State := (arriveAt s pos n pts).1.touchBar pos n remoteTurn

/-- Sets or clears the record of a slot (R205). -/
def Bar.record (b : Bar) (slot : Nat) (p : Option Nat) : Bar :=
  let rest := b.recs.filter (fun r => r.1 ≠ slot)
  { b with recs := match p with | some p => rest ++ [(slot, p)] | none => rest }

/-- A local arrival of a task, with its record and result (R207). -/
def localArrive (i : Instr) (n pts : Nat) (s : State) (t : Task) (f : Frame) (idx : Nat) : State × Task × Except Raise Frame :=
  let (s, p) := arriveAt s t.pos n pts
  let s := s.setBar ((s.bar t.pos n).record t.slot (some p))
  (s, t, f.putAll idx (scalar (BitVec.ofNat 64 p)) i.targets)

/-- ARRIVE is counted when every memory operation issued before it fired is performed at paddock scope (R207). -/
def execArrive (b : BitVec 7) (t u : BitVec 9) (s : State) : Out :=
  let i := Instr.arrive b t u
  fireWaiting i s (fun _ _ _ _ _ => none) (fun s _ _ => .order s.ctl.ids) (fun s t f idx _ k _ =>
    match k with
    | .order upto => if performedUpto s t upto then some (localArrive i b.toNat (s.basePts t) s (s.ordered t) f idx) else none
    | _ => none)

/-- ARRIVE.RLX (R207). -/
def execArriveRlx (b : BitVec 7) (t u : BitVec 9) (s : State) : Out :=
  let i := Instr.arriveRlx b t u
  fireWith i s (fun _ => i.targets) (passNull i) (fun s t f idx _ => localArrive i b.toNat 0 s t f idx)

/-- WAIT: the recorded phase, or the current one, once it has completed; the record is cleared, and the task's later accesses follow what
the arrivals have released (R208, R253). -/
def execWait (b : BitVec 7) (t u : BitVec 9) (s : State) : Out :=
  let i := Instr.wait b t u
  let n := b.toNat
  fireWaiting i s (fun _ _ _ _ _ => none)
    (fun s t _ =>
      let x := s.bar t.pos n
      .phase n (match x.recs.find? (fun r => r.1 = t.slot) with | some r => r.2 | none => x.phase))
    (fun s t f idx _ k _ =>
      let b := s.bar t.pos n
      match k with
      | .phase _ p =>
        if b.phase = p then none
        else some (s.setBar (b.record t.slot none), t.raisePts b.past, f.putAll idx (scalar (BitVec.ofNat 64 p)) i.targets)
      | _ => none)

/-- The waiting instructions of a frame that are WAITs on a barrier go: each sends the phase that it waits on, one latency later (R206,
R391). -/
def letGo (t : Task) (f : Frame) (n : Nat) : List Wait → State × Frame → State × Frame
  | [], r => r
  | w :: ws, (s, g) =>
    match w.kind with
    | .phase m p =>
      if m ≠ n then letGo t f n ws (s, g)
      else
        let (l, s') := s.nextLat
        letGo t f n ws (s', match { g with till := s.ctl.now + l }.putAll w.idx (scalar (BitVec.ofNat 64 p)) (s.targetsAt t f w.idx) with
          | .ok g' => { g' with till := f.till }
          | .error _ => g)
    | _ => letGo t f n ws (s, g)

/-- A WAIT on a barrier. -/
def Wait.onPhase (w : Wait) (n : Nat) : Bool := match w.kind with | .phase m _ => m = n | _ => false

/-- Lets the WAITs of a task go that are pending on a barrier. -/
def releaseTask (s : State) (t : Task) (n : Nat) : State × Task :=
  match t.frame with
  | none => (s, t)
  | some f =>
    let r := letGo t f n f.waits (s, { f with waits := f.waits.filter (fun w => !w.onPhase n) })
    (r.1, { t with frame := some r.2 })

/-- Lets the WAITs of the tasks of a PE go, task after task. -/
def releaseTasks (pos n : Nat) : List Task → State × List Task → State × List Task
  | [], r => r
  | t :: ts, (s, done) =>
    let r := if t.pos = pos then releaseTask s t n else (s, t)
    releaseTasks pos n ts (r.1, done ++ [r.2])

/-- Every WAIT pending on a barrier of a PE fires at once with the phase it waits on (R206). -/
def releaseWaits (s : State) (pos n : Nat) : State :=
  let r := releaseTasks pos n s.cores.tasks (s, [])
  { r.1 with cores := { r.1.cores with tasks := r.2 } }

/-- BARCFG (R206). -/
def execBarcfg (b : BitVec 7) (t u : BitVec 9) (s : State) : Out :=
  let i := Instr.barcfg b t u
  let n := b.toNat
  fireWith i s (fun _ => i.targets) (passNull i) (fun s t f idx x =>
    let fl := x.wb.toNat
    if 4 ≤ fl then (s, t, .error { code := 0x01, sub := 2, idx := idx })
    else
      let c := x.wa.toNat % 2 ^ 16
      let reset := fl % 2 = 1
      let s := s.setTask { t with frame := some f }
      let s := if reset then releaseWaits s t.pos n else s
      let old := s.bar t.pos n
      let old := if reset then { old with arr := 0, phase := 0, recs := [], pts := 0 } else old
      let new : Bar := { old with count := if c = 0 then 65536 else c, rem := fl / 2 = 1 }
      let s := s.setBar new.check
      match s.task? t.pos t.slot with
      | some t => match t.frame with
        | some f => (s, t, f.putAll idx trigger i.targets)
        | none => (s, t, .ok f)
      | none => (s, t, .ok f))

/-- RARRIVE: the word's checks, the release for sem 0, then the arrival goes on its way; the trigger follows its application
(R209). -/
def execRarrive (e : BitVec 2) (t u : BitVec 9) (s : State) : Out :=
  let i := Instr.rarrive e t u
  fireWaiting i s
    (fun s t _ idx x =>
      let w := x.wa.toNat
      if w / 2 ^ 23 ≠ 0 ∨ !padPe s t.part.toNat (w % 2 ^ 16) then some { code := 0x12, sub := 9, idx := idx, addr := x.wa } else none)
    (fun s _ _ => .order (if e = 1 then 0 else s.ctl.ids))
    (fun s t f idx x k _ =>
      match k with
      | .order upto =>
        if performedUpto s t upto then
          let t := if e = 1 then t else s.ordered t
          let (id, s) := s.newId
          let w := x.wa.toNat
          let a : Arrival := { id := id, target := w % 2 ^ 16, bar := bits w 22 16, cid := t.cid, pos := t.pos, slot := t.slot
                               fid := f.id, idx := idx, pts := if e = 1 then 0 else s.basePts t }
          some ({ s with cores := { s.cores with arrivals := s.cores.arrivals ++ [a] } }, t, .ok (f.wait idx (.arrival id)))
        else none
      | _ => none)

/-- A saved barrier that takes remote arrivals (R353). -/
def Ckpt.hasBar (k : Ckpt) (pos n : Nat) : Bool := k.bars.any (fun b => b.pos = pos && b.num = n && b.rem)

/-- A remote arrival at a saved PE is applied to its saved barrier record (R353). -/
def savedArrive (s : State) (pos n pts : Nat) : State :=
  { s with drv := { s.drv with ckpts := s.drv.ckpts.map (fun k =>
      if within k.conf.strip0 k.conf.strips pos then
        { k with bars := k.bars.map (fun b => if b.pos = pos ∧ b.num = n ∧ b.rem then b.arrive pts else b) }
      else k) } }

/-- Remote arrival k is applied at its target, after the local events of its cycle (R205), or dropped with a noted record; its
trigger is sent (R209). -/
def execRemoteArrivalApply (k : Nat) (s : State) : Out :=
  match s.cores.arrivals[k]? with
  | none => .next s
  | some a =>
    if localBarFirst s a.target a.bar then .next s else
    let s := { s with cores := { s.cores with arrivals := dropAt k s.cores.arrivals } }
    let bound := s.fab.confs.any (fun c => within c.strip0 c.strips a.target)
    let held := !bound && s.drv.ckpts.any (fun k => within k.conf.strip0 k.conf.strips a.target && k.hasBar a.target a.bar)
    let s := if bound && (s.bar a.target a.bar).rem then remoteArrive s a.target a.bar a.pts
      else if held then savedArrive s a.target a.bar a.pts
      else
        let n := match s.cores.dropped.find? (fun d => d.1 = a.target) with | some d => d.2 | none => 0
        let s := { s with cores := { s.cores with dropped := upsert (fun d => d.1 = a.target) (a.target, n + 1) s.cores.dropped } }
        notedFault s a.cid { code := 0x12, sub := 12, tile := a.pos, slot := a.slot, idx := a.idx
                             addr := BitVec.ofNat 64 (a.target + a.bar * 2 ^ 16) }
    match s.task? a.pos a.slot with
    | none => .next s
    | some t =>
      match t.frame with
      | none => .next s
      | some f =>
        if f.id = a.fid && f.waits.any (fun w => w.kind = .arrival a.id) then
          .next (finish s t f ((f.unwait a.idx).putAll a.idx trigger (s.targetsAt t f a.idx)))
        else .next s

/-! ### Ranges and stealing -/

/-- The fields of `x.steal` (R199). -/
def Task.sreq (t : Task) : Nat := bits t.steal.toNat 5 0
def Task.srpy (t : Task) : Nat := bits t.steal.toNat 13 8
def Task.vreq (t : Task) : Nat := bits t.steal.toNat 21 16
def Task.vrpy (t : Task) : Nat := bits t.steal.toNat 29 24
def Task.hops (t : Task) : Nat := bits t.steal.toNat 33 32
def Task.stealing (t : Task) : Bool := bits t.steal.toNat 34 34 = 1

/-- RNEXT: the next index of the range, or one stolen, or null (R210). With HOPS 0, which PUTX alone can give beside EN, its request
allows 0 hops more: R210 does not say what is sent. Log 46. -/
def execRnext (t u : BitVec 9) (s : State) : Out :=
  let i := Instr.rnext t u
  fireWaiting i s (fun _ _ _ _ _ => none) (fun _ _ _ => .steal false) (fun s t f idx _ k before =>
    match k with
    | .steal false =>
      if before.any (fun w => w.kind = .steal true || w.kind = .steal false) || t.steals.any (·.own) then none
      else if t.rnglo.ult t.rnghi then
        some (s, { t with rnglo := t.rnglo + 1 }, f.putAll idx (scalar t.rnglo) i.targets)
      else if !t.stealing then some (s, t, f.putAll idx .null i.targets)
      else
        match sendOn s (portEp t.pos t.sreq) (scalar (BitVec.ofNat 64 (t.hops - 1))) with
        | none => none
        | some (s, _) => some (s, { t with steals := t.steals ++ [{ own := true, lo := none }] }, .ok (f.wait idx (.steal true)))
    | _ => none)

/-- An RNEXT that waits on no reply of its own may go on (R210). -/
def rnextReady (s : State) (t : Task) : Bool :=
  !t.steals.any (·.own) && (t.rnglo.ult t.rnghi || !t.stealing || (s.outLinks (portEp t.pos t.sreq)).all (linkOpen s))

/-- An instruction that waits goes on in this cycle: a WAIT whose phase has completed (R208), the first RNEXT once it may (R210). -/
def waitDue (s : State) (t : Task) (f : Frame) (w : Wait) : Bool :=
  t.st = .running && !t.saved && f.raised.all (fun r => w.idx < r.idx) &&
  (match w.kind with
  | .phase n p => (s.bar t.pos n).phase ≠ p
  | .steal false => f.waits.find? (fun x => match x.kind with | .steal _ => true | _ => false) = some w && rnextReady s t
  | _ => false)

/-- Sends the reply tokens of a task that VRPY has credit for, oldest first (R163, R211). -/
def sendReplies : List Word → State → Task → State
  | [], s, t => s.setTask { t with replies := [] }
  | a :: rest, s, t =>
    match sendOn s (portEp t.pos t.vrpy) (scalar a) with
    | none => s.setTask { t with replies := a :: rest }
    | some (s, _) => sendReplies rest s t

/-- A request on VREQ of a task may be served: it came in an earlier cycle, whose RNEXTs and commits the range has therefore seen (R102,
R211), and the PE serves one in a cycle. -/
def requestHere (s : State) (t : Task) : Bool :=
  !t.steals.any (fun x => !x.own && x.lo.isSome) && s.cores.tasks.all (fun u => u.pos ≠ t.pos || u.served ≠ s.ctl.now) &&
  (match s.input? (portEp t.pos t.vreq) with
  | some i => !i.toks.isEmpty && i.came.headD 0 < s.ctl.now && !i.shut s.ctl.ids
  | none => false)

/-- The range hardware of a task sends what is left of a reply, or serves one request on VREQ (R211): it keeps the lower half
and replies with the upper, passes the request on, or replies empty. A reply being passed on goes first as a whole, and an RNEXT that
waits for SREQ before a request that would take it. None while it can do nothing. -/
def serveSteal (s : State) (t : Task) : Option State :=
  if t.steal.toNat % 2 ^ 32 = 0 || t.saved then none
  else if !t.replies.isEmpty then
    if (s.outLinks (portEp t.pos t.vrpy)).all (linkOpen s) then some (sendReplies t.replies s t) else none
  else if !requestHere s t then none
  else
    match takeToken s (portEp t.pos t.vreq) with
    | none => none
    | some (tok, s1) =>
      let t := { t with served := s.ctl.now }
      let hops := tok.word.toNat % 4
      let lo := t.rnglo.toNat
      let hi := t.rnghi.toNat
      let n := hi - lo
      if t.st = .faulted then some (sendReplies [0, 0] s1 t)
      else if 2 ≤ n then
        let mid := lo + (n + 1) / 2
        some (sendReplies [BitVec.ofNat 64 mid, BitVec.ofNat 64 hi] s1 { t with rnghi := BitVec.ofNat 64 mid })
      else if 0 < hops && t.stealing then
        if t.frame.any (fun f => f.waits.any (fun w => w.kind = .steal false)) && !t.steals.any (·.own) then none
        else
          match sendOn s1 (portEp t.pos t.sreq) (scalar (BitVec.ofNat 64 (hops - 1))) with
          | none => none
          | some (s, _) => some (s.setTask { t with steals := t.steals ++ [{ own := false, lo := none }] })
      else some (sendReplies [0, 0] s1 t)

/-- STEAL_REQUEST (R211): the range hardware of task k acts. -/
def execStealRequest (k : Nat) (s : State) : Out :=
  match s.cores.tasks[k]? with
  | none => .next s
  | some t => .next ((serveSteal s t).getD s)

/-- The whole reply to a task's own steal (R210): its range, and the result of the RNEXT that waits for it. -/
def ownReply (s : State) (t : Task) (lo hi : Word) : State :=
  let got := lo.ult hi
  let t := if got then { t with rnglo := lo + 1, rnghi := hi } else t
  match t.frame with
  | none => s.setTask t
  | some f =>
    match f.waits.find? (fun w => w.kind = .steal true) with
    | none => s.setTask t
    | some w =>
      let tok := if got then scalar lo else Tok.null
      finish s t f ((f.unwait w.idx).putAll w.idx tok (s.targetsAt t f w.idx))

/-- One token of a reply on SRPY of task k: it belongs to the RNEXT that waits for it, or passes on to VRPY unchanged (R210,
R211). -/
def execStealReply (k : Nat) (s : State) : Out :=
  match s.cores.tasks[k]? with
  | none => .next s
  | some t =>
    match (if t.saved then [] else t.steals), takeToken s (portEp t.pos t.srpy) with
    | x :: rest, some (a, s1) =>
      if x.own then
        match x.lo with
        | none => .next (s1.setTask { t with steals := { x with lo := some a.word } :: rest })
        | some lo => .next (ownReply s1 { t with steals := rest } lo a.word)
      else if !t.replies.isEmpty then .next s
      else
        match sendOn s1 (portEp t.pos t.vrpy) a with
        | none => .next s
        | some (s, _) =>
          .next (s.setTask { t with steals := if x.lo.isSome then rest else { x with lo := some a.word } :: rest })
    | _, _ => .next s

/-! ### Blocks -/

/-- A wake port of the task holds a token or a pulse (R15, R173). -/
def wakes (s : State) (t : Task) : Bool :=
  t.ports.any (fun p => p.wake && (match s.input? (portEp t.pos p.num) with
    | some i => (!i.toks.isEmpty || 0 < i.pulses) && !i.shut s.ctl.ids
    | none => false))

/-- The task enters READY (R14, R177). -/
def Task.ready (s : State) (t : Task) : State × Task :=
  let (n, s) := s.newId
  (s, { t with st := .ready, pass := 0, since := n, readyAt := s.ctl.now })

/-- An IDLE or YIELDED task wakes: one that has become so in this cycle does in the next (R14, R15). -/
def Task.mayWake (s : State) (t : Task) : Bool :=
  (t.st = .idle || t.st = .yielded) && !t.saved && (t.readyAt < s.ctl.now || t.readyAt = 0) && wakes s t

/-- A token on a wake port wakes an IDLE or YIELDED task (R14, R15). -/
def execWakeTask (pe slot : Nat) (s : State) : Out :=
  match s.task? pe slot with
  | none => .next s
  | some t =>
    if t.mayWake s then
      let (s, t) := t.ready s
      .next (s.setTask t)
    else .next s

/-- Markers have reached every input of a task that is linked and no cycle input (R351). -/
def taskMarked (s : State) (t : Task) : Bool :=
  s.fab.inputs.all (fun i => !(i.ep.cls = .pe && i.ep.pos = t.pos && (t.port? i.ep.idx).isSome) || i.plane = .pulse || i.cyc || i.marker ||
    s.fab.links.all (fun l => l.dst ≠ i.ep))

/-- The READY task that a PE dispatches next (R177), no earlier than the cycle after it entered READY (R176). -/
def nextReady (s : State) (pe : Nat) : Option Task :=
  -- a task with markers on its inputs dispatches no further block (R352)
  let draining (t : Task) : Bool := match s.conf? t.cid with | some c => c.drain.isSome && taskMarked s t | none => false
  let rs := s.cores.tasks.filter (fun t => t.pos = pe && t.st = .ready && t.readyAt < s.ctl.now && !draining t)
  let aged := rs.filter (fun t => 15 ≤ t.pass)
  let better (a b : Task) : Bool :=
    if a.readyAt ≠ b.readyAt then a.readyAt < b.readyAt else a.slot < b.slot
  let best := rs.foldl (fun m t => max m t.prio) 0
  let pool := if aged.isEmpty then rs.filter (fun t => t.prio = best) else aged
  pool.foldl (fun m t => match m with | none => some t | some x => if better t x then some t else some x) none

/-- The frame of a task's current block at its dispatch (R16, R17). -/
def newFrame (s : State) (t : Task) (id : Nat) : Frame :=
  let h := s.storeWord t.pos t.cur
  let n := h / 2 ^ 26 + 1
  { id := id, hdr := t.cur, n := n, m := bits h 25 21, w := bits h 20 16, at_ := s.ctl.now, order := id, spr := sprAll s t
    g0 := t.g, gpend := t.pending.map (·.1), ins := List.replicate n Ins.empty, outs := 0, gw := [], vw := [], xw := []
    flags := 0, narrowed := false, exit := none, bkpt := none, chain := [], sends := [], waits := [], paused := 0
    flying := [], till := s.ctl.now, raised := none, shut := false, met := none }

/-- A PE has a free frame (R176). -/
def State.frameFree (s : State) (pe : Nat) : Bool := (s.cores.tasks.filter (fun t => t.pos = pe && t.frame.isSome)).length < 4

/-- A PE with a free frame dispatches a READY task (R176, R177). Counter 3 counts every cycle from the one in which it became READY to
this one: R113 leaves open whether the first counts. Log 46. -/
def execBlockDispatch (pe : Nat) (s : State) : Out :=
  if !s.frameFree pe then .next s
  else
    match nextReady s pe with
    | none => .next s
    | some t =>
      let (id, s) := s.newId
      let f := newFrame s t id
      .next (s.setTask { (t.count 3 (s.ctl.now - t.readyAt)) with st := .running, frame := some f })

/-- A GET of the frame is held back by a copy (R289). -/
def State.heldGet (s : State) (t : Task) (f : Frame) : Bool :=
  (List.range f.n).any (fun k => (f.ins.getD k Ins.empty).fired == .notYet &&
    (match decodeWord (s.insWord t.pos f.hdr k) with | some i => f.holdsBack i | none => false))

/-- A block is quiescent (R28); one with a GET that a copy holds back waits for it (R289, log 46). -/
def quiescent (s : State) (t : Task) (f : Frame) : Bool :=
  (List.range f.n).all (fun k => !readyAt s t f k) && f.flying.isEmpty && !s.heldGet t f &&
  f.waits.isEmpty && f.sends.isEmpty && f.nextOp.isNone &&
  f.chain.all (fun o => o.st = .waiting || o.resolved) && t.queue.all (fun r => r.fid ≠ f.id) && t.reds.all (fun r => r.fid ≠ f.id)

/-- The write of the highest instruction index to a register (R26). -/
def lastWrite {α : Type} (ws : List (Nat × Nat × α)) (r : Nat) : Option α :=
  (ws.foldl (fun (m : Option (Nat × α)) w =>
    if w.2.1 ≠ r then m else match m with | some x => if x.1 ≤ w.1 then some (w.1, w.2.2) else m | none => some (w.1, w.2.2))
    none).map (·.2)

/-- Commits register writes. -/
def commitWrites {α : Type} {n : Nat} (ws : List (Nat × Nat × α)) (v : Vector α n) : Vector α n :=
  ws.foldl (fun v w => match lastWrite ws w.2.1 with | some x => v.set! w.2.1 x | none => v) v

/-- What commits at completion (R26, R102): `g` and `v` writes, PUTX writes, the link write of a call, the flags and the
narrowing bit. A send that still waits for credit in its output buffer when W other outputs are there goes with the frame: R25 to R27 drop
tokens of slots alone and do not say. Log 46. -/
def commitBlock (t : Task) (f : Frame) : Task :=
  let t := { t with g := commitWrites f.gw t.g, v := commitWrites f.vw t.v, frame := none }
  let t := f.xw.foldl (fun t w => match lastWrite f.xw w.2.1 with | some x => sprWrite t w.2.1 x | none => t) t
  let t := match f.exit with
    | some e => if e.kind = ExitKind.call then { t with lnk := BitVec.ofNat 64 (f.hdr + f.n + 1) } else t
    | none => t
  { t with flg := t.flg ||| BitVec.ofNat 64 f.flags, scope := if t.narrowedBy f then t.scope ||| 1 else t.scope }

/-- Other READY tasks of the PE pass once more (R177). -/
def passOthers (s : State) (t : Task) : State :=
  { s with cores := { s.cores with tasks := s.cores.tasks.map (fun u =>
      if u.pos = t.pos ∧ u.slot ≠ t.slot ∧ u.st = .ready then { u with pass := min 15 (u.pass + 1) } else u) } }

/-- COMPLETES a block whose three conditions hold (R25, R26, R176): it commits, then its exit takes effect, or the fault of a
TRAP or BKPT is taken (R95, R96). -/
def completeBlock (s : State) (t : Task) (f : Frame) (e : Exit) : State :=
  let t := (commitBlock t f).count 0
  let s := passOthers s t
  if e.kind = .trap then takeFault s t f.hdr { code := 0x30, sub := 0, idx := e.idx, extra := e.code }
  else
    let (s, t) := match e.kind with
      | .ybr => (s, { t with st := .yielded, cur := e.target, readyAt := s.ctl.now })
      | .tend => (s, { t with st := .idle, cur := t.entry, readyAt := s.ctl.now })
      | _ => { t with cur := e.target }.ready s
    match f.bkpt with
    | none => s.setTask t
    | some k =>
      let extra : Word := match e.kind with
        | .ybr => BitVec.ofNat 64 (2 ^ 63 + e.target)
        | .tend => BitVec.ofNat 64 (2 ^ 64 - 1)
        | _ => BitVec.ofNat 64 e.target
      takeFault s t f.hdr { code := 0x31, sub := 0, idx := k, extra := extra }

/-- The three conditions of R25 hold. -/
def Frame.complete (f : Frame) : Bool := f.exit.isSome && f.outs = f.w && f.slotsResolved

/-- A write of a complete block goes to a register that a copy still holds pending: the block waits for the copy (R289). -/
def Task.copyHolds (t : Task) (f : Frame) : Bool := f.gw.any (fun w => t.pending.any (fun p => p.1 = w.2.1))

/-- A block has run for 2^24 cycles, those with a withheld operation apart (R28, R342). -/
def blockDue (s : State) (t : Task) : Bool :=
  match t.frame with
  | none => false
  | some f =>
    let held := f.chain.any (fun o => match o.st with | .withheld _ _ _ => true | _ => false)
    !held && !t.saved && f.at_ + 2 ^ 24 + f.paused ≤ s.ctl.now

/-- The WATCHDOG fault of a block (R28). -/
def watchdogFault (s : State) (t : Task) : State :=
  match t.frame with
  | none => s
  | some f => blockFault s t f { code := 0x38, sub := 0, idx := 0xFF }

/-- A fault has been raised in a block, and no instruction below it issues in this cycle any more (R65). -/
def State.faultDue (s : State) (t : Task) (f : Frame) : Bool := f.raised.isSome && !s.issues t f

/-- A block is abandoned for the fault that it has raised: a token on its arrival, a send, a memory operation or an instruction that waited
(R18, R28, R29, R65, R348). -/
def arrivalFault (s : State) (pos slot : Nat) : State :=
  match s.task? pos slot with
  | none => s
  | some t =>
    match t.frame with
    | none => s
    | some f => match f.raised with | some r => if s.faultDue t f then blockFault s t f r else s | none => s

/-- A block may complete in this cycle: what issues in it has issued, and nothing has faulted (R25, R65). -/
def State.endsNow (s : State) (t : Task) (f : Frame) : Bool :=
  !t.saved && !s.issues t f && f.raised.isNone && f.complete && !(f.met.isSome && t.copyHolds f)

/-- BLOCK_COMPLETE: completion, or the fault of a block that is quiescent after its exit (R25, R28, R34). A block whose 2^24
cycles are over raises WATCHDOG instead. In the cycle in which the conditions of R25 are met every instruction that issues in that
cycle comes first, and a fault of it wins; after that cycle none fires (R65). -/
def execBlockComplete (pe slot : Nat) (s : State) : Out :=
  match s.task? pe slot with
  | none => .next s
  | some t =>
    match t.frame with
    | none => .next s
    | some f =>
      match f.exit with
      | none => .next s
      | some e =>
        if t.saved then .next s
        else if blockDue s t then .next (watchdogFault s t)
        else if s.issues t f || f.raised.isSome then .next s
        else if f.outs = f.w && f.slotsResolved then
          if t.copyHolds f then .next (s.setFrame t { f with met := some (f.met.getD s.ctl.now) }) else .next (completeBlock s t f e)
        else if quiescent s t f then
          if f.outs < f.w then .next (blockFault s t f { code := 0x05, sub := 2, idx := 0xFF })
          else .next (blockFault s t f { code := 0x07, sub := 5, idx := 0xFF })
        else .next s

/-- A block that has run for 2^24 cycles, those with a withheld operation apart, raises WATCHDOG (R28, R342). -/
def execBlockWatchdog (pe slot : Nat) (s : State) : Out :=
  match s.task? pe slot with
  | none => .next s
  | some t => if blockDue s t then .next (watchdogFault s t) else .next s

end Sys2Proof.Machine
end

