-- ==== Sys2Proof/Machine/Elements.lean ====
section
/-! DEFINITION. The elements of a configuration: counters, steering, replication, windows, maxima, delay, quantisation and
transforms (R186 to R195), and MEM elements with their regions (R196, R197, R228 to R231, R392). -/

namespace Sys2Proof.Machine

/-! ### Ports of an element -/

/-- Port `n` of an element: inputs 0 to 3, outputs 4 to 7 (R185). -/
def Elem.ep (e : Elem) (n : Nat) : Ep := { pos := e.pos, cls := .elem, idx := 8 * e.slot + n }

def State.elem? (s : State) (pos slot : Nat) (k : ElemKind) : Option Elem :=
  s.fab.elems.find? (fun e => e.pos = pos && e.slot = slot && e.kind = k)

def State.setElem (s : State) (e : Elem) : State :=
  { s with fab := { s.fab with elems := replaceFirst (fun x => x.pos = e.pos && x.slot = e.slot) e s.fab.elems } }

/-- The oldest token of input `n` that the element may consume: none once a marker has stopped the input (R351). -/
def Elem.peek (s : State) (e : Elem) (n : Nat) : Option Tok :=
  match s.input? (e.ep n) with
  | some i => if i.marker && !i.cyc then none else i.toks.head?.map (·.1)
  | none => none

/-- Removes the oldest token of input `n`. -/
def Elem.take (s : State) (e : Elem) (n : Nat) : State :=
  match takeToken s (e.ep n) with
  | some r => r.2
  | none => s

/-- Every link that output `n` feeds has credit; an output that no link names takes anything (R185, R186). -/
def Elem.opens (s : State) (e : Elem) (n : Nat) : Bool := (s.outLinks (e.ep n)).all (linkOpen s)

/-- Sends a token on output `n`, which has credit. -/
def Elem.send (s : State) (e : Elem) (n : Nat) (t : Tok) : State :=
  match sendOn s (e.ep n) t with
  | some r => r.1
  | none => s

/-- Fires an element that is placed and not saved: outputs that wait for credit go first, one at a time; else its own rule
runs, which answers none while it stalls. -/
def fireElem (s : State) (pos slot : Nat) (k : ElemKind) (rule : State → Elem → Option State) : Out :=
  match s.elem? pos slot k with
  | none => .next s
  | some e =>
    if e.saved then .next s
    else
      match e.out with
      | (n, t) :: rest =>
        if n ≠ 7 && e.opens s n then .next ((e.send s n t).setElem { e with out := rest }) else .next s
      | [] =>
        match rule s e with
        | some s => .next s
        | none => .next s

/-- Writes outputs: none while one of them lacks credit (R186). The first goes now, the others in the cycles that follow. -/
def Elem.emit (s : State) (e : Elem) (outs : List (Nat × Tok)) : Option State :=
  match outs with
  | [] => some (s.setElem e)
  | (n, t) :: rest =>
    if e.opens s n && rest.all (fun o => e.opens s o.1) then some ((e.send s n t).setElem { e with out := rest }) else none

/-- ORs flags into the configuration's flag word (R186). -/
def Elem.flags (s : State) (e : Elem) (fl : Nat) : State :=
  if fl = 0 then s else s.mapConf e.cid (fun c => { c with flags := c.flags ||| fl })

/-- The configuration's drain has begun: its sources stop (R350). -/
def Elem.draining (s : State) (e : Elem) : Bool :=
  match s.conf? e.cid with
  | some c => c.drain.isSome
  | none => false

/-! ### Counters -/

def Elem.root (e : Elem) : Bool := bits e.spec 22 22 = 1
/-- The inner counter of a counter (R188). -/
def Elem.succ? (s : State) (e : Elem) : Option Elem :=
  if bits e.spec 21 21 = 1 then s.elem? e.pos (bits e.spec 20 18) .cnt else none
/-- Some counter of the tile names this one as its inner counter. -/
def Elem.isSucc (s : State) (e : Elem) : Bool :=
  s.fab.elems.any (fun x => x.pos = e.pos && x.kind = .cnt && bits x.spec 21 21 = 1 && bits x.spec 20 18 = e.slot)

/-- CNT (R189): a pass of indices on output 4 with its last flags on output 5; after each index the inner counter runs a
pass. -/
def execElemCnt (pos slot : Nat) (s : State) : Out :=
  fireElem s pos slot .cnt (fun s e =>
    if e.root && e.draining s then none
    else if e.passes = 0 then
      if e.root || e.isSucc s then none
      else
        match e.peek s 0 with
        | none => none
        | some t =>
          if t.isNull then
            if e.opens s 4 && e.opens s 5 then some (e.send (e.send (e.take s 0) 4 .null) 5 .null) else none
          else some ((e.take s 0).setElem { e with passes := 1, i := 0 })
    else
      let busy := e.inner && (match e.succ? s with | some x => x.passes ≠ 0 | none => false)
      if busy then none
      else if e.i < e.count then
        if e.opens s 4 && e.opens s 5 then
          let last := e.i + 1 = e.count
          let s := e.send (e.send s 4 (scalar (BitVec.ofNat 64 e.i))) 5 (scalar (if last then 1 else 0))
          match e.succ? s with
          | some x => some ((s.setElem { x with passes := x.passes + 1 }).setElem { e with i := e.i + 1, inner := true })
          | none =>
            some (s.setElem (if last then { e with i := 0, passes := e.passes - 1, inner := false } else { e with i := e.i + 1, inner := false }))
        else none
      else some (s.setElem { e with i := 0, passes := e.passes - 1, inner := false }))

/-! ### Steering -/

/-- STEER (R190, R23): null on either input sends null to both outputs. -/
def execElemSteer (pos slot : Nat) (s : State) : Out :=
  fireElem s pos slot .steer (fun s e =>
    match e.peek s 0, e.peek s 1 with
    | some a, some c =>
      let nul := bits e.spec 38 38 = 1
      let outs :=
        if a.isNull || c.isNull then [(4, Tok.null), (5, .null)]
        else if c.word ≠ 0 then [(4, a)] ++ (if nul then [(5, .null)] else [])
        else [(5, a)] ++ (if nul then [(4, .null)] else [])
      if outs.all (fun o => e.opens s o.1) then
        let s := e.take (e.take s 0) 1
        some (outs.foldl (fun s o => e.send s o.1 o.2) s)
      else none
    | _, _ => none)

/-- MERGE (R190, R22): with SEL clear, a non-null token passes, a null is held until its other input holds one (two nulls
pass one) or is absorbed after a non-null one has passed alone: `i` and `j` count the nulls that inputs 0 and 1 still
absorb. With SEL set, the token of input 2 chooses the input; `sel` holds a choice made. -/
def execElemMerge (pos slot : Nat) (s : State) : Out :=
  fireElem s pos slot .merge (fun s e =>
    if bits e.spec 38 38 = 1 then
      match e.sel with
      | some k =>
        match e.peek s k with
        | some t => if e.opens s 4 then some ((e.send (e.take s k) 4 t).setElem { e with sel := none }) else none
        | none => none
      | none =>
        match e.peek s 2 with
        | none => none
        | some t =>
          if t.isNull then (if e.opens s 4 then some (e.send (e.take s 2) 4 .null) else none)
          else some ((e.take s 2).setElem { e with sel := some (if t.word = 0 then 0 else 1) })
    else
      let a := e.peek s 0
      let b := e.peek s 1
      let nul (x : Option Tok) : Bool := x = some .null
      if nul a && 0 < e.i then some ((e.take s 0).setElem { e with i := e.i - 1 })
      else if nul b && 0 < e.j then some ((e.take s 1).setElem { e with j := e.j - 1 })
      else if !e.opens s 4 then none
      else if nul a && nul b then some (e.send (e.take (e.take s 0) 1) 4 .null)
      else
        match a, b with
        | some x, y =>
          if x.isNull then
            match y with
            | some y => some (e.send (e.take (e.take s 0) 1) 4 y)
            | none => none
          else if nul y then some (e.send (e.take (e.take s 0) 1) 4 x)
          else some ((e.send (e.take s 0) 4 x).setElem { e with j := e.j + 1 })
        | none, some y => if y.isNull then none else some ((e.send (e.take s 1) 4 y).setElem { e with i := e.i + 1 })
        | none, none => none)

/-- JOIN passes input 0's token once every input holds one; null on any makes it null (R190, R22). -/
def execElemJoin (pos slot : Nat) (s : State) : Out :=
  fireElem s pos slot .join (fun s e =>
    let ns := List.range (bits e.spec 38 37 + 1)
    let ts := ns.map (e.peek s)
    if ts.all (·.isSome) && e.opens s 4 then
      let out := if ts.any (· == some Tok.null) then Tok.null else (e.peek s 0).getD .null
      some (e.send (ns.foldl (fun s n => e.take s n) s) 4 out)
    else none)

/-- REPL (R191): REP copies of a splatted scalar. -/
def execElemRepl (pos slot : Nat) (s : State) : Out :=
  fireElem s pos slot .repl (fun s e =>
    match e.peek s 0 with
    | none => none
    | some t =>
      let outs := if t.isNull then [(4, Tok.null)]
        else List.replicate (bits e.spec 37 22) (4, vector (splat (bits e.spec 39 38) t.word))
      if e.opens s 4 then e.emit (e.take s 0) outs else none)

/-! ### Windows, maxima, delay -/

/-- WIN takes a row token (R192): the delay line keeps the last k·d rows; a full window goes out oldest row first. `i` is
the row, `j` the column. -/
def execElemWin (pos slot : Nat) (s : State) : Out :=
  fireElem s pos slot .win (fun s e =>
    match e.peek s 0 with
    | none => none
    | some t =>
      let k := bits e.spec 39 37 - 1
      let st := bits e.spec 36 35 + 1
      let d := bits e.spec 34 33 + 1
      let len := bits e.spec 32 21 + 1
      let hist := e.toks ++ [t]
      let full := k * d ≤ e.i && (e.i - k * d) % st = 0 && e.j % st = 0
      let outs := if full then (List.range (k + 1)).map (fun q => (4, hist.getD (hist.length - 1 - (k - q) * d * len) .null)) else []
      let e' := { e with
        toks := hist.drop (hist.length - min hist.length (k * d * len))
        i := if e.j + 1 = len then e.i + 1 else e.i
        j := if e.j + 1 = len then 0 else e.j + 1 }
      if full && !e.opens s 4 then none else e'.emit (e.take s 0) outs)

/-- A token on WIN input 1 starts a frame at a row's begin (R192). -/
def execElemWinFrame (pos slot : Nat) (s : State) : Out :=
  fireElem s pos slot .win (fun s e =>
    match e.peek s 1 with
    | none => none
    | some _ => if e.j ≠ 0 then none else some ((e.take s 1).setElem { e with i := 0, j := 0, toks := [] }))

/-- The magnitude of a lane for MAXR (R193): the absolute bits of a float, the unsigned magnitude of an integer; none for
NaN. -/
def magnitude (f x : Nat) : Option Nat :=
  if isFloat f then (if isNaN f x then none else some (x % 2 ^ (fmtWidth f - 1))) else some (sgn (fmtWidth f) x).natAbs

/-- MAXR (R193): `sel` is the largest magnitude so far, all ones beyond the format for NaN; `i` the tokens of the block. -/
def execElemMaxr (pos slot : Nat) (s : State) : Out :=
  fireElem s pos slot .maxr (fun s e =>
    match e.peek s 0 with
    | none => none
    | some t =>
      let f := bits e.spec 39 36
      let last := e.i = bits e.spec 35 24
      let seen := (lanes (fmtWidth f) t.vec).foldl (fun m x => max m ((magnitude f x).getD (2 ^ 40))) (e.sel.getD 0)
      let m := if t.isNull then e.sel.getD 0 else seen
      let out := if t.isNull then Tok.null
        else scalar (BitVec.ofNat 64 (if 2 ^ 40 ≤ m then canonNaN f else m))
      if !last then some ((e.take s 0).setElem { e with i := e.i + 1, sel := some m })
      else if e.opens s 4 then some ((e.send (e.take s 0) 4 out).setElem { e with i := 0, sel := none })
      else none)

/-- DLY (R193): an elastic FIFO of D + 1 tokens; its oldest token goes out when the output has credit. -/
def execElemDly (pos slot : Nat) (s : State) : Out :=
  fireElem s pos slot .dly (fun s e =>
    let (s1, e1, moved) := match e.toks with
      | t :: rest => if e.opens s 4 then (e.send s 4 t, { e with toks := rest }, true) else (s, e, false)
      | [] => (s, e, false)
    match e.peek s1 0 with
    | some t =>
      if e1.toks.length ≤ bits e.spec 38 27 then some ((e1.take s1 0).setElem { e1 with toks := e1.toks ++ [t] })
      else if moved then some (s1.setElem e1) else none
    | none => if moved then some (s1.setElem e1) else none)

/-! ### Quantisation -/

/-- An infinite lane in an FP8 or integer destination (R46; R194 clamps integers). -/
def quotInf (d : Nat) (sat g : Bool) : Res :=
  if isFloat d then (if sat then (maxFinite d g, 0) else if d = 3 then (canonNaN d, fNV) else (infBits d g, 0))
  else (wrap (fmtWidth d) (if g then intMin d else intMax d), fNX)

/-- The quotient of a source value by an F16 scale, rounded once into an FP8 format or an integer range (R194, R46, R48). A
NaN lane of an integer destination gives 0 without a flag: log 46. -/
def quotTo (d : Nat) (sat : Bool) (f x scale : Nat) : Res :=
  match readNum f x, readNum 1 scale with
  | .fin g m e, .fin t n k =>
    let neg := g ^^ t
    if isFloat d then (if m = 0 then (signBit d neg, 0) else roundQuot d 0 sat neg m n (e - k))
    else if m = 0 then (0, 0)
    else
      let kk := 40 + n.log2
      if 20 < m.log2 + 1 + e - k - n.log2 then (wrap (fmtWidth d) (if neg then intMin d else intMax d), fNX)
      else
        let r := roundAt 0 neg ((m <<< kk) / n) (e - k - kk) ((m <<< kk) % n ≠ 0) 0
        let v := signed neg r.1
        if v < intMin d then (wrap (fmtWidth d) (intMin d), fNX)
        else if intMax d < v then (wrap (fmtWidth d) (intMax d), fNX)
        else (wrap (fmtWidth d) v, if r.2 then fNX else 0)
  | .nan, _ | _, .nan => (if isFloat d then canonNaN d else 0, 0)
  | .inf g, .fin t _ _ => quotInf d sat (g ^^ t)
  | .fin g _ _, .inf t => (if isFloat d then signBit d (g ^^ t) else 0, 0)
  | .inf _, .inf _ => (if isFloat d then canonNaN d else 0, fNV)

/-- The greatest quantised magnitude of a destination (R194). -/
def qmaxOf (d zp : Nat) : Nat :=
  match d with
  | 3 => 448
  | 4 => 57344
  | 5 => 127
  | 7 => 7
  | 6 => min zp (255 - zp)
  | _ => min zp (15 - zp)

/-- The F16 scale of a block: the exact quotient of its maximum, rounded once (R194). Its rounding raises no flag: log 46. -/
def blockScale (src d zp mx : Nat) : Nat :=
  match readNum src mx with
  | .fin g m e => if m = 0 ∨ qmaxOf d zp = 0 then signBit 1 g else (roundQuot 1 0 false g m (qmaxOf d zp) e).1
  | .inf g => infBits 1 g
  | .nan => canonNaN 1

/-- One lane of a block under its maximum (R194), NaN and infinite maxima apart. -/
def cvtLane (src d zp : Nat) (sat : Bool) (scale x : Nat) : Res :=
  let q := d = 6 || d = 8
  if scale % 2 ^ 15 = 0 then (if q then zp else 0, 0)
  else if q then quantise src x scale zp (fmtWidth d)
  else quotTo d sat src x scale

/-- CVT element (R194): the block's maximum is consumed with its first token; lanes gather until a token is full or the
block ends; with EMIT the scale follows. `i` counts the tokens of the block, `sel` holds its maximum (none consumed, or a
null one as all ones), `lanes` the gathered lanes, `j` is 1 once the block has raised its NV. -/
def execElemCvt (pos slot : Nat) (s : State) : Out :=
  fireElem s pos slot .cvt (fun s e =>
    let mx : Option Nat := match e.sel with
      | some m => some m
      | none => (Elem.peek s e 1).map (fun t => if t.isNull then 2 ^ 80 else t.word.toNat)
    match e.peek s 0, mx with
    | some t, some m =>
      let src := bits e.spec 39 36
      let d := bits e.spec 35 32
      let sat := bits e.spec 31 31 = 1
      let zp := bits e.spec 17 10
      let w := fmtWidth d
      let per := 512 / w
      let fill := if d = 6 ∨ d = 8 then zp else 0
      let last := e.i = bits e.spec 30 19
      let null := t.isNull || m = 2 ^ 80
      let bad := match readNum src m with | .fin _ _ _ => false | _ => true
      let scale := blockScale src d zp m
      let nanOut := if d = 3 ∨ d = 4 then canonNaN d else fill
      let xs := lanes (fmtWidth src) t.vec
      let rs : List Res := if null then xs.map (fun _ => (fill, 0))
        else if bad then xs.map (fun _ => (nanOut, 0)) else xs.map (cvtLane src d zp sat scale)
      let fl := rs.foldl (fun n r => n ||| r.2) (if bad && !null && e.j = 0 then fNV else 0)
      let all := e.lanes ++ rs.map (·.1)
      let full := per ≤ all.length || last
      let out := if null then Tok.null else vector (pack w (all ++ List.replicate (per - all.length) fill))
      let emit := last && bits e.spec 18 18 = 1
      let stall := (full && !e.opens s 4) || (emit && !e.opens s 5)
      if stall then none
      else
        let s := e.flags (e.take s 0) fl
        let s := if e.sel.isNone then e.take s 1 else s
        let s := if full then e.send s 4 out else s
        let s := if emit then e.send s 5 (if null then .null else scalar (BitVec.ofNat 64 scale)) else s
        some (s.setElem { e with
          lanes := if full then [] else all, i := if last then 0 else e.i + 1, sel := if last then none else some m
          j := if last then 0 else if bad && !null then 1 else e.j })
    | _, _ => none)

/-! ### Transforms -/

/-- The eight tokens of a transposed group (R195 operation 0). -/
def transposeGroup (ts : List Vec) : List Vec :=
  (List.range 8).map (fun e =>
    pack 16 ((List.range 32).map (fun n => lane 16 (ts.getD (n % 8) 0) (8 * (n / 8) + e))))

/-- Two INT8 tokens packed to one INT4 token (R195 operation 1). -/
def packInt4 (sat : Bool) (a b : Vec) : Vec :=
  pack 4 ((lanes 8 a ++ lanes 8 b).map (fun x => if sat then wrap 4 (max (-8) (min 7 (sgn 8 x))) else x % 16))

/-- One INT4 token as two INT8 tokens (R195 operation 2). -/
def unpackInt4 (a : Vec) : List Vec :=
  let xs := (lanes 4 a).map (fun x => wrap 8 (sgn 4 x))
  [pack 8 (xs.take 64), pack 8 (xs.drop 64)]

/-- A byte shuffle by a pattern (R195 operation 3). -/
def shuffleBytes (a p : Vec) : Vec :=
  pack 8 ((lanes 8 p).map (fun b => if 128 ≤ b then 0 else lane 8 a (b % 64)))

/-- A mask expanded to bytes (R195 operation 4). -/
def expandMask (m : Word) : Vec := pack 8 ((List.range 64).map (fun i => if m.getLsbD i then 255 else 0))

/-- XFM (R195): a group gathers in `toks`; a new pattern applies from the next firing. A null inside a group reads as 0; a
null as its last token makes every output of the group null. -/
def execElemXfm (pos slot : Nat) (s : State) : Out :=
  fireElem s pos slot .xfm (fun s e =>
    let op := bits e.spec 39 36
    match (if op = 3 then e.peek s 1 else none) with
    | some p => some ((e.take s 1).setElem (if p.isNull then e else { e with pat := some p }))
    | none =>
      match e.peek s 0 with
      | none => none
      | some t =>
        let size := if op = 0 then 8 else if op = 1 then 2 else 1
        let got := e.toks ++ [t]
        if got.length < size then some ((e.take s 0).setElem { e with toks := got })
        else
          let vs := got.map Tok.vec
          let v := t.vec
          let outs : Option (List Vec) :=
            match op with
            | 0 => some (transposeGroup vs)
            | 1 => some [packInt4 (bits e.spec 35 35 = 1) (vs.getD 0 0) (vs.getD 1 0)]
            | 2 => some (unpackInt4 v)
            | 3 => e.pat.map (fun p => [shuffleBytes v p.vec])
            | _ => some [expandMask t.word]
          match outs with
          | none => none
          | some vs =>
            if e.opens s 4 then
              { e with toks := [] }.emit (e.take s 0) (vs.map (fun v => (4, if t.isNull then Tok.null else vector v)))
            else none)

/-! ### Configurations at rest -/

/-- A task at rest: IDLE, or YIELDED with nothing on a wake port (R180). -/
def taskAtRest (s : State) (t : Task) : Bool := t.st = .idle || (t.st = .yielded && !wakes s t)

/-- Nothing of a configuration can still happen, its coalescing buffers apart (R180, R334); a token recorded at an input in a drain is still
held (R351). Tokens that an element holds are those of an XFM group, the choice of a MERGE and waiting outputs; what MAXR and CVT have
consumed into an unfinished block, like what WIN keeps, does not hold its configuration back: R334 settles WIN alone. Log 46. -/
def atRest (s : State) (c : Conf) : Bool :=
  (s.cores.tasks.all (fun t => t.cid ≠ c.cid || taskAtRest s t)) &&
  (s.fab.links.all (fun l => l.cid ≠ c.cid || (l.flight.isEmpty && l.pulses = 0))) &&
  (s.fab.inputs.all (fun i => i.cid ≠ c.cid || (i.toks.isEmpty && i.chan.isEmpty && i.pulses = 0))) &&
  (s.fab.elems.all (fun e => e.cid ≠ c.cid ||
    (e.passes = 0 && !e.inner && e.out.isEmpty && e.snap.isEmpty && (e.kind = .win || e.toks.isEmpty) && (e.kind ≠ .merge || e.sel.isNone)))) &&
  (s.eng.copies.all (fun k => k.cid ≠ c.cid)) && (s.eng.scans.all (fun k => k.cid ≠ c.cid)) &&
  (s.eng.tiles.all (fun t => t.cid ≠ c.cid || (t.run.isNone && t.done.isNone))) &&
  (s.eng.deliveries.all (fun d => d.cid ≠ c.cid)) && (s.cores.arrivals.all (fun a => a.cid ≠ c.cid))

/-! ### MEM elements -/

/-- How an access of a MEM element ends: at a key, waiting, or ended with its configuration. -/
inductive ElemAcc where
  | ok (s : State) (k : Nat)
  | wait (s : State)
  | dead (s : State)

/-- A fault of an element, reported against its configuration (R196). -/
def Elem.fail (s : State) (e : Elem) (code sub : Nat) (addr extra : Nat) : State :=
  confFault s e.cid { code := code, sub := sub, tile := e.pos, slot := e.slot, addr := BitVec.ofNat 64 addr
                      extra := BitVec.ofNat 64 extra }

/-- The line of a region at a byte offset (R196): translated as the element's own access, at its home. -/
def Elem.access (s : State) (e : Elem) (off : Nat) (wr : Bool) : ElemAcc :=
  match s.conf? e.cid with
  | none => .wait s
  | some c =>
    if e.lost then .wait s
    else if e.len ≤ off then .dead (e.fail s 0x12 8 (e.base + off) 0)
    else if off % 64 ≠ 0 then .dead (e.fail s 0x10 2 (e.base + off) 0)
    else
      let va := e.base + off
      match translate s c.pad c.ten (some c.cid) (some (e.pos, e.slot)) va (!wr) wr with
      | (s, .ok k _) =>
        match followMoves s 8 k with
        | none => .dead (e.fail s 0x15 4 va 0)
        | some k =>
          let me := 8 * e.pos + e.slot
          if !mayPass s k 1 me then .wait (parkAt s k 1 me)
          else if wr && liveHeader s k then .dead (e.fail s 0x12 4 va 0)
          else .ok (unpark s k 1 me) k
      | (s, .miss host) => .wait (pageMissConf s c.pad c.ten c.cid va wr host)
      | (s, .fault cd sub x) => .dead (e.fail s cd sub va x)
      | (s, .dropped) => .wait ((s.mapPad c.pad (fun p => { p with pdrop := (p.pdrop + 1) % 2 ^ 32 })).setElem { e with lost := true })

/-- The tenant slot of a configuration. -/
def State.confWho (s : State) (cid : Nat) : Nat := match s.conf? cid with | some c => c.who | none => 0

/-- Writes a whole line at its home for a unit of a configuration, after what the configuration follows (R252, R253). -/
def lineStore (s : State) (cid k : Nat) (v : Vec) : State :=
  let r := homeStore (s.confLag cid [lineOf k]) (s.confWho cid) k (toBytes 64 v.toNat) (s.confPts cid)
  r.1.confDid cid r.2

/-- Whether an element coalesces (R188). -/
def Elem.coal (e : Elem) : Bool := bits e.spec 19 19 = 1

/-- Writes the oldest line of the coalescing buffer to its home (R230). -/
def Elem.flushOne (s : State) (e : Elem) : State ⊕ (State × Elem) :=
  match e.buf with
  | [] => .inr (s, e)
  | l :: rest =>
    match e.access s l.off true with
    | .ok s k => .inr (lineStore s e.cid k l.val, { e with buf := rest })
    | .wait s => .inl s
    | .dead s => .inl s

/-- Keeps a stored line in the buffer, or writes it to its home (R229, R230). -/
def Elem.storeLine (s : State) (e : Elem) (off : Nat) (v : Vec) : State ⊕ (State × Elem) :=
  match e.access s off true with
  | .wait s => .inl s
  | .dead s => .inl s
  | .ok s k =>
    if !e.coal then .inr (lineStore s e.cid k v, e)
    else if e.buf.any (fun l => l.off = off) then
      .inr (s, { e with buf := replaceFirst (fun l => l.off = off) { off := off, val := v, dirty := true } e.buf })
    else
      match (if e.buf.length < 8 then .inr (s, e) else e.flushOne s) with
      | .inl s => .inl s
      | .inr (s, e) => .inr (s, { e with buf := e.buf ++ [{ off := off, val := v, dirty := true }] })

/-- A copy of a line in the cache of the element's own cluster that holds the line's value or the one before its last write (R215,
R231). -/
def Elem.ownCopy (s : State) (e : Elem) (k : Nat) : Option Copy :=
  let x := s.line (lineOf k)
  s.mem.copies.find? (fun c => c.line = lineOf k && c.cluster = clusterOf e.pos && (cacheWays s c.cluster).contains c.way &&
    (c.wts = x.wts || c.wts = x.prev))

/-- The element's loads are invariant: INV is set and the paddock is not in normal service (R231). -/
def Elem.invariant (s : State) (e : Elem) : Bool :=
  bits e.spec 18 18 = 1 && (match s.conf? e.cid with | some c => (s.pad? c.pad).any (fun p => p.mode ≠ 0) | none => false)

/-- Reads a line: from the buffer, from a copy where INV allows one, or at its home (R230, R231). -/
def Elem.loadLine (s : State) (e : Elem) (off : Nat) : State ⊕ (State × Vec) :=
  match e.buf.find? (fun l => l.off = off) with
  | some l => .inr (s, l.val)
  | none =>
    match e.access s off false with
    | .wait s => .inl s
    | .dead s => .inl s
    | .ok s k =>
      let poison : State ⊕ (State × Vec) := .inl (e.fail s 0x16 4 (e.base + off) 0)
      let (n, s') := s.draw
      let inv := e.invariant s
      match (if inv && Config.invCopy n then e.ownCopy s k else none) with
      | some c => if c.bad ≠ 0 then poison else .inr (s', c.val)
      | none =>
        if s.poisoned k 64 then poison
        else
          let (s, v, p) := homeLoad (if inv then s' else s) (s.confWho e.cid) k 64 (s.confPts e.cid)
          .inr (s.confDid e.cid p, BitVec.ofNat 512 v)

/-- Runs one access rule of an element; what it leaves when it waits or ends is kept. -/
def fireMemElem (s : State) (pos slot mode : Nat) (rule : State → Elem → Option (State ⊕ State)) : Out :=
  fireElem s pos slot .mem (fun s e =>
    if bits e.spec 39 38 ≠ mode then none
    else
      match rule s e with
      | some (.inl s) => some s
      | some (.inr s) => some s
      | none => none)

/-- Output 7 has a link, so the element passes its region on (R197). -/
def Elem.passes7 (s : State) (e : Elem) : Bool := s.isOutput (e.ep 7)

/-- The keys of `k` lines of the region from line `n` on, each checked (R228). -/
def Elem.snapKeys (s : State) (e : Elem) : Nat → Nat → List Nat → State ⊕ (State × List Nat)
  | 0, _, acc => .inr (s, acc)
  | k + 1, n, acc =>
    match e.access s (64 * n) false with
    | .wait s => .inl s
    | .dead s => .inl s
    | .ok s x => if s.poisoned x 64 then .inl (e.fail s 0x16 4 (e.base + 64 * n) 0) else e.snapKeys s k (n + 1) (acc ++ [x])

/-- Every line of the region from line `n` on as invariant loads give it (R231, R249). -/
def Elem.snapFrom (s : State) (e : Elem) : Nat → Nat → List Vec → State ⊕ (State × List Vec)
  | 0, _, acc => .inr (s, acc)
  | k + 1, n, acc =>
    match e.loadLine s (64 * n) with
    | .inl s => .inl s
    | .inr (s, v) => e.snapFrom s k (n + 1) (acc ++ [v])

/-- `k` lines of the region from line `n` on, checked before any is read, as T stands at one timestamp (R228, R248). -/
def Elem.snapshot (s : State) (e : Elem) (k n : Nat) : State ⊕ (State × List Vec) :=
  if e.invariant s then e.snapFrom s k n []
  else
    match e.snapKeys s k n [] with
    | .inl s => .inl s
    | .inr (s, ks) =>
      let r := readTile s (s.confWho e.cid) (s.confPts e.cid) (ks.map (fun x => (x, 64)))
      .inr (r.1.confDid e.cid r.2.2, (chunk 64 k r.2.1).map (fun bs => BitVec.ofNat 512 (ofBytes bs)))

/-- A stream-read element (R196, R228): a pass takes its snapshot as its start token is consumed, then sends the region line by line on
output 4 and 0 on output 5, and passes the region on. `inner` marks a running pass, `i` counts the lines sent. -/
def execMemStreamReadPass (pos slot : Nat) (s : State) : Out :=
  fireMemElem s pos slot 0 (fun s e =>
    if bits e.spec 37 37 = 1 || e.draining s || !e.own then none
    else
      let n := e.len / 64
      if e.inner then
        match e.snap with
        | v :: rest =>
          if !e.opens s 4 then none
          else
            let done := e.i + 1 = n
            let tail := (5, scalar 0) :: (if e.passes7 s then [(7, scalar 0)] else [])
            some (.inr ((e.send s 4 (vector v)).setElem
              { e with snap := rest, i := if done then 0 else e.i + 1, inner := !done, out := if done then tail else [] }))
        | [] =>
          match e.snapshot s (n - e.i) e.i with
          | .inl s => some (.inl s)
          | .inr (s, vs) => some (.inr (s.setElem { e with snap := vs }))
      else
        let start (s : State) (e : Elem) : State ⊕ State :=
          if n = 0 then
            .inr (s.setElem { e with out := (5, scalar 0) :: (if e.passes7 s then [(7, scalar 0)] else []) })
          else
            match e.snapshot s n 0 with
            | .inl s => .inl s
            | .inr (s, vs) => .inr (s.setElem { e with inner := true, i := 0, snap := vs })
        if 0 < e.passes then some (start s { e with passes := e.passes - 1 })
        else
          match e.peek s 0 with
          | none => none
          | some t =>
            if t.isNull then (({ e with out := [] }).emit (e.take s 0) [(4, .null), (5, .null)]).map .inr
            else
              match start s e with
              | .inl s => some (.inl s)
              | .inr s => some (.inr (e.take s 0)))

/-- A stream-write element (R196): a token goes to the next line; after the last line 0 goes out on output 5. -/
def execMemStreamWrite (pos slot : Nat) (s : State) : Out :=
  fireMemElem s pos slot 0 (fun s e =>
    if bits e.spec 37 37 = 0 || !e.own then none
    else
      match e.peek s 0 with
      | none => none
      | some t =>
        let last := e.len ≤ 64 * (e.i + 1)
        if t.isNull then some (.inr (e.take s 0))
        else if last && !e.opens s 5 then none
        else
          match e.storeLine s (64 * e.i) t.vec with
          | .inl s => some (.inl s)
          | .inr (s, e) =>
            let tail := (5, scalar 0) :: (if e.passes7 s then [(7, scalar 0)] else [])
            some (.inr ((e.take s 0).setElem { e with i := if last then 0 else e.i + 1, out := if last then tail else [] })))

/-- The cycle in which the oldest token of an input arrived. -/
def Elem.cameAt (s : State) (e : Elem) (n : Nat) : Nat :=
  match s.input? (e.ep n) with
  | some i => i.came.headD 0
  | none => 0

/-- Since when a store of a random element is ready: both its tokens stand (R196, log 26). -/
def Elem.storeSince (s : State) (e : Elem) : Option Nat :=
  if (e.peek s 1).isSome && (e.peek s 2).isSome then some (max (e.cameAt s 1) (e.cameAt s 2)) else none

/-- A store of a random element goes before what stands on input 0 (R196): the older first, in a tie the store. -/
def Elem.storeFirst (s : State) (e : Elem) : Bool :=
  match e.storeSince s with
  | some n => n ≤ e.cameAt s 0
  | none => false

/-- A random element loads the line at an offset (R196, R392). -/
def execMemRandomLoad (pos slot : Nat) (s : State) : Out :=
  fireMemElem s pos slot 1 (fun s e =>
    match e.peek s 0 with
    | none => none
    | some t =>
      if !e.own || !e.opens s 4 || e.storeFirst s then none
      else if t.isNull then some (.inr (e.send (e.take s 0) 4 .null))
      else if 2 ^ 63 ≤ t.word.toNat then none
      else
        match e.loadLine s t.word.toNat with
        | .inl s => some (.inl s)
        | .inr (s, v) => some (.inr (e.send (e.take s 0) 4 (vector v))))

/-- An older load of a random element may fire, or an older hand-over mark stands on input 0 (R196, R197). -/
def Elem.loadFirst (s : State) (e : Elem) : Bool :=
  !e.storeFirst s && (match e.peek s 0 with
  | some t => e.opens s 4 || (!t.isNull && 2 ^ 63 ≤ t.word.toNat)
  | none => false)

/-- A random element stores a line; a null on either input stores nothing (R196, R392). -/
def execMemRandomStore (pos slot : Nat) (s : State) : Out :=
  fireMemElem s pos slot 1 (fun s e =>
    match e.peek s 1, e.peek s 2 with
    | some o, some d =>
      if !e.own || e.loadFirst s then none
      else if o.isNull || d.isNull then some (.inr (e.take (e.take s 1) 2))
      else
        match e.storeLine s o.word.toNat d.vec with
        | .inl s => some (.inl s)
        | .inr (s, e) => some (.inr ((e.take (e.take s 1) 2).setElem e))
    | _, _ => none)

/-- An ordered-update element applies its operation lane by lane to the line (R196, R230). -/
def execMemOrderedUpdate (pos slot : Nat) (s : State) : Out :=
  fireMemElem s pos slot 2 (fun s e =>
    match e.peek s 0, e.peek s 1 with
    | some o, some d =>
      if !e.own then none
      else if !o.isNull && 2 ^ 63 ≤ o.word.toNat then none
      else if o.isNull || d.isNull then some (.inr (e.take (e.take s 0) 1))
      else
        let w := if bits e.spec 13 13 = 1 then 64 else 32
        match e.loadLine s o.word.toNat with
        | .inl s => some (.inl s)
        | .inr (s, v) =>
          let rs := (List.range (512 / w)).map (fun i => atomicOp (bits e.spec 17 14) w (lane w v i) (lane w d.vec i))
          match e.storeLine s o.word.toNat (pack w (rs.map (·.1))) with
          | .inl s => some (.inl s)
          | .inr (s, e) =>
            let s := e.flags s (rs.foldl (fun n r => n ||| r.2) 0)
            some (.inr ((e.take (e.take s 0) 1).setElem e))
    | _, _ => none)

/-- Empties the coalescing buffer, oldest line first (R230): what is left when a line must wait. -/
def Elem.flushAll (s : State) (e : Elem) : Nat → State × Elem
  | 0 => (s, e)
  | n + 1 =>
    match e.flushOne s with
    | .inl s => (s, { e with lost := (match s.elem? e.pos e.slot .mem with | some x => x.lost | none => false) })
    | .inr (s, e) => e.flushAll s n

/-- A hand-over mark stands on input 0 of a random or ordered-update element (R197). -/
def Elem.handMark (s : State) (e : Elem) : Bool :=
  bits e.spec 39 38 ≠ 0 && e.out.isEmpty && (match e.peek s 0 with | some t => !t.isNull && 2 ^ 63 ≤ t.word.toNat | none => false)

/-- The holder is about to pass its region on (R197): after its pass, or at the mark once no older store stands before it. -/
def Elem.handsOver (s : State) (e : Elem) : Bool :=
  (e.handMark s && e.passes7 s && !(bits e.spec 39 38 = 1 && e.storeFirst s)) || (match e.out with | (7, _) :: _ => true | _ => false)

/-- The holder passes its region on (R197): a stream element after its pass, a random or ordered-update element at a token
with bit 63 on input 0, once every earlier store is performed; the buffer is emptied before the token leaves on output 7. -/
def execMemHandover (pos slot : Nat) (s : State) : Out :=
  match s.elem? pos slot .mem with
  | none => .next s
  | some e =>
    if e.saved || !e.own then .next s
    else
      let mark := e.handMark s
      let due := match e.out with | (7, _) :: _ => true | _ => false
      if !mark && !due || (mark && bits e.spec 39 38 = 1 && e.storeFirst s) then .next s
      else if mark && !e.passes7 s then .next (e.take s 0)
      else
        let (s, e') := e.flushAll s 8
        if (s.elem? pos slot .mem).isNone then .next s
        else if !e'.buf.isEmpty || !e'.opens s 7 then .next (s.setElem e')
        else
          let s := if mark then e'.take s 0 else s
          .next ((e'.send s 7 (scalar 0)).setElem { e' with own := false, out := e'.out.drop 1 })

/-- A token on input 3 gives a MEM element its region (R197). -/
def execMemRegionReceive (pos slot : Nat) (s : State) : Out :=
  fireElem s pos slot .mem (fun s e =>
    if e.own then none
    else
      match e.peek s 3 with
      | none => none
      | some _ => some ((e.take s 3).setElem { e with own := true }))

end Sys2Proof.Machine
end

