-- ==== Sys2Proof/Machine/Copies.lean ====
section
/-! DEFINITION. Bank modes (R214 to R219), shapes (R287), copies (R288 to R293), rings (R294 to R297) and fibre scans
(R155). -/

namespace Sys2Proof.Machine

/-! ### Bank modes -/

/-- A request of a task names a byte of a bank of its cluster. -/
def touchesBank (cluster num : Nat) (r : Req) : Bool :=
  r.keys.any (fun k => match k with
    | some k => regionOf k = 2 && offsetOf k / 2 ^ 20 = cluster && offsetOf k % 2 ^ 20 / 2 ^ 15 = num
    | none => false)

/-- The bank's entry, in cache mode and not switching when it is not listed (R214). -/
def State.bank (s : State) (cluster num : Nat) : Bank :=
  (s.mem.banks.find? (fun b => b.cluster = cluster && b.num = num)).getD
    { cluster := cluster, num := num, mode := 0, switching := none }

def State.setBank (s : State) (b : Bank) : State :=
  let rest := s.mem.banks.filter (fun x => !(x.cluster = b.cluster && x.num = b.num))
  { s with mem := { s.mem with banks := if b.mode = 0 ∧ b.switching = none then rest else rest ++ [b] } }

/-- The open ring's banks (R294). -/
def Ring.cluster (r : Ring) : Nat := r.key / 2 ^ 20
def Ring.base (r : Ring) : Nat := r.key % 2 ^ 20
def Ring.inBank (r : Ring) (cluster num : Nat) : Bool :=
  r.cluster = cluster && r.base / 2 ^ 15 ≤ num && num ≤ (r.base + r.slots * r.size - 1) / 2 ^ 15

/-- The end of a switch (R218): leaving cache mode drops the bank's lines, scratchpad mode begins with zeros. -/
def endSwitch (s : State) (b : Bank) (new : Nat) : State :=
  let s := if b.mode = new then s
    else
      let kept := s.mem.copies.filter (fun c => !(b.mode = 0 && c.cluster = b.cluster && c.way = b.num))
      let s := { s with mem := { s.mem with copies := kept } }
      if new = 1 then s.zero (windowKey b.cluster (b.num * 2 ^ 15)) (2 ^ 15) else s
  s.setBank { b with mode := new, switching := none }

/-- Every access to a bank accepted before its switch has completed, and every line written in it has been written back
(R218). -/
def bankQuiet (s : State) (cluster num : Nat) : Bool :=
  s.cores.tasks.all (fun o => clusterOf o.pos ≠ cluster ||
    (o.queue ++ o.reds).all (fun r => !touchesBank cluster num r && r.ways.all (fun w => w.2 ≠ num)))

/-- The BMODE that began a switch still runs in its block. -/
def Switch.owned (s : State) (w : Switch) : Bool :=
  match s.task? w.pos w.slot with
  | some o => (match o.frame with | some g => g.id = w.fid && g.waits.any (fun x => x.idx = w.idx) | none => false)
  | none => false

/-- A switch whose block has been abandoned ends like any other (R218). Log 46. -/
def bankSwitch (s : State) (cluster num : Nat) : State :=
  let b := s.bank cluster num
  match b.switching with
  | some w => if !w.owned s && bankQuiet s cluster num then endSwitch s b w.mode else s
  | none => s

/-- BMODE (R218, R219): bank number and mode are checked at firing; when the bank is free the open-ring check is made and
the bank marked switching; when the accesses it had accepted are done the mode changes. -/
def execBmode (t u : BitVec 9) (s : State) : Out :=
  let i := Instr.bmode t u
  fireWaiting i s
    (fun _ _ _ idx x =>
      if 31 < x.wa.toNat then some { code := 0x29, sub := 1, idx := idx }
      else if 2 < x.wb.toNat then some { code := 0x29, sub := 2, idx := idx } else none)
    (fun s _ x => .bank x.wa.toNat s.ctl.now)
    (fun s t f idx x k before =>
      let cl := clusterOf t.pos
      let n := x.wa.toNat
      let b := s.bank cl n
      let own : Switch := { pos := t.pos, slot := t.slot, fid := f.id, idx := idx, mode := x.wb.toNat }
      let mine := b.switching = some own
      let held := !mine && b.switching.isSome
      let since := match k with | .bank _ c => c | _ => s.ctl.now
      let first : Bool := !before.any (fun w => match w.kind with | .bank m _ => m = n | _ => false) &&
        !bankAsked s cl n (fun x => x.1 < since || (x.1 = since && x.2 < inCluster t.pos))
      if held || (!mine && !first) then none
      else if !mine && b.mode = 2 && s.eng.rings.any (fun r => r.inBank cl n) then
        some (s, t, .error { code := 0x29, sub := 3, idx := idx })
      else if bankQuiet s cl n then some (endSwitch s b x.wb.toNat, t, f.putAll idx trigger i.targets)
      else if mine then none
      else some (s.setBank { b with switching := some own }, t, .ok (f.wait idx (.bank n since))))

/-! ### Shapes -/

/-- The fields of a shape record (R287). -/
def shpRows (w : Word) : Nat := bits w.toNat 15 0
def shpBytes (w : Word) : Nat := bits w.toNat 31 16
def shpFmt (w : Word) : Nat := bits w.toNat 35 32
def shpTile (w : Word) : Bool := bits w.toNat 36 36 = 1
def shpPitch (w : Word) : Nat := bits w.toNat 63 38 * 64

/-- The bytes of an element; a 4-bit format counts as one (R287). -/
def elemBytes (f : Nat) : Nat := max 1 (fmtWidth f / 8)

/-- The record of R287. -/
def shapeWord (rows bytes pitch fmt : Nat) : Word :=
  let tile := bytes = 64 || bytes = 128 || bytes = 192 || bytes = 256
  BitVec.ofNat 64 (rows + bytes * 2 ^ 16 + fmt * 2 ^ 32 + (if tile then 2 ^ 36 else 0) + pitch / 64 * 2 ^ 38)

/-- The SHAPE subcode of R287, in order. -/
def shapeBad (a b fmt : Nat) : Option Nat :=
  let rows := a % 2 ^ 16
  let bytes := bits a 31 16
  if rows = 0 ∨ bytes = 0 then some 1
  else if a / 2 ^ 32 ≠ 0 then some 2
  else if bytes % elemBytes fmt ≠ 0 then some 3
  else if b % 64 ≠ 0 ∨ 2 ^ 32 ≤ b then some 4
  else if 1 < rows ∧ b < bytes then some 5
  else none

/-- MSHAPE writes its record when it fires (R287). -/
def execMshape (n : BitVec 3) (f : BitVec 4) (t u : BitVec 9) (s : State) : Out :=
  let i := Instr.mshape n f t u
  fireWith i s (fun _ => i.targets) (passNull i) (fun s t fr idx x =>
    match shapeBad x.wa.toNat x.wb.toNat f.toNat with
    | some sub => (s, t, .error { code := 0x18, sub := sub, idx := idx })
    | none =>
      let w := shapeWord (x.wa.toNat % 2 ^ 16) (bits x.wa.toNat 31 16) x.wb.toNat f.toNat
      (s, { t with shp := t.shp.set! n.toNat w }, fr.putAll idx trigger i.targets))

/-! ### Ring handles -/

def State.ring? (s : State) (key : Nat) : Option Ring := s.eng.rings.find? (fun r => r.key = key)

def State.setRing (s : State) (r : Ring) : State :=
  { s with eng := { s.eng with rings := replaceFirst (fun x => x.key = r.key) r s.eng.rings } }

/-- The memory key of slot `k` of a ring's sequence (R295). -/
def Ring.slotKey (r : Ring) (k : Nat) : Nat := windowKey r.cluster (r.base + k % r.slots * r.size)

/-- A producer may take one more slot (R295, R300). -/
def Ring.room (r : Ring) : Bool := r.w + r.flying < r.r + r.slots

/-- Publishes slot `k`: the count rises over every slot that is ready in turn (R295). -/
def Ring.publish (r : Ring) (k : Nat) : Ring :=
  let early := r.early ++ [k]
  let run := ((List.range (early.length + 1)).takeWhile (fun i => early.contains (r.w + i))).length
  { r with w := r.w + run, flying := r.flying - 1, early := early.filter (fun x => r.w + run ≤ x) }

/-! ### Copies -/

/-- The slot that a cluster holds by RBWAIT at an address (R290). -/
def heldSlot (s : State) (cluster : Nat) (a : Word) : Bool :=
  a.toNat / 2 ^ 20 = 0xFE * 2 ^ 36 &&
  s.eng.rings.any (fun r => r.cluster = cluster &&
    (List.range (r.c - r.r)).any (fun i => r.base + (r.r + i) % r.slots * r.size = a.toNat % 2 ^ 20))

/-- An end in paddock memory or in a scratchpad bank (R290). -/
def plainEnd (s : State) (cluster : Nat) (a : Word) : Bool :=
  let x := a.toNat
  x / 2 ^ 56 = 0 || (x / 2 ^ 20 = 0xFE * 2 ^ 36 && s.bankMode cluster (bits x 19 15) = 1)

/-- A cluster lies in the strips of a configuration. -/
def confHas (s : State) (cid cluster : Nat) : Bool :=
  match s.conf? cid with
  | some c => c.strip0 ≤ cluster / 10 && cluster / 10 < c.strip0 + c.strips
  | none => false

/-- A ring that copies of a configuration may fill: one of its own, unbound or bound to its copies (R290, R295). -/
def copyRing (s : State) (cid : Nat) (a : Word) : Option Ring :=
  match handleKey a with
  | some k => match s.ring? k with
    | some r => if (r.bind = .none ∨ r.bind = .copies cid) ∧ confHas s cid r.cluster then some r else none
    | none => none
  | none => none

/-- Check of R290: 0, or the code as a positive number. -/
def copyCheck (s : State) (t : Task) (a b c : Word) : Nat :=
  let cl := clusterOf t.pos
  if 7 < c.toNat then 1
  else
    let shp := t.shp.toList.getD c.toNat 0
    if shp = 0 then 2
    else if !(plainEnd s cl a || heldSlot s cl a) || !(plainEnd s cl b || (copyRing s t.cid b).isSome) then 3
    else
      let unit := if shpTile shp then 64 else elemBytes (shpFmt shp)
      if a.toNat % unit ≠ 0 ∨ b.toNat % unit ≠ 0 then 4
      else
        match copyRing s t.cid b with
        | some r => if r.size < shpRows shp * shpBytes shp then 5 else 0
        | none => 0

/-- ACOPY (R288): it waits for its register, for room in the queue and for earlier memory operations; then a refused copy
leaves its code in the register, and an accepted one marks it pending. -/
def execAcopy (n : BitVec 6) (t u : BitVec 9) (s : State) : Out :=
  let i := Instr.acopy n t u
  let g := n.toNat
  fireWaiting i s (fun _ _ _ _ _ => none) (fun s _ _ => .order s.ctl.ids) (fun s t f idx x k _ =>
    match k with
    | .order upto =>
      let cl := clusterOf t.pos
      let queued := (s.eng.copies.filter (fun c => c.cluster = cl && !c.running)).length
      if t.pending.any (fun p => p.1 = g) || 16 ≤ queued || !performedUpto s t upto then none
      else
        let code := copyCheck s t x.wa x.wb x.wc
        if code ≠ 0 then some (s, { t with g := t.g.set! g (-(BitVec.ofNat 64 code)) }, f.putAll idx trigger i.targets)
        else
          let (id, s) := s.newId
          let c : CopyOp := { id := id, cluster := cl, pad := t.part.toNat, ten := t.ten.toNat, cid := t.cid, pos := t.pos, slot := t.slot, g := g, src := x.wa, dst := x.wb
                              shape := t.shp.toList.getD x.wc.toNat 0, held := heldSlot s cl x.wa && !plainEnd s cl x.wa
                              ring := (copyRing s t.cid x.wb).map (·.key), ringSlot := none
                              running := false, reach := 0, lost := false, moved := 0, lag := [], owed := [], pts := s.basePts t, kept := none }
          some ({ s with eng := { s.eng with copies := s.eng.copies ++ [c] } }, { t with pending := t.pending ++ [(g, id)] },
            f.putAll idx trigger i.targets)
    | _ => none)

def State.setCopy (s : State) (c : CopyOp) : State :=
  { s with eng := { s.eng with copies := replaceFirst (fun x => x.id = c.id) c s.eng.copies } }

/-- The register of a copy holds its value: the running block's GETs of it are no longer held back, and send it (R17, R289).
Log 46. -/
def Frame.endPending (f : Frame) (g : Nat) (v : Word) : Frame :=
  if f.gpend.contains g then { f with gpend := f.gpend.filter (fun x => x ≠ g), g0 := f.g0.set! g v } else f

/-- Keeps what a completed operation leaves for what joins it, beside what an earlier one left there and is not yet written back (R251,
R253). -/
def Task.leaves (t : Task) (reg pts : Nat) (lines : List Nat) : Task :=
  let old := (t.joins.find? (fun x => x.reg = reg)).getD { reg := reg, pts := 0, lines := [] }
  let new : Join := { reg := reg, pts := max old.pts pts, lines := old.lines.filter (fun l => !lines.contains l) ++ lines }
  { t with joins := upsert (fun x => x.reg = reg) new t.joins }

/-- Ends a copy: its register takes the value and is no longer pending (R289); a GET of it joins the copy (R253). -/
def endCopy (s : State) (c : CopyOp) (v : Word) : State :=
  let s := { s with eng := { s.eng with copies := s.eng.copies.filter (fun x => x.id ≠ c.id) } }
  let s := s.confDid c.cid c.pts
  match s.task? c.pos c.slot with
  | none => s
  | some t =>
    if t.cid ≠ c.cid then s
    else s.setTask { t.leaves c.g c.pts c.owed with
      g := t.g.set! c.g v, pending := t.pending.filter (fun p => p.2 ≠ c.id), frame := t.frame.map (fun f => f.endPending c.g v) }

/-- A fault of a copy terminates the configuration of its task (R292), and ends the copy. -/
def CopyOp.fail (s : State) (c : CopyOp) (code sub addr : Nat) : State :=
  let s := { s with eng := { s.eng with copies := s.eng.copies.filter (fun x => x.id ≠ c.id) } }
  confFault s c.cid { code := code, sub := sub, tile := clusterTile c.cluster, slot := c.slot, addr := BitVec.ofNat 64 addr
                      extra := BitVec.ofNat 64 c.g }

/-- Queued copy k takes one of its unit's four places (R291). -/
def execCopyStart (k : Nat) (s : State) : Out :=
  match s.eng.copies[k]? with
  | none => .next s
  | some c =>
    if c.running || 4 ≤ (s.eng.copies.filter (fun x => x.cluster = c.cluster && x.running)).length then .next s
    else
      let (l, s) := s.nextLat
      .next (s.setCopy { c with running := true, reach := s.ctl.now + l })

/-- Another copy's reservation comes before one: it reaches the ring's cluster in an earlier cycle, or in the same from a lower
`x.clu` (R292). -/
def reservesFirst (s : State) (c : CopyOp) : Bool :=
  s.eng.copies.any (fun x => x.ring = c.ring && x.running && x.ringSlot.isNone && x.id ≠ c.id &&
    (x.reach < c.reach || (x.reach = c.reach && (x.cluster < c.cluster || (x.cluster = c.cluster && x.id < c.id)))))

/-- Running copy k reserves the next free slot of its ring, once its reservation has reached the ring's cluster and stands first
there (R292, R295). -/
def execRingReserve (k : Nat) (s : State) : Out :=
  match s.eng.copies[k]? with
  | none => .next s
  | some c =>
    match c.ring with
    | none => .next s
    | some key =>
      if !c.running || c.ringSlot.isSome || s.ctl.now ≤ c.reach || reservesFirst s c then .next s
      else
        match s.ring? key with
        | none => .next (endCopy s c (-(3 : Word)))
        | some r =>
          if r.bind ≠ .none ∧ r.bind ≠ .copies c.cid then .next (c.fail s 0x2A 6 0)
          else if !r.room then .next (s.setRing { r with bind := .copies c.cid })
          else
            let n := r.w + r.flying
            .next ((s.setRing { r with flying := r.flying + 1, bind := .copies c.cid }).setCopy
              { c with ringSlot := some n, pts := max c.pts r.back })

/-- The keys of a byte range of an access by a configuration, translated line by line (R254, R292). -/
def rangeKeys (tr : State → Nat → Nat → ElemAcc) : List (Nat × Nat) → State → List (Nat × Nat) → Option (List (Nat × Nat)) × State
  | [], s, acc => (some acc, s)
  | (a, n) :: rest, s, acc =>
    match tr s a n with
    | .ok s k => rangeKeys tr rest s (acc ++ [(k, n)])
    | .wait s => (none, s)
    | .dead s => (none, s)

/-- One end of a copy at an address: the copy unit's own access (R290 to R292). -/
def CopyOp.access (s : State) (c : CopyOp) (wr : Bool) (a n : Nat) : ElemAcc :=
  if a / 2 ^ 56 = 0xFE then
    let b := bits a 19 15
    let k := windowKey c.cluster (a % 2 ^ 20)
    if bits a 55 20 ≠ 0 then .dead (c.fail s 0x12 2 a)
    else
      match c.kept with
      | some w => if w.2.any (fun x => k / 8 ≤ x && x ≤ (k + n - 1) / 8) then .dead (c.fail s 0x16 4 a) else .ok s k
      | none =>
        if s.bankBusy c.cluster b then .wait s
        else if s.bankMode c.cluster b = 1 || (s.bankMode c.cluster b = 2 && c.held && !wr) then
          if !wr && s.poisoned k n then .dead (c.fail s 0x16 4 a) else .ok s k
        else .dead (c.fail s 0x12 2 a)
  else if a / 2 ^ 56 ≠ 0 then .dead (c.fail s 0x12 1 a)
  else
    match translate s c.pad c.ten (some c.cid) none a (!wr) wr with
    | (s, .ok k _) =>
      match followMoves s 8 k with
      | none => .dead (c.fail s 0x15 4 a)
      | some k =>
        if !mayPass s k 3 c.id then .wait (parkAt s k 3 c.id)
        else if wr && liveHeader s k then .dead (c.fail s 0x12 4 a)
        else if !wr && s.poisoned k n then .dead (c.fail s 0x16 4 a)
        else .ok (unpark s k 3 c.id) k
    | (s, .miss host) => .wait (pageMissCopy s c a wr host)
    | (s, .fault cd sub _) => .dead (c.fail s cd sub a)
    | (s, .dropped) => .wait ((s.mapPad c.pad (fun p => { p with pdrop := (p.pdrop + 1) % 2 ^ 32 })).setCopy { c with lost := true })

/-- The bytes of one end of a move, as a tile load or piece by piece, by a party at timestamp `p`; its new timestamp (R254, R291). -/
def readShaped (s : State) (who p : Nat) (tile : Bool) (ks : List (Nat × Nat)) : State × List Byte × Nat :=
  if tile then readTile s who p ks else readKeys s who p ks

/-- The bytes written to one end of a move, as a tile store or piece by piece, by a party at timestamp `p`; its new timestamp (R254,
R291). -/
def writeShaped (s : State) (who p : Nat) (tile : Bool) (ks : List (Nat × Nat)) (bs : List Byte) : State × Nat :=
  if tile then tileStore s who ks bs p else writeKeys s who p ks bs

/-- Rows of a piece of a copy: source address, destination address, bytes (R291). -/
def CopyOp.rowAt (s : State) (c : CopyOp) (r off n : Nat) : Nat × Nat × Nat :=
  let sa := if c.held then c.src.toNat + r * shpBytes c.shape + off else (c.src.toNat + r * shpPitch c.shape + off) % 2 ^ 64
  let da := match c.ring, c.ringSlot with
    | some key, some k => match s.ring? key with
      | some q => q.slotKey k + r * shpBytes c.shape + off
      | none => 0
    | _, _ => (c.dst.toNat + r * shpPitch c.shape + off) % 2 ^ 64
  (sa, da, n)

/-- The pieces of row `r`: split at the destination's 64-byte boundaries (R291). -/
def CopyOp.rowPieces (s : State) (c : CopyOp) (r : Nat) : List (List (Nat × Nat × Nat)) :=
  let bytes := shpBytes c.shape
  let da := (c.rowAt s r 0 0).2.1
  (lineCuts (bytes / 64 + 2) da bytes).map (fun p => [c.rowAt s r (p.1 - da) p.2])

/-- Piece `n` of a copy, as rows moved together: a tile of up to 64 rows, or one piece of a row. None past the last. -/
def CopyOp.piece (s : State) (c : CopyOp) (n : Nat) : Option (List (Nat × Nat × Nat)) :=
  let rows := shpRows c.shape
  let bytes := shpBytes c.shape
  if shpTile c.shape then
    if rows ≤ 64 * n then none
    else some ((List.range (min 64 (rows - 64 * n))).map (fun i => c.rowAt s (64 * n + i) 0 bytes))
  else ((List.range rows).flatMap (c.rowPieces s))[n]?

/-- The source and destination keys of the rows of a piece, all translated before any byte moves (R254). No row of a tile may touch host
memory or a remote window, which comes before any other fault of its rows (R257, R292). -/
def CopyOp.keys (s : State) (c : CopyOp) (rows : List (Nat × Nat × Nat)) :
    Option (List (Nat × Nat) × List (Nat × Nat)) × State :=
  let tile := shpTile c.shape
  let src := rows.flatMap (fun r => lineCuts (r.2.2 / 64 + 2) r.1 r.2.2)
  let dst := rows.flatMap (fun r => lineCuts (r.2.2 / 64 + 2) r.2.1 r.2.2)
  match (if tile then (src ++ if c.ring.isSome then [] else dst).find? (fun a => standsOutside s c.pad c.ten a.1) else none) with
  | some a => (none, c.fail s 0x12 10 a.1)
  | none =>
  match rangeKeys (fun s a n => c.access s false a n) src s [] with
  | (none, s) => (none, s)
  | (some ks, s) =>
    if c.ring.isSome then (some (ks, dst), s)
    else
      match rangeKeys (fun s a n => c.access s true a n) dst s [] with
      | (none, s) => (none, s)
      | (some kd, s) => (some (ks, kd), s)

/-- The source bytes of a piece; those of a window of a configuration that has ended are the ones kept (R289, R291). -/
def CopyOp.readEnd (s : State) (c : CopyOp) (ks : List (Nat × Nat)) : State × List Byte × Nat :=
  match c.kept with
  | some w => (s, ks.flatMap (fun k => readBytes w.1 k.1 k.2), c.pts)
  | none => readShaped s c.who c.pts (shpTile c.shape) ks

/-- Adds the lines of host memory that some keys write to those that an operation owes (R251). -/
def owedWith (owed : List Nat) (ks : List (Nat × Nat)) : List Nat :=
  let new := ((ks.filter (fun k => regionOf k.1 = 1)).map (fun k => lineOf k.1)).eraseDups
  owed.filter (fun l => !new.contains l) ++ new

/-- Running copy k moves its next piece; after the last, once its writes are performed at paddock scope, it publishes its slot
and completes with 0 (R253, R289, R291, R292). -/
def execCopyComplete (k : Nat) (s : State) : Out :=
  match s.eng.copies[k]? with
  | none => .next s
  | some c =>
    if !c.running || c.lost || (c.ring.isSome && c.ringSlot.isNone) then .next s
    else if (match c.ring with | some key => (s.ring? key).isNone | none => false) then .next (endCopy s c (-(3 : Word)))
    else
      match c.piece s c.moved with
      | some rows =>
        match c.keys s rows with
        | (none, s) => .next s
        | (some (ks, kd), s) =>
          let (s, bs, p) := c.readEnd s ks
          let (s, q) := writeShaped s c.who p (shpTile c.shape) kd bs
          .next (s.setCopy { c with moved := c.moved + 1, pts := q, owed := owedWith c.owed kd, lag := c.lag ++ lagOf s c.id (kd.map (fun k => lineOf k.1)) })
      | none =>
        if lagging s c.lag then .next s
        else
        let s := match c.ring, c.ringSlot with
          | some key, some n => (match s.ring? key with | some r => s.setRing { r.publish n with pts := max r.pts c.pts } | none => s)
          | _, _ => s
        .next (endCopy s c 0)

/-! ### Ring instructions -/

/-- The RING subcode of a handle for a task (R296, R297): malformed, of another cluster, or its bank not in FIFO mode. -/
def ringOf (s : State) (t : Task) (h : Word) : Option Nat :=
  match handleKey h with
  | none => none
  | some k =>
    if k / 2 ^ 20 = clusterOf t.pos && s.bankMode (k / 2 ^ 20) (k % 2 ^ 20 / 2 ^ 15) = 2 then some k else none

/-- The check of an RB instruction other than RBOPEN at its firing (R297), with its own rule for an open ring. -/
def ringCheck (own : Ring → Option Nat) : State → Task → Frame → Nat → Ins → Option Raise := fun s t _ idx x =>
  match ringOf s t x.wa with
  | none => some { code := 0x2A, sub := 1, idx := idx }
  | some k =>
    match s.ring? k with
    | none => some { code := 0x2A, sub := 4, idx := idx }
    | some r => match own r with | some sub => some { code := 0x2A, sub := sub, idx := idx } | none => none

/-- A wait on the next slot of a ring. -/
def WaitKind.onSlot (k : WaitKind) (key : Nat) : Bool := match k with | .slot m _ => m = key | _ => false

/-- A task of the ring's cluster that fired before a given cycle and place still waits for its next slot (R296). -/
def slotAsked (s : State) (key : Nat) (before : Nat × Nat → Bool) : Bool :=
  s.cores.tasks.any (fun t => match t.frame with
    | some f => f.waits.any (fun w => match w.kind with
      | .slot m since => m = key && before (since, inCluster t.pos)
      | _ => false)
    | none => false)

/-- RBWAIT delivers the next slot's address or number (R296), to the first that fired. -/
def execRbwait (e : BitVec 1) (t u : BitVec 9) (s : State) : Out :=
  let i := Instr.rbwait e t u
  fireWaiting i s (ringCheck (fun _ => none)) (fun s _ x => .slot ((handleKey x.wa).getD 0) s.ctl.now) (fun s t f idx _ k before =>
    match k with
    | .slot key since =>
      match s.ring? key with
      | none => some (s, t, .error { code := 0x2A, sub := 4, idx := idx })
      | some r =>
        if r.w ≤ r.c || before.any (fun w => w.kind.onSlot key) ||
          slotAsked s key (fun x => x.1 < since || (x.1 = since && x.2 < inCluster t.pos)) then none
        else
          let v : Word := if e = 1 then BitVec.ofNat 64 r.c
            else BitVec.ofNat 64 (0xFE * 2 ^ 56 + r.base + r.c % r.slots * r.size)
          some (s.setRing { r with c := r.c + 1 }, t.raisePts r.pts, f.putAll idx (scalar v) i.targets)
    | _ => none)

/-- RBREL releases the oldest delivered slot (R296). -/
def execRbrel (t u : BitVec 9) (s : State) : Out :=
  let i := Instr.rbrel t u
  fireWith i s (fun _ => i.targets) (passNull i) (fun s t f idx x =>
    match ringCheck (fun r => if r.c = r.r then some 5 else none) s t f idx x with
    | some r => (s, t, .error r)
    | none =>
      match s.ring? ((handleKey x.wa).getD 0) with
      | some r => (s.setRing { r with r := r.r + 1, back := max r.back t.pts.toNat }, t, f.putAll idx trigger i.targets)
      | none => (s, t, .ok f))

/-- RBOPEN (R296, R297): handle, geometry, then, once no bank of the ring is switching, the modes, the openings and overlap. -/
def execRbopen (t u : BitVec 9) (s : State) : Out :=
  let i := Instr.rbopen t u
  fireWaiting i s
    (fun _ t _ idx x =>
      let b := x.wb.toNat
      let slots := b % 256
      let size := bits b 15 8 * 64
      match handleKey x.wa with
      | none => some { code := 0x2A, sub := 1, idx := idx }
      | some k =>
        if k / 2 ^ 20 ≠ clusterOf t.pos then some { code := 0x2A, sub := 1, idx := idx }
        else if b / 2 ^ 16 ≠ 0 || slots < 2 || 64 < slots || size = 0 || 2 ^ 20 < k % 2 ^ 20 + slots * size then
          some { code := 0x2A, sub := 2, idx := idx }
        else none)
    (fun _ _ x => .ring ((handleKey x.wa).getD 0))
    (fun s t f idx x _ _ =>
      let cl := clusterOf t.pos
      let key := (handleKey x.wa).getD 0
      let new : Ring := { key := key, slots := x.wb.toNat % 256, size := bits x.wb.toNat 15 8 * 64, w := 0, c := 0, r := 0
                          flying := 0, bind := .none, early := [], pts := 0, back := 0 }
      let banks := (List.range 32).filter (fun n => new.inBank cl n)
      let fault (sub : Nat) := some (s, t, Except.error ({ code := 0x2A, sub := sub, idx := idx } : Raise))
      if banks.any (s.bankBusy cl) then none
      else if banks.any (fun n => s.bankMode cl n ≠ 2) then fault 1
      else if (s.ring? key).isSome || 32 ≤ (s.eng.rings.filter (fun r => r.cluster = cl)).length then fault 3
      else if s.eng.rings.any (fun r => r.cluster = cl && r.base < new.base + new.slots * new.size &&
          new.base < r.base + r.slots * r.size) then fault 2
      else some ({ s with eng := { s.eng with rings := s.eng.rings ++ [new] } }, t, f.putAll idx trigger i.targets))

/-- A configuration that is placed, or that stands in a checkpoint while its graph runs on (R353). -/
def State.heldConf (s : State) (cid : Nat) : Option Conf :=
  match s.conf? cid with
  | some c => some c
  | none => (s.drv.ckpts.find? (fun k => k.conf.cid = cid)).map (·.conf)

/-- The configuration in whose context a program runs (R67, log 49): that it is bound to, else that of the task that issued its
graph; a program of a host launch has none. -/
def AgProg.owner (s : State) (g : AgProg) : Option Conf :=
  match g.bind, s.launch? g.launch with
  | some cid, _ => s.heldConf cid
  | none, some l => (match l.ctx with | .task _ _ cid _ _ => s.heldConf cid | _ => none)
  | none, none => none

/-- A CNODE's program stops with a fault against the context that started it (R67, R297, R298): its record, the end of the program,
the failure of its node, and the end of its owner's configuration (R346: each of these faults is terminating). -/
def stopProgram (s : State) (g : AgProg) (code sub : Nat) (addr : Nat) (extra : Nat := 0) : State :=
  let graph := match s.launch? g.launch with | some l => l.graph | none => 0
  let own := g.owner s
  let (s, a) := writeRecord s g.pad g.ten
    { code := code, sub := sub, tile := g.pos, slot := g.place, addr := BitVec.ofNat 64 addr, extra := BitVec.ofNat 64 extra
      graph := graph, node := g.node, cfg := (own.map (·.ident)).getD 0xFFFF
      cyc := match own with
        | some c => (match s.drv.ckpts.find? (fun k => k.conf.cid = c.cid) with | some k => k.cycles | none => s.ctl.now - c.start)
        | none => 0 }
  let s := { s with eng := { s.eng with
    progs := s.eng.progs.filter (fun x => x.id ≠ g.id)
    rings := s.eng.rings.map (fun r => if r.bind = .stream g.id then { r with bind := .none } else r) } }
  let s := nodeFail s g.launch g.node code a
  match own with
  | some c => if (s.conf? c.cid).isSome then terminate s c.cid code a else endCkpt s c.cid code a
  | none => s

/-- Every other task's block that waits for a slot of a closed ring raises RING subcode 4, the lowest index first (R65, R296). -/
def failWaiters (s : State) (key : Nat) (pos slot : Nat) : State :=
  s.cores.tasks.foldl (fun s t =>
    if t.pos = pos ∧ t.slot = slot then s
    else
      match s.task? t.pos t.slot with
      | none => s
      | some t =>
        match t.frame with
        | none => s
        | some f =>
          match (f.waits.filter (fun w => w.kind.onSlot key)).map (·.idx) with
          | [] => s
          | i :: is => s.setFrame t (f.raiseFault { code := 0x2A, sub := 4, idx := is.foldl min i })) s

/-- What follows the closing of a ring (R296): waiting copies end with −3, a bound program or scan stops. -/
def afterClose (s : State) (r : Ring) : State :=
  let s := (s.eng.copies.filter (fun c => c.ring = some r.key && c.ringSlot.isNone)).foldl (fun s c => endCopy s c (-(3 : Word))) s
  match r.bind with
  | .stream id => (match s.eng.progs.find? (fun g => g.id = id) with | some g => stopProgram s g 0x2A 4 0 | none => s)
  | .scan id =>
    match s.eng.scans.find? (fun c => c.id = id) with
    | some c =>
      let s := { s with eng := { s.eng with scans := s.eng.scans.filter (fun x => x.id ≠ id) } }
      confFault s c.cid { code := 0x2A, sub := 4, tile := c.pos, slot := c.slot }
    | none => s
  | _ => s

/-- RBCLOSE (R296): it waits until no producer's write is in flight, discards undelivered slots, unbinds and closes. -/
def execRbclose (t u : BitVec 9) (s : State) : Out :=
  let i := Instr.rbclose t u
  fireWaiting i s (ringCheck (fun r => if r.r < r.c then some 5 else none)) (fun _ _ x => .ring ((handleKey x.wa).getD 0))
    (fun s t f idx _ k _ =>
      match k with
      | .ring key =>
        match s.ring? key with
        | none => some (s, t, .error { code := 0x2A, sub := 4, idx := idx })
        | some r =>
          if 0 < r.flying then none
          else
            -- the block goes on first: closing may end the configuration of a bound scan
            let s := { s with eng := { s.eng with rings := s.eng.rings.filter (fun x => x.key ≠ key) } }
            let s := failWaiters (afterClose (s.setTask { t with frame := some f }) r) key t.pos t.slot
            let own := (f.waits.filter (fun w => w.kind.onSlot key)).map (·.idx)
            match s.task? t.pos t.slot with
            | some t => some (s, t, match t.frame, own with
              | some _, i :: is => .error { code := 0x2A, sub := 4, idx := is.foldl min i }
              | some f, [] => f.putAll idx trigger i.targets
              | none, _ => .ok f)
            | none => some (s, t, .ok f)
      | _ => none)

/-! ### Fibre scans -/

/-- FSCAN (R155): after the earlier memory operations it checks its handle, its ring and the fibre, binds the ring and starts;
its trigger follows. The order of these checks, and that a ring of any cluster of the configuration will do and another raises RING
subcode 1, R155 does not give. Log 46. -/
def execFscan (t u : BitVec 9) (s : State) : Out :=
  let i := Instr.fscan t u
  fireWaiting i s (fun _ _ _ _ _ => none) (fun s _ _ => .order s.ctl.ids) (fun s t f idx x k _ =>
    match k with
    | .order upto =>
      if !performedUpto s t upto then none
      else
        let fault (s : State) (code sub : Nat) (addr : Word) (extra : Word := 0) :=
          some (s, t, Except.error ({ code := code, sub := sub, idx := idx, addr := addr, extra := extra } : Raise))
        match checkAddr s t (fibreForm x.wa true false) x.wa.toNat with
        | (s, .ok [some key]) =>
          match followMoves s 8 key, handleKey x.wb with
          | none, _ => fault s 0x15 4 x.wa
          | _, none => fault s 0x2A 1 0
          | some key, some rk =>
            if !confHas s t.cid (rk / 2 ^ 20) || s.bankMode (rk / 2 ^ 20) (rk % 2 ^ 20 / 2 ^ 15) ≠ 2 then fault s 0x2A 1 0
            else
            match s.ring? rk with
            | none => fault s 0x2A 4 0
            | some r =>
              if r.bind ≠ .none then fault s 0x2A 6 0
              else if (s.fibre? key).isNone then fault s 0x22 3 x.wa
              else
                let (id, s) := s.newId
                let sc : Scan := { id := id, cid := t.cid, pos := t.pos, slot := t.slot, key := key, ring := rk
                                   next := x.wc.toNat % 2 ^ 32, hi := x.wc.toNat / 2 ^ 32, pts := s.basePts t }
                let s := s.setRing { r with bind := .scan id }
                some ({ s with eng := { s.eng with scans := s.eng.scans ++ [sc] } }, t, f.putAll idx trigger i.targets)
        | (s, .miss va wr host) =>
          some (pageMissConf s t.part.toNat t.ten.toNat t.cid va wr host, t, .ok (f.wait idx k))
        | (s, .bad c sub e va) => fault s c sub (BitVec.ofNat 64 va) (BitVec.ofNat 64 e)
        | _ => none
    | _ => none)

/-- A scan of a task has ended: a FENCE with J = 1 joins it (R253). -/
def endScan (s : State) (c : Scan) (p : Nat) : State :=
  (s.mapTask c.pos c.slot (fun t => if t.cid ≠ c.cid then t else t.leaves 64 p [])).confDid c.cid p

/-- Scan k fills one slot of its ring (R155): the fold and the pairs are one access at the header's home, where it waits like any other
(R320, R321) and which it follows when it has moved (R367); the slot that runs out of pairs ends the scan. A fault of a scan that runs on
after its block ends its configuration: R155 gives only those that the block raises. Log 46. -/
def execFscanSlot (k : Nat) (s : State) : Out :=
  match s.eng.scans[k]? with
  | none => .next s
  | some c =>
    match s.ring? c.ring with
    | none => .next s
    | some r =>
      if !r.room then .next s
      else
        let n := r.size / 8
        let drop (s : State) : State := { s with eng := { s.eng with scans := s.eng.scans.filter (fun x => x.id ≠ c.id) } }
        let late (s : State) (fl : Nat) : State := match s.conf? c.cid with
          | some cf => lateFlags s (.task cf.pad cf.ten c.cid c.pos c.slot) fl
          | none => s
        match followMoves s 8 c.key with
        | none => .next (confFault (drop s) c.cid { code := 0x15, sub := 4, tile := c.pos, slot := c.slot })
        | some key =>
        if !mayPass s key 9 c.id then .next (parkAt s key 9 c.id) else
        let s := unpark s key 9 c.id
        let held := foldLine s (lineOf key)
        let stamp (s' : State) : State := touchL2 (stampHeader held s' key) (s.confWho c.cid) (lineOf key) true
        match fibScan held key c.next c.hi n with
        | (s', .error e) =>
          .next (confFault (late (drop (stamp s')) e.2) c.cid { code := e.1.1, sub := e.1.2, tile := c.pos, slot := c.slot })
        | (s', .ok (ps, fl)) =>
          let (s, p) := leaseLoad (stamp s') (lineOf key) (max c.pts r.back)
          let s := late s fl
          let bs := ((List.range n).map (fun i => ps.getD i (sentinel, 0))).flatMap (fun p => toBytes 4 p.1 ++ toBytes 4 p.2)
          let s := s.write (r.slotKey r.w) bs
          let done := ps.length < n
          let s := s.setRing { r with w := r.w + 1, bind := if done then .none else r.bind, pts := max r.pts p }
          if done then .next (endScan (drop s) c p)
          else
            let next := (ps.getLast?.map (fun p => p.1 + 1)).getD (c.hi + 1)
            .next { s with eng := { s.eng with scans := s.eng.scans.map (fun x => if x.id = c.id then { x with next := next, pts := p } else x) } }

end Sys2Proof.Machine
end

