-- ==== Sys2Proof/Machine/Ag.lean ====
section
/-! DEFINITION. Address generators: stream programs, their words and their ports (R67, R298 to R300). -/

namespace Sys2Proof.Machine

/-! ### Programs -/

def State.setProg (s : State) (g : AgProg) : State :=
  { s with eng := { s.eng with progs := replaceFirst (fun x => x.id = g.id) g s.eng.progs } }

/-- A sink whose port's marker stands before the rest of a tile: its tokens are saved with it (R350, R351). -/
def AgProg.starved (s : State) (g : AgProg) : Bool :=
  match g.word.map decodeAg, g.ops with
  | some (.agsink _ _ _ _), some ops =>
    (match s.input? { pos := g.pos, cls := .engine, idx := (ops.getD 2 0).toNat } with
      | some i => i.marker && i.toks.isEmpty
      | none => true)
  | _, _ => false

/-- A program bound to a configuration that drains stops at a tile boundary (R350): no tokens of a tile are left to send or, at a
sink, still to come. -/
def agHalted (s : State) (g : AgProg) : Bool :=
  (g.left.isEmpty || g.starved s) && (match g.bind with
    | some cid => (match s.conf? cid with | some c => c.drain.isSome | none => false)
    | none => false)

/-- The program at the site that the step names, unless a drain has stopped it. -/
def agSite (s : State) : Option AgProg :=
  match s.ctl.focus with
  | .ag k => match s.eng.progs[k]? with
    | some g => if g.stopped || agHalted s g then none else some g
    | none => none
  | _ => none

/-- A node of a launch waits on a page request. -/
def pageMissNode (s : State) (pad ten launch node va : Nat) (wr host : Bool) : State :=
  let (id, s) := pageMiss s pad ten va wr host
  { s with mem := { s.mem with pages := s.mem.pages.map (fun q =>
      if q.id = id ∧ !q.hasNode launch node then { q with nodes := q.nodes ++ [((launch, node), va)] } else q) } }

/-- A request of the program was dropped at a hurdle (R370): it is counted, and the program waits for good. -/
def AgProg.lose (s : State) (g : AgProg) : State :=
  (s.mapPad g.pad (fun p => { p with pdrop := (p.pdrop + 1) % 2 ^ 32 })).setProg { g with stopped := true }

/-- The AG's own access at a virtual address (R67, R339). -/
def AgProg.access (s : State) (g : AgProg) (wr : Bool) (a n : Nat) : ElemAcc :=
  if a / 2 ^ 56 ≠ 0 then .dead (stopProgram s g 0x12 1 a)
  else
    match translate s g.pad g.ten g.bind none a (!wr) wr with
    | (s, .ok k _) =>
      match followMoves s 8 k with
      | none => .dead (stopProgram s g 0x15 4 a)
      | some k =>
        if !mayPass s k 4 g.id then .wait (parkAt s k 4 g.id)
        else if wr && liveHeader s k then .dead (stopProgram s g 0x12 4 a)
        else if !wr && s.poisoned k n then .dead (stopProgram s g 0x16 4 a)
        else .ok (unpark s k 4 g.id) k
    | (s, .miss host) => .wait (pageMissNode s g.pad g.ten g.launch g.node a wr host)
    | (s, .fault cd sub e) => .dead (stopProgram s g cd sub a e)
    | (s, .dropped) => .wait (g.lose s)

/-- `n` doublewords of the program from an address; none while it waits or when it has stopped. -/
def AgProg.fetch (s : State) (g : AgProg) (a n : Nat) : Option (List Word) × State :=
  match rangeKeys (fun s a n => g.access s false a n) ((List.range n).map (fun i => (a + 8 * i, 8))) s [] with
  | (none, s) => (none, s)
  | (some ks, s) => (some (ks.map (fun k => BitVec.ofNat 64 (s.read k.1 8))), s)

/-- Runs a word of a program: its `n` operands are read when it is reached and kept until it is done. -/
def withOps (n : Nat) (s : State) (body : State → AgProg → List Word → State) : Out :=
  match agSite s with
  | none => .next s
  | some g =>
    match g.ops with
    | some ops => .next (body s g ops)
    | none =>
      match g.fetch s (g.pc.toNat + 8) n with
      | (none, s) => .next s
      | (some ops, s) =>
        let g := { g with ops := some ops, tile := 0, left := [], pulses := 0 }
        .next (body (s.setProg g) g ops)

/-- Stops a program for a bad word or operand (R67, R298). -/
def badWord (s : State) (g : AgProg) : State := stopProgram s g 0x01 8 g.pc.toNat

/-- Goes on to the word after this one and its `n` operands. -/
def AgProg.past (g : AgProg) (n : Nat) : AgProg :=
  { g with pc := g.pc + BitVec.ofNat 64 (8 * (n + 1)), word := none, ops := none, tile := 0, left := [], pulses := 0 }

/-- The bases that earlier executions of the word with ADV have left (R298). -/
def AgProg.bases (g : AgProg) (a b : Word) : Word × Word :=
  match g.adv.find? (fun x => x.1 = g.pc) with
  | some x => x.2
  | none => (a, b)

/-- Keeps the advanced bases of the word. -/
def AgProg.keepBases (g : AgProg) (x : Word × Word) : AgProg :=
  { g with adv := g.adv.filter (fun y => y.1 ≠ g.pc) ++ [(g.pc, x)] }

/-- A tile stride in bytes. -/
def strideBytes (t : BitVec 32) : Word := t.signExtend 64 * 64

/-- One tile done: the next tile of the word, or past it (R298). -/
def AgProg.nextTile (g : AgProg) (n count : Nat) (adv : Bool) (bases : Word × Word) (sa sb : Word) : AgProg :=
  if g.tile + 1 < count then { g with tile := g.tile + 1, left := [] }
  else
    let c := BitVec.ofNat 64 count
    let g := if adv then g.keepBases (bases.1 + c * sa, bases.2 + c * sb) else g
    g.past n

/-! ### Tiles -/

/-- A shape operand that MSHAPE would refuse, or with a reserved value; its TILE bit is ignored (R298). -/
def shapeOperandBad (w : Word) : Bool :=
  shpFmt w = 15 || bits w.toNat 37 37 = 1 || (shapeBad (shpRows w + shpBytes w * 2 ^ 16) (shpPitch w) (shpFmt w)).isSome

/-- Tile-shaped by its row bytes (R287). -/
def tileShaped (w : Word) : Bool := shpBytes w = 64 || shpBytes w = 128 || shpBytes w = 192 || shpBytes w = 256

/-- A base that breaks R293, or with its top byte set. -/
def baseBad (shape a : Word) : Bool :=
  a.toNat / 2 ^ 56 ≠ 0 || a.toNat % (if tileShaped shape then 64 else elemBytes (shpFmt shape)) ≠ 0

/-- The byte ranges of a tile at a base, row by row, cut at lines. -/
def tileRanges (shape a : Word) : List (Nat × Nat) :=
  (List.range (shpRows shape)).flatMap (fun r =>
    lineCuts (shpBytes shape / 64 + 2) ((a.toNat + r * shpPitch shape) % 2 ^ 64) (shpBytes shape))

/-- The keys of a tile, every row translated before any byte moves (R254, R257). -/
def AgProg.tileKeys (s : State) (g : AgProg) (shape a : Word) (wr : Bool) : Option (List (Nat × Nat)) × State :=
  match (if tileShaped shape then (tileRanges shape a).find? (fun x => standsOutside s g.pad g.ten x.1) else none) with
  | some x => (none, stopProgram s g 0x12 10 x.1)
  | none => rangeKeys (fun s x n => g.access s wr x n) (tileRanges shape a) s []

/-- Notes writes of a program that are not yet performed (R246). -/
def agLag (s : State) (g : AgProg) (ks : List (Nat × Nat)) : AgProg :=
  { g with lag := g.lag ++ lagOf s g.id (ks.map (fun k => lineOf k.1)) }

/-- A tile's bytes as data tokens, the last one filled up with zeros. -/
def tileTokens (bs : List Byte) : List Vec := (chunk 64 (bs.length / 64 + 1) bs).map (fun c => BitVec.ofNat 512 (ofBytes c))

/-- Tokens of a tile. -/
def tokensOf (shape : Word) : Nat := (shpRows shape * shpBytes shape + 63) / 64

/-- The ring that a program streams into or takes from (R297, R298), or the RING subcode; 0 while the ring is saved in a
checkpoint, and the program waits (R353). -/
def agRing (s : State) (shape h : Word) : Except Nat Ring :=
  match handleKey h with
  | none => .error 1
  | some k =>
    if (s.ring? k).isNone && s.drv.ckpts.any (fun x => x.rings.any (fun r => r.key = k)) then .error 0
    else if s.bankMode (k / 2 ^ 20) (k % 2 ^ 20 / 2 ^ 15) ≠ 2 then .error 1
    else
      match s.ring? k with
      | none => .error 4
      | some r => if r.size < shpRows shape * shpBytes shape then .error 7 else .ok r

/-- The ring stands in the program's paddock; packets to any other ring are dropped at a hurdle (R370). -/
def ringInside (s : State) (g : AgProg) (r : Ring) : Bool :=
  match s.pad? g.pad with
  | some p => p.first ≤ r.cluster / 10 && r.cluster / 10 < p.first + p.count
  | none => false

/-- An engine port of the program's edge tile. -/
def AgProg.ep (g : AgProg) (n : Nat) : Ep := { pos := g.pos, cls := .engine, idx := n }

/-- The port is an output, an input of the configuration that the program is bound to (R299). -/
def AgProg.outputOk (s : State) (g : AgProg) (n : Nat) : Bool :=
  s.fab.links.any (fun l => some l.cid = g.bind && l.src = g.ep n)
def AgProg.inputOk (s : State) (g : AgProg) (n : Nat) : Bool :=
  s.fab.links.any (fun l => some l.cid = g.bind && l.dst = g.ep n)

/-! ### Words -/

/-- AGSTRM (R298, R300): each tile waits for a free slot of the ring, or for credit on the port, is read, and is published
or sent. -/
def execAgstrm (kind : BitVec 2) (count : BitVec 16) (adv : BitVec 1) (tstr : BitVec 32) (s : State) : Out :=
  withOps 3 s (fun s g ops =>
    let shape := ops.getD 1 0
    let h := ops.getD 2 0
    let bs := g.bases (ops.getD 0 0) 0
    let st := strideBytes tstr
    let a := bs.1 + BitVec.ofNat 64 g.tile * st
    let next (g : AgProg) : AgProg := g.nextTile 3 count.toNat (adv = 1) bs st 0
    if (ops.getD 0 0).toNat / 2 ^ 56 ≠ 0 || shapeOperandBad shape || baseBad shape bs.1 then badWord s g
    else if kind = 0 then
      match agRing s shape h with
      | .error sub => if sub = 0 then s else stopProgram s g 0x2A sub 0
      | .ok r =>
        if !ringInside s g r then g.lose s
        else if r.bind ≠ .none ∧ r.bind ≠ .stream g.id then stopProgram s g 0x2A 6 0
        else
          let r := { r with bind := .stream g.id }
          let s := s.setRing r
          if !r.room then s
          else
            match g.tileKeys s shape a false with
            | (none, s) => s
            | (some ks, s) =>
              let (s, bytes, p) := readShaped s g.who (max g.pts r.back) (tileShaped shape) ks
              ((s.write (r.slotKey r.w) bytes).setRing { r with w := r.w + 1, pts := max r.pts p }).setProg (next { g with pts := p })
    else
      let n := h.toNat
      if 8 ≤ n || !g.outputOk s n then badWord s g
      else if !(s.outLinks (g.ep n)).all (linkOpen s) then s
      else
        match g.left with
        | t :: rest =>
          let g' := if rest.isEmpty then next g else { g with left := rest }
          (match sendOn s (g.ep n) (vector t) with | some r => r.1.setProg g' | none => s)
        | [] =>
          match g.tileKeys s shape a false with
          | (none, s) => s
          | (some ks, s) =>
            let (s, bytes, p) := readShaped s g.who g.pts (tileShaped shape) ks
            let g := { g with pts := p }
            match tileTokens bytes with
            | [] => s.setProg (next g)
            | t :: rest =>
              let g' := if rest.isEmpty then next g else { g with left := rest }
              (match sendOn s (g.ep n) (vector t) with | some r => r.1.setProg g' | none => s))

/-- AGSINK (R298): tiles come from the ring as its consumer, each slot released after its write, or from the port; a poisoned word of a
slot stops the program (R348). A null token on the port is consumed and writes nothing. Log 55. -/
def execAgsink (kind : BitVec 2) (count : BitVec 16) (adv : BitVec 1) (tstr : BitVec 32) (s : State) : Out :=
  withOps 3 s (fun s g ops =>
    let shape := ops.getD 1 0
    let h := ops.getD 2 0
    let bs := g.bases (ops.getD 0 0) 0
    let st := strideBytes tstr
    let a := bs.1 + BitVec.ofNat 64 g.tile * st
    let next (g : AgProg) : AgProg := g.nextTile 3 count.toNat (adv = 1) bs st 0
    let size := shpRows shape * shpBytes shape
    if (ops.getD 0 0).toNat / 2 ^ 56 ≠ 0 || shapeOperandBad shape || baseBad shape bs.1 then badWord s g
    else if kind = 0 then
      match agRing s shape h with
      | .error sub => if sub = 0 then s else stopProgram s g 0x2A sub 0
      | .ok r =>
        if !ringInside s g r then g.lose s
        else if r.w ≤ r.c then s
        else if s.poisoned (r.slotKey r.c) size then stopProgram s g 0x16 4 (0xFE * 2 ^ 56 + r.base + r.c % r.slots * r.size)
        else
          match g.tileKeys s shape a true with
          | (none, s) => s
          | (some ks, s) =>
            let (s, p) := writeShaped s g.who (max g.pts r.pts) (tileShaped shape) ks (readBytes s.mem.bytes (r.slotKey r.c) size)
            (s.setRing { r with c := r.c + 1, r := r.r + 1, back := max r.back p }).setProg (next (agLag s { g with pts := p } ks))
    else
      let n := h.toNat
      if n < 8 || 16 ≤ n || !g.inputOk s n then badWord s g
      else
        let write (s : State) (g : AgProg) : State :=
          match g.tileKeys s shape a true with
          | (none, s) => s
          | (some ks, s) =>
            let (s', p) := writeShaped s g.who g.pts (tileShaped shape) ks (g.left.flatMap (fun v => toBytes 64 v.toNat))
            s'.setProg (next (agLag s { g with pts := p } ks))
        if tokensOf shape ≤ g.left.length then write s g
        else
          match takeToken s (g.ep n) with
          | none => s
          | some (t, s) =>
            if t.isNull then s
            else
              let g := { g with left := g.left ++ [t.vec] }
              let s := s.setProg g
              if tokensOf shape ≤ g.left.length then write s g else s)

/-- AGCOPY (R298): tiles from memory to memory. -/
def execAgcopy (count : BitVec 16) (adv : BitVec 1) (s : State) : Out :=
  withOps 4 s (fun s g ops =>
    let shape := ops.getD 2 0
    let bs := g.bases (ops.getD 0 0) (ops.getD 1 0)
    let strides := (ops.getD 3 0)
    let sa := strideBytes (strides.truncate 32)
    let sb := strideBytes ((strides >>> 32).truncate 32)
    let k := BitVec.ofNat 64 g.tile
    if (ops.getD 0 0).toNat / 2 ^ 56 ≠ 0 || (ops.getD 1 0).toNat / 2 ^ 56 ≠ 0 || shapeOperandBad shape ||
        baseBad shape bs.1 || baseBad shape bs.2 then badWord s g
    else
      match g.tileKeys s shape (bs.1 + k * sa) false with
      | (none, s) => s
      | (some src, s) =>
        match g.tileKeys s shape (bs.2 + k * sb) true with
        | (none, s) => s
        | (some dst, s) =>
          let (s, bytes, p) := readShaped s g.who g.pts (tileShaped shape) src
          let (s, p) := writeShaped s g.who p (tileShaped shape) dst bytes
          s.setProg ((agLag s { g with pts := p } dst).nextTile 4 count.toNat (adv = 1) bs sa sb))

/-- AGFILL (R298): byte 8i + j of each tile becomes byte j of the pattern. -/
def execAgfill (count : BitVec 16) (adv : BitVec 1) (tstr : BitVec 32) (s : State) : Out :=
  withOps 3 s (fun s g ops =>
    let shape := ops.getD 1 0
    let bs := g.bases (ops.getD 0 0) 0
    let st := strideBytes tstr
    if (ops.getD 0 0).toNat / 2 ^ 56 ≠ 0 || shapeOperandBad shape || baseBad shape bs.1 then badWord s g
    else
      match g.tileKeys s shape (bs.1 + BitVec.ofNat 64 g.tile * st) true with
      | (none, s) => s
      | (some ks, s) =>
        let bytes := (List.range (shpRows shape * shpBytes shape)).map (fun i =>
          BitVec.ofNat 8 ((ops.getD 2 0).toNat / 2 ^ (8 * (i % 8))))
        let (s, p) := writeShaped s g.who g.pts (tileShaped shape) ks bytes
        s.setProg ((agLag s { g with pts := p } ks).nextTile 3 count.toNat (adv = 1) bs st 0))

/-- AGLOOP (R298): loads its counter and jumps back, counts down and jumps back, or goes on. -/
def execAgloop (lid : BitVec 2) (n back : BitVec 16) (s : State) : Out :=
  withOps 0 s (fun s g _ =>
    let jump (c : Nat) : AgProg :=
      { g with loops := g.loops.set! lid.toNat (some c), pc := g.pc - BitVec.ofNat 64 (8 * back.toNat), word := none, ops := none }
    match g.loops.toList.getD lid.toNat none with
    | none => s.setProg (jump (n.toNat - 1))
    | some (c + 1) => s.setProg (jump c)
    | some 0 => s.setProg ({ g with loops := g.loops.set! lid.toNat none }.past 0))

/-- AGWAIT (R298): consumes K pulses of its port. -/
def execAgwait (k : BitVec 16) (port : BitVec 3) (s : State) : Out :=
  withOps 0 s (fun s g _ =>
    let e := g.ep (16 + port.toNat)
    if !g.inputOk s (16 + port.toNat) then badWord s g
    else
      let got := match s.input? e with | some i => i.pulses | none => 0
      let n := min got (k.toNat - g.pulses)
      let s := s.mapInput e (fun i => { i with pulses := i.pulses - n })
      if k.toNat ≤ g.pulses + n then s.setProg (g.past 0) else s.setProg { g with pulses := g.pulses + n })

/-- A unit has ended its node (R305): it has still to release its successors. -/
def finishNode (s : State) (launch node : Nat) : State :=
  s.mapLaunch launch (fun l => l.mapNode node (fun n => { n with st := .finished }))

/-- AGEND (R298, R305): once its writes are performed at paddock scope the program ends, and with it its node, whose successors follow its
accesses (R253). -/
def execAgend (s : State) : Out :=
  withOps 0 s (fun s g _ =>
    if lagging s g.lag then s
    else
      let s := { s with eng := { s.eng with
        progs := s.eng.progs.filter (fun x => x.id ≠ g.id)
        rings := s.eng.rings.map (fun r => if r.bind = .stream g.id then { r with bind := .none } else r) } }
      finishNode (raiseNode s g.launch g.node g.pts) g.launch g.node)

/-- A word that is not allocated, or with a reserved value, stops its program (R67). -/
def execAgUnallocatedWord (_ : BitVec 64) (s : State) : Out :=
  match agSite s with
  | none => .next s
  | some g => .next (badWord s g)

/-- The word that a program runs next, as the step reads it: kept from when it was reached, else fetched (R298). -/
def agWord (s : State) (k : Nat) : State × Option Instr :=
  match s.eng.progs[k]? with
  | none => (s, none)
  | some g =>
    if g.stopped || agHalted s g then (s, none)
    else
      match g.word with
      | some w => (s, some (decodeAg w))
      | none =>
        match g.fetch s g.pc.toNat 1 with
        | (some [w], s) => (s.setProg { g with word := some w }, some (decodeAg w))
        | (_, s) => (s, none)

end Sys2Proof.Machine
end

