-- ==== Sys2Proof/Machine/Matrix.lean ====
section
/-! DEFINITION. The matrix tiles: the frame of a command and its reserved values, slots and accumulators, tile loads and
stores, products, value groups, gathers, drains and transposes, step by step (R66, R263 to R286). -/

namespace Sys2Proof

/-! ### Reserved values -/

/-- Counts of a command (R267). -/
def MCmd.c (x : MCmd) : Nat := x.chunks.toNat + 1
def MCmd.m (x : MCmd) : Nat := x.mdim.toNat + 1
def MCmd.n (x : MCmd) : Nat := x.ndim.toNat + 1
def MCmd.f (x : MCmd) : Nat := x.fmt.toNat
def MCmd.spec (x : MCmd) (hi lo : Nat) : Nat := bits x.cspec.toNat hi lo

/-- The fields that a row of R267's table leaves 0: of ACC, A, ASLOT, BSLOT, CHUNKS, MDIM, NDIM, those not named. -/
def MCmd.only (x : MCmd) (acc a aslot bslot chunks m n : Bool) : Bool :=
  (acc || x.acc = 0) && (a || x.a = 0) && (aslot || x.aslot = 0) && (bslot || x.bslot = 0) &&
  (chunks || x.chunks = 0) && (m || x.mdim = 0) && (n || x.ndim = 0)

/-- The group of MMAI (R274): its first and last position, positions per row of A and of B. -/
def MCmd.lo (x : MCmd) : Nat := 32 * x.spec 22 21
def MCmd.hi (x : MCmd) : Nat := x.lo + 32 * 2 ^ x.spec 24 23 - 1
def MCmd.pa (x : MCmd) : Nat := if x.spec 25 25 = 1 then 128 else 64
def MCmd.pb (x : MCmd) : Nat := if x.f = 7 ∨ x.f = 8 then 128 else 64

/-- PITCH of a tile access (R271). -/
def MCmd.pitch (x : MCmd) : Nat := x.spec 25 10

/-- Bytes of a row of MSTT's tile (R272). -/
def MCmd.rowBytes (x : MCmd) : Nat := x.n * (fmtWidth x.f / 8)

/-- The slots that MCLM and MREL name (R269). -/
def MCmd.run (x : MCmd) : List Nat := (List.range (x.spec 25 20)).map (fun k => x.aslot.toNat + k)

end Sys2Proof

namespace Sys2Proof.Machine

/-- A reserved value of R267 and of the entries of the commands: such a token is no command (R66). -/
def cmdReserved : Instr → Bool
  | .mma x => !x.only true true true true true true true || !([1, 2, 3, 4, 5, 7].contains x.f) || x.cspec ≠ 0 ||
    32 < x.aslot.toNat + x.c || 32 < x.bslot.toNat + x.c
  | .mmai x => !x.only true true true true false true true || !(5 ≤ x.f && x.f ≤ 8) || x.spec 9 0 ≠ 0 ||
    x.spec 24 23 = 3 || ((x.f = 5 || x.f = 7) && (x.spec 20 16 ≠ 0 || x.spec 15 10 ≠ 0)) ||
    1 < x.hi / x.pa || 1 < x.hi / x.pb || 31 < x.aslot.toNat + x.hi / x.pa || 31 < x.bslot.toNat + x.hi / x.pb
  | .mgv x => !x.only true true true false false true true || !([1, 2].contains x.f) || x.spec 8 0 ≠ 0 || 32 < x.n ||
    1536 < x.spec 25 15 + 1 || 64 < x.spec 14 9 + x.m || 32 < x.aslot.toNat + (x.spec 25 15 + 64) / 64
  | .mgat x => !x.only false false true true false true true || x.f ≠ 1 || 32 < x.n
  | .msca x => !x.only true true false true false true true || x.f ≠ 1 || x.spec 18 0 ≠ 0 || x.spec 25 24 = x.acc.toNat
  | .mdrn x => !x.only true true false false false true true || !([0, 1, 2, 3, 4, 11].contains x.f) || x.spec 8 0 ≠ 0 ||
    (x.f = 11 && x.spec 25 10 ≠ 0)
  | .mstt x => !x.only true false false false false true true || !([0, 1, 2, 11].contains x.f) || x.spec 9 0 ≠ 0 ||
    x.pitch = 0 || x.rowBytes % 64 ≠ 0 || (1 < x.m && 64 * x.pitch < x.rowBytes)
  | .mldt x => !x.only false false true false true true false || x.f ≠ 0 || x.spec 9 0 ≠ 0 || 4 < x.c ||
    x.pitch = 0 || (1 < x.m && x.pitch < x.c) || 32 < x.aslot.toNat + x.c
  | .mldp x => !x.only false false true false true true false || x.f ≠ 0 || x.spec 25 1 ≠ 0 || 32 < x.aslot.toNat + x.c
  | .mclm x | .mrel x => !x.only false false true false false false false || x.f ≠ 0 || x.spec 19 0 ≠ 0 ||
    x.spec 25 20 = 0 || 32 < x.aslot.toNat + x.spec 25 20
  | .mzro x => !x.only true false false false false true true || x.f ≠ 0 || x.cspec ≠ 0
  | .mtrn x => !x.only false false true true false false false || !([1, 2, 3, 4, 5, 6, 9, 10].contains x.f) || x.cspec ≠ 0 ||
    (fmtWidth x.f = 16 && (x.aslot = 31 || x.bslot = 31 || x.aslot.toNat + 1 = x.bslot.toNat || x.bslot.toNat + 1 = x.aslot.toNat))
  | _ => true

/-! ### Slots and cells -/

def State.tile? (s : State) (pos : Nat) : Option Tile := s.eng.tiles.find? (fun t => t.pos = pos)

def State.setTile (s : State) (t : Tile) : State :=
  { s with eng := { s.eng with tiles := replaceFirst (fun x => x.pos = t.pos) t s.eng.tiles } }

/-- Slot `n` is claimed (R263). -/
def Tile.has (t : Tile) (n : Nat) : Bool := t.claimed / 2 ^ n % 2 = 1

/-- The fault of a command that touches slots, and reads rows: SLOT 1, then POISON 2 (R268). -/
def Tile.slotFault (t : Tile) (slots : List Nat) (rows : List (Nat × Nat)) : Option (Nat × Nat) :=
  if slots.any (fun n => !t.has n) then some (0x19, 1)
  else if rows.any (fun r => t.badRows.contains (64 * r.1 + r.2)) then some (0x16, 2) else none

/-- A row of a slot. -/
def slotRow (s : State) (t : Tile) (slot row : Nat) : Vec := s.readVec (slotKey t.pos slot row)

/-- Writes a row of a slot, poisoned or clean (R268). -/
def putRow (s : State) (t : Tile) (slot row : Nat) (v : Vec) (bad : Bool) : State × Tile :=
  let rest := t.badRows.filter (fun x => x ≠ 64 * slot + row)
  (s.write (slotKey t.pos slot row) (toBytes 64 v.toNat), { t with badRows := if bad then rest ++ [64 * slot + row] else rest })

/-- Writes rows of a slot. -/
def putRows (t : Tile) (slot : Nat) : Nat → List Vec → State → State × Tile
  | _, [], s => (s, t)
  | r, v :: vs, s =>
    let (s, t) := putRow s t slot r v false
    putRows t slot (r + 1) vs s

/-- The cells (row, 0) to (row, n − 1) of an accumulator (R264). -/
def cellRow (s : State) (t : Tile) (acc row n : Nat) : List Nat :=
  (List.range n).map (fun j => s.read (cellKey t.pos acc row j) 4)

/-- One of the cells (i, 0) to (i, n − 1) for rows below m is marked poisoned (R268). -/
def Tile.badCell (t : Tile) (acc m n : Nat) : Bool :=
  t.badCells.any (fun x => x / 4096 = acc && x % 4096 / 64 < m && x % 64 < n)

/-- Writes the cells of a row from column 0 upward, clean (R268). -/
def putCells (s : State) (t : Tile) (acc row : Nat) (vs : List Nat) : State × Tile :=
  (s.write (cellKey t.pos acc row 0) (vs.flatMap (toBytes 4)),
   { t with badCells := t.badCells.filter (fun x => !(x / 64 = 64 * acc + row && x % 64 < vs.length)) })

/-- Writes rows of cells. -/
def putCellRows (acc : Nat) : Nat → List (List Nat) → State → Tile → State × Tile
  | _, [], s, t => (s, t)
  | r, vs :: rest, s, t =>
    let (s, t) := putCells s t acc r vs
    putCellRows acc (r + 1) rest s t

/-- An uncorrectable error in a word of a memory (R348): of a slot or the cells of a matrix tile its mark (R268), else the word's. -/
def wordError (s : State) (k : Nat) : State :=
  let o := offsetOf k
  let mark (pos : Nat) (f : Tile → Tile) : State :=
    { s with eng := { s.eng with tiles := s.eng.tiles.map (fun t => if t.pos = pos then f t else t) } }
  match regionOf k with
  | 4 => mark (o / 2 ^ 17) (fun t => { t with badRows := (o % 2 ^ 17 / 64) :: t.badRows.filter (fun x => x ≠ o % 2 ^ 17 / 64) })
  | 5 =>
    let cells := [o % 2 ^ 16 / 8 * 2, o % 2 ^ 16 / 8 * 2 + 1]
    mark (o / 2 ^ 16) (fun t => { t with badCells := cells ++ t.badCells.filter (fun x => !cells.contains x) })
  | _ => s.taint (k / 8 * 8) 8

/-! ### The sequencer -/

/-- How one step of a command ends (R266, R268, R284). -/
inductive TileOut where
  /-- it waits for a token, credit or memory -/
  | wait (s : State)
  /-- one step done, or part of it kept -/
  | more (s : State) (t : Tile) (r : Running)
  /-- the command has finished with that RES -/
  | done (s : State) (t : Tile) (res : Nat)
  /-- a fault with its address and extra field -/
  | fault (s : State) (t : Tile) (code sub : Nat) (addr extra : Word)

/-- Port `n` of a matrix tile (R265). -/
def tilePort (pos n : Nat) : Ep := { pos := pos, cls := .engine, idx := n }

/-- The oldest token of an input of a tile, none behind a marker; one on port 0 stops it also where that is a cycle input (R351, R353). -/
def tilePeek (s : State) (pos n : Nat) : Option Tok :=
  match s.input? (tilePort pos n) with
  | some i => if i.marker && (!i.cyc || n = 0) then none else i.toks.head?.map (·.1)
  | none => none

/-- Takes it. -/
def tileTake (s : State) (pos n : Nat) : Option (Tok × State) :=
  match tilePeek s pos n with
  | some _ => takeToken s (tilePort pos n)
  | none => none

/-- Discards a null at the head of an input of a tile (R265): none when no input shows one. -/
def dropNull (s : State) (pos : Nat) : Option State :=
  (([0, 1, 2, 3, 4, 6].filterMap (fun n =>
    if tilePeek s pos n = some Tok.null then (takeToken s (tilePort pos n)).map (·.2) else none))).head?

/-- Flags of commands go to the configuration's flag word (R268). -/
def tileFlags (s : State) (t : Tile) (fl : Nat) : State :=
  if fl = 0 then s else s.mapConf t.cid (fun c => { c with flags := c.flags ||| fl })

/-- The tile that the step names, with its configuration and the command it runs. -/
def tileSite (s : State) : Option (Tile × Conf × Running) :=
  match s.ctl.focus with
  | .tile pos =>
    match s.tile? pos with
    | some t =>
      if t.blocked || t.saved then none
      else
        match s.conf? t.cid, t.run with
        | some c, some r => some (t, c, r)
        | _, _ => none
    | none => none
  | _ => none

/-- A fault ends the work of the tile for its configuration: no completion token, no further command (R66, R268). -/
def tileFault (s : State) (t : Tile) (code sub : Nat) (addr extra : Word) : State :=
  confFault (s.setTile { t with blocked := true, run := none }) t.cid
    { code := code, sub := sub, tile := t.pos, addr := addr, extra := extra }

/-- Sends the completion token of a finished command, or keeps it until port 5 has credit (R266). -/
def sendDone (s : State) (t : Tile) (w : Word) : State :=
  match sendOn s (tilePort t.pos 5) (scalar w) with
  | some (s, _) => s.setTile { t with done := none }
  | none => s.setTile { t with done := some w }

/-- The completion token (R266). -/
def doneWord (cmd seqn res : Nat) : Word := BitVec.ofNat 64 (cmd * 2 ^ 58 + seqn * 2 ^ 32 + res)

/-- RUNS one step of a command at its tile: a reserved value first (R66, R267), then the command's own step. -/
def fireCmd (i : Instr) (s : State) (step : State → Conf → Tile → Running → TileOut) : Out :=
  match tileSite s with
  | none => .next s
  | some (t, c, r) =>
    if cmdReserved i then .next (tileFault s t 0x01 7 0 r.word)
    else
      match step s c t r with
      | .wait s => .next s
      | .more s t r => .next (s.setTile { t with run := some r })
      | .done s t res =>
        let n := (t.seqn + 1) % 2 ^ 16
        .next (sendDone s { t with run := none, seqn := n } (doneWord (r.word.toNat / 2 ^ 58) n res))
      | .fault s t code sub addr extra => .next (tileFault s t code sub addr extra)

/-- A fault with the command word as its extra field (R268). -/
def cmdFault (s : State) (t : Tile) (r : Running) (f : Nat × Nat) : TileOut := .fault s t f.1 f.2 0 r.word

/-! ### Claims -/

/-- Claims or releases slots in rising order (R269); a fault leaves those before it. -/
def claimRun (s : State) (t : Tile) (r : Running) (claim : Bool) : List Nat → TileOut
  | [] => .done s t 0
  | n :: ns =>
    if t.has n = claim then cmdFault s t r (0x19, if claim then 2 else 3)
    else if claim then
      claimRun (s.zero (slotKey t.pos n 0) 4096)
        { t with claimed := t.claimed + 2 ^ n, badRows := t.badRows.filter (fun x => x / 64 ≠ n) } r claim ns
    else claimRun s { t with claimed := t.claimed - 2 ^ n } r claim ns

/-- MCLM (R269). -/
def execMclm (x : MCmd) (s : State) : Out := fireCmd (.mclm x) s (fun s _ t r => claimRun s t r true x.run)

/-- MREL (R269). -/
def execMrel (x : MCmd) (s : State) : Out := fireCmd (.mrel x) s (fun s _ t r => claimRun s t r false x.run)

/-- MZRO (R269). -/
def execMzro (x : MCmd) (s : State) : Out :=
  fireCmd (.mzro x) s (fun s _ t _ =>
    let (s, t) := putCellRows x.acc.toNat 0 (List.replicate x.m (List.replicate x.n 0)) s t
    .done s t 0)

/-! ### Loads and stores -/

/-- MLDP (R270): one token a step. -/
def execMldp (x : MCmd) (s : State) : Out :=
  fireCmd (.mldp x) s (fun s _ t r =>
    let slot := x.aslot.toNat + r.step % x.c
    match t.slotFault [slot] [] with
    | some f => cmdFault s t r f
    | none =>
      match tileTake s t.pos (1 + x.spec 0 0) with
      | none => .wait s
      | some (tok, s) =>
        let (s, t) := putRow s t slot (r.step / x.c) tok.vec tok.poisoned
        if r.step + 1 < x.m * x.c then .more s t { r with step := r.step + 1 } else .done s t 0)

/-- How the lines of a tile access are found (R271): their keys, a wait, a request dropped at a hurdle (R370), or a fault at
an address. -/
inductive TileKeys where
  | ok (s : State) (ks : List Nat)
  | wait (s : State)
  | lost (s : State)
  | bad (s : State) (code sub : Nat) (addr : Nat)

/-- Translates the lines of a tile in order, before any is read or written (R254, R339). -/
def tileLines (c : Conf) (pos : Nat) (wr : Bool) : List Nat → State → List Nat → TileKeys
  | [], s, ks => .ok s ks
  | a :: rest, s, ks =>
    if 2 ^ 56 ≤ a then .bad s 0x12 1 a
    else
      match translate s c.pad c.ten (some c.cid) none a (!wr) wr with
      | (s, .ok k _) =>
        match followMoves s 8 k with
        | none => .bad s 0x15 4 a
        | some k =>
          if !mayPass s k 2 pos then .wait (parkAt s k 2 pos)
          else if wr && liveHeader s k then .bad s 0x12 4 a
          else tileLines c pos wr rest (unpark s k 2 pos) (ks ++ [k])
      | (s, .miss host) => .wait (pageMissConf s c.pad c.ten c.cid a wr host)
      | (s, .fault code sub _) => .bad s code sub a
      | (s, .dropped) => .lost (s.mapPad c.pad (fun p => { p with pdrop := (p.pdrop + 1) % 2 ^ 32 }))

/-- The lines of a tile, row after row (R271): address of row 0, PITCH, rows, bytes of a row. -/
def tileAddrs (a pitch m bytes : Nat) : List Nat :=
  (List.range m).flatMap (fun r => (List.range (bytes / 64)).map (fun q => a + r * 64 * pitch + 64 * q))

/-- The checks of the address token, in order (R271). -/
def addrFault (w : Word) : Option (Nat × Nat) :=
  if w.toNat / 2 ^ 56 = 0xFE then some (0x12, 6)
  else if w.toNat / 2 ^ 56 ≠ 0 then some (0x12, 1)
  else if w.toNat % 64 ≠ 0 then some (0x10, 5)
  else none

/-- Takes the address token of a tile access with its first checks (R271), then goes on with it. -/
def withAddr (s : State) (t : Tile) (r : Running) (body : Nat → TileOut) : TileOut :=
  match r.addr with
  | some w => body w.toNat
  | none =>
    match tileTake s t.pos 6 with
    | none => .wait s
    | some (tok, s') =>
      match addrFault tok.word with
      | some f => .fault s t f.1 f.2 tok.word r.word
      | none => .more s' t { r with addr := some tok.word }

/-- Runs a tile access on its lines (R254, R257, R271): a line outside device HBM is refused before any permission; a refused access
changes nothing (R268); after a request dropped at a hurdle the tile waits for good. -/
def tileAccess (s : State) (c : Conf) (t : Tile) (r : Running) (wr : Bool) (as : List Nat)
    (body : State → List Nat → TileOut) : TileOut :=
  match as.find? (standsOutside s c.pad c.ten) with
  | some a => .fault s t 0x12 10 (BitVec.ofNat 64 a) r.word
  | none =>
    match tileLines c t.pos wr as s [] with
    | .ok s ks => body s ks
    | .wait s => .wait s
    | .lost s => .more s { t with blocked := true } r
    | .bad _ code sub a => .fault s t code sub (BitVec.ofNat 64 a) r.word

/-- Fills the rows of MLDT (R272): row r of slot ASLOT + q from line c·r + q, given with its mark. -/
def fillRows (aslot c : Nat) : Nat → List (Vec × Bool) → State → Tile → State × Tile
  | _, [], s, t => (s, t)
  | k, v :: vs, s, t =>
    let (s, t) := putRow s t (aslot + k % c) (k / c) v.1 v.2
    fillRows aslot c (k + 1) vs s t

/-- MLDT (R271, R272): the address token, a step of preparation a row, then the tile access. -/
def execMldt (x : MCmd) (s : State) : Out :=
  fireCmd (.mldt x) s (fun s c t r =>
    match t.slotFault ((List.range x.c).map (fun q => x.aslot.toNat + q)) [] with
    | some f => cmdFault s t r f
    | none =>
      withAddr s t r (fun a =>
        if r.step < x.m then .more s t { r with step := r.step + 1 }
        else
          tileAccess s c t r false (tileAddrs a x.pitch x.m (64 * x.c)) (fun s ks =>
            let (s, bs, p) := readTile s c.who t.pts (ks.map (fun k => (k, 64)))
            let vs := (chunk 64 ks.length bs).map (fun b => BitVec.ofNat 512 (ofBytes b))
            let (s, t) := fillRows x.aslot.toNat x.c 0 (vs.zip (ks.map (fun k => s.poisoned k 64))) s { t with pts := p }
            .done s t 0)))

/-- A cell as MSTT writes it (R272). -/
def storeCell (f x : Nat) : Res := if f = 0 ∨ f = 11 then (x, 0) else convert f 0 0 false x

/-- Values in 64-byte tokens, the last one filled up with zeros. -/
def rowTokens (w : Nat) (vs : List Nat) : List Vec := (chunk (512 / w) (vs.length + 1) vs).map (pack w)

/-- Writes whole lines at their homes as one tile store by a tenant's unit at timestamp `p`; its new timestamp (R244, R254 to R256). -/
def storeLines (s : State) (who : Nat) (ks : List Nat) (vs : List Vec) (p : Nat) : State × Nat :=
  tileStore s who (ks.map (fun k => (k, 64))) (vs.flatMap (fun v => toBytes 64 v.toNat)) p

/-- MSTT (R271, R272, R286): the address token, a row converted into the write buffer a step, then the tile access; it is
done when the store is performed at paddock scope. -/
def execMstt (x : MCmd) (s : State) : Out :=
  fireCmd (.mstt x) s (fun s c t r =>
    withAddr s t r (fun a =>
      if r.step < x.m then
        if t.badCells.any (fun y => y / 64 = 64 * x.acc.toNat + r.step && y % 64 < x.n) then cmdFault s t r (0x16, 2)
        else
          let rs := (cellRow s t x.acc.toNat r.step x.n).map (storeCell x.f)
          let s := tileFlags s t (rs.foldl (fun n q => n ||| q.2) 0)
          .more s t { r with step := r.step + 1, tokens := r.tokens ++ rowTokens (fmtWidth x.f) (rs.map (·.1)) }
      else if r.step = x.m then
        tileAccess s c t r true (tileAddrs a x.pitch x.m x.rowBytes) (fun s ks =>
          let lag := lagOf s 0 (ks.map lineOf)
          let (s, p) := storeLines s c.who ks r.tokens t.pts
          .more s { t with pts := p } { r with step := r.step + 1, tokens := [], lag := lag })
      else if lagging s r.lag then .wait s
      else .done s t 0))

/-! ### Products -/

/-- One row of a product over a chunk (R50): cell j from row `a` and row j of B. -/
def productRow (f : Nat) (first : Bool) (a : Vec) (b : List Vec) (old : List Nat) : List Res :=
  if isFloat f then
    let xs := (lanes (fmtWidth f) a).map (readNum f)
    (b.zip old).map (fun p =>
      let sum := exactSum ((xs.zip ((lanes (fmtWidth f) p.1).map (readNum f))).map (fun q => mulExact q.1 q.2))
      if first then let r := roundOf 0 0 false sum.1; (r.1, r.2 ||| sum.2) else addToF32 p.2 sum)
  else
    let xs := (lanes (fmtWidth f) a).map (readInt f)
    (b.zip old).map (fun p =>
      let sum := (xs.zip ((lanes (fmtWidth f) p.1).map (readInt f))).foldl (fun n q => n + q.1 * q.2) 0
      (wrap 32 (sum + if first then 0 else (p.2 : Int)), 0))

/-- The rows of a slot's chunk, for reading. -/
def slotRows (slot n : Nat) : List (Nat × Nat) := (List.range n).map (fun i => (slot, i))

/-- Computes every row of an m × n product and writes it; flags go to the flag word. -/
def productStep (s : State) (t : Tile) (acc m n : Nat) (row : Nat → List Nat → List Res) : State × Tile :=
  let rs := (List.range m).map (fun i => row i (cellRow s t acc i n))
  let s := tileFlags s t (rs.foldl (fun n l => l.foldl (fun k q => k ||| q.2) n) 0)
  putCellRows acc 0 (rs.map (fun l => l.map (·.1))) s t

/-- MMA (R273): one K-chunk a step. -/
def execMma (x : MCmd) (s : State) : Out :=
  fireCmd (.mma x) s (fun s _ t r =>
    let sa := x.aslot.toNat + r.step
    let sb := x.bslot.toNat + r.step
    let first := r.step = 0 && x.a = 0
    match t.slotFault [sa, sb] (slotRows sa x.m ++ slotRows sb x.n) with
    | some f => cmdFault s t r f
    | none =>
      if !first && t.badCell x.acc.toNat x.m x.n then cmdFault s t r (0x16, 2)
      else
        let b := (List.range x.n).map (slotRow s t sb)
        let (s, t) := productStep s t x.acc.toNat x.m x.n (fun i old => productRow x.f first (slotRow s t sa i) b old)
        if r.step + 1 < x.c then .more s t { r with step := r.step + 1 } else .done s t 0)

/-- The zero point of weight row j (R274). -/
def zeroPoint (s : State) (t : Tile) (x : MCmd) (j : Nat) : Int :=
  let b := lane 8 (slotRow s t (x.spec 20 16) j) (x.spec 15 10)
  if x.f = 6 then b else if x.f = 8 then (b % 16 : Nat) else 0

/-- MMAI (R274, R44): one A chunk that the group touches a step. -/
def execMmai (x : MCmd) (s : State) : Out :=
  fireCmd (.mmai x) s (fun s _ t r =>
    let q := x.lo / x.pa + r.step
    let ps := (List.range (x.hi + 1 - x.lo)).map (fun k => x.lo + k)
    let ps := ps.filter (fun p => p / x.pa = q)
    let sa := x.aslot.toNat + q
    let sbs := ((ps.map (fun p => x.bslot.toNat + p / x.pb))).eraseDups
    let zs := if x.f = 6 ∨ x.f = 8 then [x.spec 20 16] else []
    let first := r.step = 0 && x.a = 0
    match t.slotFault (sa :: sbs ++ zs) (slotRows sa x.m ++ (sbs ++ zs).flatMap (fun z => slotRows z x.n)) with
    | some f => cmdFault s t r f
    | none =>
      if !first && t.badCell x.acc.toNat x.m x.n then cmdFault s t r (0x16, 2)
      else
        let fa := if x.spec 25 25 = 1 then 7 else 5
        let cols := (List.range x.n).map (fun j =>
          (ps.map (fun p => readInt x.f (lane (fmtWidth x.f) (slotRow s t (x.bslot.toNat + p / x.pb) j) (p % x.pb))),
            zeroPoint s t x j))
        let (s, t) := productStep s t x.acc.toNat x.m x.n (fun i old =>
          let av := slotRow s t sa i
          let a := ps.map (fun p => readInt fa (lane (fmtWidth fa) av (p % x.pa)))
          let total := a.foldl (· + ·) 0
          (cols.zip old).map (fun p =>
            let sum := (a.zip p.1.1).foldl (fun n q => n + q.1 * q.2) 0 - p.1.2 * total
            (wrap 32 (sum + if first then 0 else (p.2 : Int)), 0)))
        if q < x.hi / x.pa then .more s t { r with step := r.step + 1 } else .done s t 0)

/-- MSCA (R275, R53). -/
def execMsca (x : MCmd) (s : State) : Out :=
  fireCmd (.msca x) s (fun s _ t r =>
    let sb := x.bslot.toNat
    match t.slotFault [sb] (slotRows sb x.n) with
    | some f => cmdFault s t r f
    | none =>
      if t.badCell (x.spec 25 24) x.m x.n || (x.a = 1 && t.badCell x.acc.toNat x.m x.n) then cmdFault s t r (0x16, 2)
      else
        let scales := (List.range x.n).map (fun j => lane 16 (slotRow s t sb j) (x.spec 23 19))
        let (s, t) := productStep s t x.acc.toNat x.m x.n (fun i old =>
          ((cellRow s t (x.spec 25 24) i x.n).zip (scales.zip old)).map (fun p =>
            scaleAcc (if x.a = 1 then p.2.2 else 0) (sgn 32 p.1) p.2.1))
        .done s t 0)

/-! ### Value groups -/

/-- What the bytes of a stream hold (R277, R279): not yet a whole group, a bad one, or its value, whether it is the row's last,
its positions, and the bytes it takes. -/
inductive Group where
  | short
  | bad (sub : Nat)
  | ok (value : Nat) (last : Bool) (ps : List Nat) (len : Nat)

/-- Reads gaps after byte `used` (R277): `next` is one more than the position before. -/
def readGaps (k : Nat) : Nat → List Nat → Nat → Nat → List Nat → Option (Except Nat (List Nat × Nat))
  | 0, _, _, used, acc => some (.ok (acc, used))
  | n + 1, bs, next, used, acc =>
    match bs with
    | [] => none
    | 0 :: lo :: hi :: rest =>
      let g := lo + 256 * hi
      if g = 0 then some (.error 2)
      else if k ≤ next + g - 1 then some (.error 3)
      else readGaps k n rest (next + g) (used + 3) (acc ++ [next + g - 1])
    | 0 :: _ => none
    | g :: rest =>
      if k ≤ next + g - 1 then some (.error 3)
      else readGaps k n rest (next + g) (used + 1) (acc ++ [next + g - 1])

/-- Reads the group at the head of a stream; `index` is its index in the row (R277, R279). -/
def readGroup (k index : Nat) (bs : List Nat) : Group :=
  match bs with
  | b0 :: b1 :: b2 :: b3 :: rest =>
    let h := b0 + 256 * b1
    let count := h % 2 ^ 15
    if count = 0 ∨ 4096 < count then .bad 1
    else if 64 ≤ index then .bad 4
    else
      match readGaps k count rest 0 4 [] with
      | none => .short
      | some (.error e) => .bad e
      | some (.ok (ps, used)) =>
        let len := (used + 3) / 4 * 4
        if bs.length < len then .short else .ok (b2 + 256 * b3) (h / 2 ^ 15 = 1) ps len
  | _ => .short

/-- One group's contribution to one batch lane (R51, R277). -/
def groupLane (f value : Nat) (xs : List Nat) (out : Nat) : Res :=
  let sum := exactSum (xs.map (fun x => (readNum f x, 0)))
  let t := roundOf 0 0 false sum.1
  let p := mulExact (readNum 0 t.1) (readNum 1 value)
  let u := roundOf 0 0 false p.1
  let o := fAdd 0 0 out u.1
  (o.1, sum.2 ||| t.2 ||| p.2 ||| u.2 ||| o.2)

/-- The sequencer has taken tokens of a group of MGV that it has not finished: it stands inside the group's step (R284). -/
def Running.midGroup (r : Running) : Bool :=
  match decodeCmd r.word with
  | .mgv _ => !(r.tokens.isEmpty || (r.tokens.length = 1 && 0 < r.byte))
  | _ => false

/-- MGV (R276 to R279): one group a step, in stream order; a row's cells start at +0 when A = 0. `step` counts the groups of
the row, `tokens` and `byte` are the stream position. A group that has begun takes what came before a marker on its port (R284, R351). -/
def execMgv (x : MCmd) (s : State) : Out :=
  fireCmd (.mgv x) s (fun s _ t r =>
    let k := x.spec 25 15 + 1
    let stream := (r.tokens.flatMap (lanes 8)).drop r.byte
    match readGroup k r.step stream with
    | .short =>
      match (if r.midGroup then takeToken s (tilePort t.pos 3) else tileTake s t.pos 3) with
      | none => .wait s
      | some (tok, s) => .more s t (if tok.isNull then r else { r with tokens := r.tokens ++ [tok.vec] })
    | .bad sub => .fault s t 0x1A sub 0 (BitVec.ofNat 64 (r.row * 256 + r.step))
    | .ok value last ps len =>
      let at_ (p : Nat) : Nat × Nat := (x.aslot.toNat + p / 64, p % 64)
      match t.slotFault (ps.map (fun p => (at_ p).1)) (ps.map at_) with
      | some f => cmdFault s t r f
      | none =>
        let row := x.spec 14 9 + r.row
        let fresh := r.step = 0 && x.a = 0
        if !fresh && t.badCells.any (fun y => y / 64 = 64 * x.acc.toNat + row && y % 64 < x.n) then cmdFault s t r (0x16, 2)
        else
          let vs := ps.map (fun p => slotRow s t (at_ p).1 (at_ p).2)
          let old := if fresh then List.replicate x.n 0 else cellRow s t x.acc.toNat row x.n
          let rs := (List.range x.n).map (fun b => groupLane x.f value (vs.map (fun v => lane 16 v b)) (old.getD b 0))
          let s := tileFlags s t (rs.foldl (fun n q => n ||| q.2) 0)
          let (s, t) := putCells s t x.acc.toNat row (rs.map (·.1))
          if last && x.m ≤ r.row + 1 then .done s t 0
          else
            let used := r.byte + len
            .more s t { r with
              tokens := r.tokens.drop (used / 64), byte := used % 64
              row := if last then r.row + 1 else r.row, step := if last then 0 else r.step + 1 })

/-! ### Gathers, drains, transposes -/

/-- The CSR block of a slot (R280): row pointers, entries as column and value. -/
def csrPtr (s : State) (t : Tile) (slot i : Nat) : Nat := s.read (slotKey t.pos slot 0 + 2 * i) 2
def csrEntry (s : State) (t : Tile) (slot e : Nat) : Nat × Nat :=
  (s.read (slotKey t.pos slot 0 + 256 + 2 * e) 2, s.read (slotKey t.pos slot 0 + 2176 + 2 * e) 2)

/-- The CSR subcode of a block (R281). -/
def csrBad (m bslot : Nat) (rp : List Nat) (rows : List (List (Nat × Nat))) : Option Nat :=
  if rp.getD 0 0 ≠ 0 || (List.range m).any (fun i => rp.getD (i + 1) 0 < rp.getD i 0) then some 1
  else if 960 < rp.getD m 0 then some 2
  else if rows.any (fun l => l.any (fun e => 31 < bslot + e.1 / 64)) then some 3
  else if rows.any (fun l => (l.zip l.tail).any (fun p => p.2.1 ≤ p.1.1)) then some 4
  else none

/-- Inserts a number into a rising list. -/
def insertUp (x : Nat) : List Nat → List Nat
  | [] => [x]
  | y :: ys => if x < y then x :: y :: ys else if x = y then y :: ys else y :: insertUp x ys

/-- The steps of MGAT after which its effect stands (R284): one a CSR row, one a PB row; all is read before any is written
(R281), so the effect comes with the last. -/
def execMgat (x : MCmd) (s : State) : Out :=
  fireCmd (.mgat x) s (fun s _ t r =>
    let slot := x.aslot.toNat
    let pa := x.spec 25 21
    let pb := x.spec 20 16
    if r.step + 1 < x.m + x.n then .more s t { r with step := r.step + 1 }
    else
      match t.slotFault [slot] (slotRows slot 64) with
      | some f => cmdFault s t r f
      | none =>
        let rp := (List.range (x.m + 1)).map (csrPtr s t slot)
        let rows := (List.range x.m).map (fun i =>
          (List.range (min 960 (rp.getD (i + 1) 0) - rp.getD i 0)).map (fun e => csrEntry s t slot (rp.getD i 0 + e)))
        match csrBad x.m x.bslot.toNat rp rows with
        | some sub => cmdFault s t r (0x1B, sub)
        | none =>
          let all := (rows.flatMap (fun l => l.map (·.1))).foldl (fun d c => if x.spec 15 0 ≤ c then insertUp c d else d) []
          let d := all.take 32
          let src (k : Nat) : Nat × Nat := (x.bslot.toNat + k / 64, k % 64)
          match t.slotFault ([pa, pb] ++ d.map (fun k => (src k).1)) (d.map src) with
          | some f => cmdFault s t r f
          | none =>
            let a := rows.map (fun l => pack 16 (d.map (fun c => ((l.find? (fun e => e.1 = c)).map (·.2)).getD 0)))
            let bs := d.map (fun k => slotRow s t (src k).1 (src k).2)
            let b := (List.range x.n).map (fun j => pack 16 (bs.map (fun v => lane 16 v j)))
            let (s, t) := putRows t pa 0 (a ++ List.replicate (64 - x.m) 0) s
            let (s, t) := putRows t pb 0 (b ++ List.replicate (64 - x.n) 0) s
            .done s t (if 32 < all.length then d.getD 31 0 + 1 else 2 ^ 32 - 1))

/-- A cell as MDRN sends it (R282, R46). -/
def drainCell (f scale : Nat) (sat : Bool) (x : Nat) : Res :=
  if f = 11 then (x, 0)
  else
    let p := mulExact (readNum 0 x) (readNum 1 scale)
    match p.1 with
    | .inf g =>
      if sat ∧ (f = 3 ∨ f = 4) then (maxFinite f g, p.2) else if f = 3 then (canonNaN f, p.2 ||| fNV) else (infBits f g, p.2)
    | y => let r := roundOf f 0 sat y; (r.1, r.2 ||| p.2)

/-- MDRN (R282): the steering token, then one token an event; a row is converted when its first token has credit, and with
KEEP = 0 the cells of an accepted token become +0. `step` is 1 once the entry is chosen, `row` the row, `byte` the tokens of
it sent. -/
def execMdrn (x : MCmd) (s : State) : Out :=
  fireCmd (.mdrn x) s (fun s _ t r =>
    let acc := x.acc.toNat
    let per := 512 / fmtWidth x.f
    if r.step = 0 then
      match tileTake s t.pos 4 with
      | none => .wait s
      | some (tok, s) => .more s t { r with step := 1, entry := tok.word.toNat % 8 }
    else if t.badCells.any (fun y => y / 64 = 64 * acc + r.row && y % 64 < x.n) then cmdFault s t r (0x16, 2)
    else
      let conv := (cellRow s t acc r.row x.n).map (drainCell x.f (x.spec 25 10) (x.spec 9 9 = 1))
      let toks := if r.tokens.isEmpty then rowTokens (fmtWidth x.f) (conv.map (·.1)) else r.tokens
      let fl := if r.tokens.isEmpty then conv.foldl (fun n q => n ||| q.2) 0 else 0
      match toks with
      | [] => .done s t 0
      | v :: rest =>
        match sendOn s (tilePort t.pos (8 + r.entry)) (vector v) with
        | none => .wait s
        | some (s, _) =>
          let s := tileFlags s t fl
          let cells := (cellRow s t acc r.row x.n).zipIdx.map (fun p => if p.2 / per = r.byte then 0 else p.1)
          let (s, t) := if x.a = 1 then (s, t) else putCells s t acc r.row cells
          if !rest.isEmpty then .more s t { r with tokens := rest, byte := r.byte + 1 }
          else if r.row + 1 < x.m then .more s t { r with tokens := [], byte := 0, row := r.row + 1 }
          else .done s t 0)

/-- MTRN (R283). -/
def execMtrn (x : MCmd) (s : State) : Out :=
  fireCmd (.mtrn x) s (fun s _ t r =>
    let w := fmtWidth x.f
    let per := 512 / w
    let n := 64 / per
    let src := (List.range n).map (fun k => x.aslot.toNat + k)
    let dst := (List.range n).map (fun k => x.bslot.toNat + k)
    match t.slotFault (src ++ dst) (src.flatMap (fun k => slotRows k 64)) with
    | some f => cmdFault s t r f
    | none =>
      let old := src.map (fun k => (List.range 64).map (slotRow s t k))
      let at_ (i k : Nat) : Nat := lane w ((old.getD (k / per) []).getD i 0) (k % per)
      let rows (q : Nat) : List Vec := (List.range 64).map (fun i => pack w ((List.range per).map (fun k => at_ (q * per + k) i)))
      let (s, t) := (List.range n).foldl (fun (x' : State × Tile) q => putRows x'.2 (x.bslot.toNat + q) 0 (rows q) x'.1) (s, t)
      .done s t 0)

/-- A token that is no command (R66): ILLEGAL subcode 7, and no further command of the configuration. -/
def execMatrixReservedCommand (w : BitVec 64) (s : State) : Out :=
  fireCmd (.matrixReservedCommand w) s (fun s _ _ _ => .wait s)

/-- The running command stands at a stop point (R284, R353). -/
def Running.stops (r : Running) : Bool :=
  match decodeCmd r.word with
  | .mdrn _ => r.tokens.isEmpty
  | .mstt x => r.step ≤ x.m
  | .mgv _ => !r.midGroup
  | _ => true

/-- A tile may stop for pre-emption (R284, R353): its command stands at a stop point, or inside a group of MGV whose other bytes are behind
the marker of its stream port, and come with the stream position that is saved. Log 37. -/
def tileStops (s : State) (pos : Nat) (r : Running) : Bool :=
  r.stops || (r.midGroup && (s.input? (tilePort pos 3)).any (fun i => i.marker && i.toks.isEmpty))

/-- A marker has reached port 0 (R353). -/
def tileMarked (s : State) (pos : Nat) : Bool := (s.input? (tilePort pos 0)).any (·.marker)

/-- What the tile at a position does next (R265, R266, R353): a completion token that waits, a null to discard, the command it
runs, or the next command token; nothing in a cycle that throttling skips (R386). -/
def tileWord (s : State) (pos : Nat) : State × Option Instr :=
  match s.tile? pos with
  | none => (s, none)
  | some t =>
    if t.blocked || t.saved || s.hub.skips s.ctl.now then (s, none)
    else
      match t.done with
      | some w => (sendDone s t w, none)
      | none =>
        match dropNull s pos with
        | some s => (s, none)
        | none =>
          match t.run with
          | some r => if tileMarked s pos && tileStops s pos r then (s, none) else (s, some (decodeCmd r.word))
          | none =>
            match tileTake s pos 0 with
            | none => (s, none)
            | some (tok, s) =>
              let r : Running := { word := tok.word, step := 0, tokens := [], byte := 0, row := 0, entry := 0, addr := none, lag := [] }
              (s.setTile { t with run := some r }, some (decodeCmd tok.word))

end Sys2Proof.Machine
end

