-- ==== Sys2Proof/Machine/NearMem.lean ====
section
/-! DEFINITION. Near-memory nodes: the record and its checks (R309 to R312), the four operations step by step (R313 to R319),
row boundaries (R320), full and empty rows (R321), cancellation (R322) and power states (R324). -/

namespace Sys2Proof.Machine

/-! ### The record -/

/-- The fields of a near-memory record (R310). -/
structure NmRec where
  op : Nat
  fmt : Nat
  allb : Bool
  vstr : Bool
  mask : Nat
  pch : Nat
  wpage : Nat
  wrow : Nat
  wcol : Nat
  len : Nat
  srow : Nat
  stride : Nat
  rows : Nat
  vaddr : Nat
  rbase : Nat
  scale : Nat
  deriving DecidableEq, Repr

/-- Byte-addressed field of a record. -/
def recField (r : BitVec 512) (off n : Nat) : Nat := r.toNat / 2 ^ (8 * off) % 2 ^ (8 * n)

def nmRec (r : BitVec 512) : NmRec :=
  { op := recField r 0 1 % 16, fmt := recField r 1 1, allb := recField r 2 1 % 2 = 1, vstr := recField r 2 1 / 2 % 2 = 1
    mask := recField r 4 2, pch := recField r 6 2, wpage := recField r 8 8, wrow := recField r 0x10 1
    wcol := recField r 0x11 1, len := recField r 0x12 1, srow := recField r 0x13 1, stride := recField r 0x14 2
    rows := recField r 0x16 2, vaddr := recField r 0x18 8, rbase := recField r 0x20 8, scale := recField r 0x28 2 }

/-- The lanes of BMASK. -/
def NmRec.lanes (m : NmRec) : List Nat := (List.range 16).filter (fun b => m.mask / 2 ^ b % 2 = 1)

/-- NMDOT and NMAXPY work lane by lane. -/
def NmRec.laneOp (m : NmRec) : Bool := m.op = 1 || m.op = 2

/-- FRAME (R310, R311, R330) in a paddock of `n` strips. -/
def nmFrameBad (n : Nat) (r : BitVec 512) : Bool :=
  let m := nmRec r
  let fmtOk := if m.op = 1 then m.fmt = 1 || m.fmt = 2 || m.fmt = 5 else if m.op = 2 then m.fmt = 1 || m.fmt = 2 else m.fmt = 0
  let common := recField r 0 1 / 16 = 0 && 1 ≤ m.op && m.op ≤ 4 && fmtOk && recField r 2 1 < 4 && recField r 3 1 = 0 &&
    m.mask ≠ 0 && m.pch < 16 * n && 1 ≤ m.rows && m.rows ≤ 64 && recField r 0x2A 1 = 0 && recField r 0x2B 21 = 0
  let own :=
    match m.op with
    | 1 => m.srow = 0 && m.scale = 0
    | 2 => m.srow = 0 && m.rbase = 0
    | 3 => m.wcol = 0 && m.len = 0 && m.srow = 0 && m.vaddr = 0 && m.rbase = 0 && m.scale = 0
    | _ => m.wcol = 0 && m.len = 0 && m.rbase = 0 && m.scale = 0
  let ranges :=
    if m.laneOp then m.wrow ≤ 3 && m.wcol ≤ 31 && 1 ≤ m.len && m.len ≤ 32 && m.len ≤ m.stride && m.stride ≤ 128
    else m.wrow ≤ 63 && m.srow ≤ 63 && 1 ≤ m.stride && m.stride ≤ 63 && m.mask = 0xFFFF && recField r 2 1 = 0
  !(common && own && ranges)

/-- ALIGN (R311). -/
def nmAlignBad (m : NmRec) : Bool :=
  m.wpage % 2 ^ 16 ≠ 0 || (m.laneOp && m.vaddr % 64 ≠ 0) || (m.op = 1 && m.rbase % 1024 ≠ 0) ||
  (m.op = 4 && m.vaddr % 2 ^ 16 ≠ 0)

/-- The first byte of the vector of lane `b` (R313). -/
def NmRec.vecAt (m : NmRec) (b : Nat) : Nat := m.vaddr + if m.vstr then b * 32 * m.len else 0

/-- The virtual pages of a byte range. -/
def pagesOf (a n : Nat) : List Nat := (List.range ((a % 2 ^ 16 + n - 1) / 2 ^ 16 + 1)).map (fun i => a / 2 ^ 16 + i)

/-- The pages a node touches by its record: page, read, write. -/
def NmRec.touches (m : NmRec) : List (Nat × Bool × Bool) :=
  let w : Nat × Bool × Bool := (m.wpage / 2 ^ 16, m.op ≠ 3 && m.op ≠ 4, m.op ≠ 1)
  let v := if m.laneOp then (m.lanes.flatMap (fun b => pagesOf (m.vecAt b) (32 * m.len))).eraseDups.map (fun p => (p, true, false))
    else if m.op = 4 then [(m.vaddr / 2 ^ 16, true, false)] else []
  [w] ++ v ++ if m.op = 1 then [(m.rbase / 2 ^ 16, false, true)] else []

/-- The positions of an operation (R312): output, access, position. -/
def NmRec.positions (m : NmRec) : List (Nat × Nat × Nat) :=
  (List.range m.rows).flatMap (fun j => (List.range m.len).map (fun t => (j, t, 32 * m.wrow + m.wcol + j * m.stride + t)))

/-- Rows or positions past the page (R311, R312). -/
def nmPastPage (m : NmRec) : Bool :=
  if m.laneOp then 127 < 32 * m.wrow + m.wcol + (m.rows - 1) * m.stride + m.len - 1 ||
    (m.op = 1 && 63 < m.rbase % 2 ^ 16 / 1024 + 3)
  else 63 < m.wrow + (m.rows - 1) * m.stride || (m.op = 4 && 63 < m.srow + (m.rows - 1) * m.stride)

/-- The translation of a page for the Drover, without its effects. -/
def pageProbe (s : State) (pad ten page : Nat) (rd wr : Bool) : Option (Nat × Nat) :=
  match (if page < 2 ^ 40 then (translate s pad ten none none (page * 2 ^ 16) rd wr).2 else .dropped) with
  | .ok k a => some (k, a)
  | _ => none

/-- The translations of a record's pages: page, key, attributes; none when one fails (R311). -/
def nmPages (s : State) (pad ten : Nat) (m : NmRec) : Option (List (Nat × Nat × Nat)) :=
  let ts := m.touches.map (fun t => (pageProbe s pad ten t.1 t.2.1 t.2.2).map (fun k => (t.1, k.1, k.2)))
  if ts.any (·.isNone) then none else some (ts.filterMap id)

/-- FIT (R227, R311, R312) given the translations. -/
def nmFitBad (p : Paddock) (m : NmRec) (ts : List (Nat × Nat × Nat)) : Bool :=
  let chan := 16 * p.first + m.pch
  let onChan (page : Nat) : Bool :=
    ts.any (fun t => t.1 = page && t.2.2 % 2 = 1 && regionOf t.2.1 = 0 && nmChannel (offsetOf t.2.1) = chan)
  !onChan (m.wpage / 2 ^ 16) || (m.op = 4 && !onChan (m.vaddr / 2 ^ 16)) || (m.op = 1 && !onChan (m.rbase / 2 ^ 16)) ||
  ts.any (fun t => bits t.2.2 1 1 = 1) || nmPastPage m

/-! ### Steps -/

/-- A row step (R319): lanes over one bank row, a result row, a zero row, a clone, the two halves of a copy by the buffer. -/
inductive NmStep where
  | lanes (bs : List Nat) (k : Nat)
  | result (q : Nat)
  | fill (d : Nat)
  | clone (src dst : Nat)
  | bufRead (src : Nat)
  | bufWrite (dst : Nat)
  deriving DecidableEq, Repr

/-- The bank rows that an operation uses. -/
def NmRec.bankRows (m : NmRec) : List Nat :=
  (List.range 4).filter (fun k => m.positions.any (fun p => p.2.2 / 32 = k))

/-- The DRAM row of a page row within its bank, from the key of the page (R222). Log 5. -/
def baseRow (pageKey : Nat) : Nat := 4 * (offsetOf pageKey % tileBytes / 2 ^ 16 / 4)

/-- The steps of a unit's node, in order (R314 to R319). -/
def RowUnit.steps (u : RowUnit) (addressBound : Bool) : List NmStep :=
  let m := nmRec u.record
  match m.op with
  | 1 | 2 =>
    (if m.allb then m.bankRows.map (fun k => NmStep.lanes m.lanes k)
     else m.lanes.flatMap (fun b => m.bankRows.map (fun k => NmStep.lanes [b] k))) ++
    if m.op = 1 then (List.range 4).map NmStep.result else []
  | 3 => (List.range m.rows).map (fun k => .fill (m.wrow + k * m.stride))
  | _ =>
    (List.range m.rows).flatMap (fun k =>
      let src := m.srow + k * m.stride
      let dst := m.wrow + k * m.stride
      let same := u.spage = u.wpage && src = dst
      if same || (!addressBound && src = dst && baseRow u.spage / 512 = baseRow u.wpage / 512) then [.clone src dst]
      else [.bufRead src, .bufWrite dst])

/-- The page rows of WPAGE that an operation writes. -/
def NmRec.destRows (m : NmRec) : List Nat :=
  if m.op = 2 then m.lanes.flatMap (fun b => m.bankRows.map (fun k => 16 * k + b))
  else (List.range m.rows).map (fun k => m.wrow + k * m.stride)

/-- The result rows of a node (R321), as DRAM rows of the device: key of the page's row divided by 1,024. -/
def RowUnit.resultRows (u : RowUnit) : List Nat :=
  let m := nmRec u.record
  if m.op = 1 then (List.range 4).map (fun q => offsetOf u.rbase / 1024 + q)
  else (m.destRows.map (fun r => offsetOf u.wpage / 1024 + r)).eraseDups

/-- The key of a row of a page. -/
def rowKey (page r : Nat) : Nat := page + 1024 * r

/-- The products of one column access (R314), and the flags they raise. -/
def nmProducts (fmt : Nat) (w x : List Byte) : Num × Nat :=
  if fmt = 5 then
    let s : Int := ((w.zip x).map (fun p => sgn 8 p.1.toNat * sgn 8 p.2.toNat)).foldl (· + ·) 0
    (.fin (decide (s < 0)) s.natAbs 0, 0)
  else
    let el (l : List Byte) (e : Nat) : Nat := ofBytes ((l.drop (2 * e)).take 2)
    exactSum ((List.range 16).map (fun e => mulExact (readNum fmt (el w e)) (readNum fmt (el x e))))

/-- DRAM bytes as the key of a unit's node reads them: `other` holds what it reads of lines that another slot's key has encrypted (R318,
R373). -/
def rowBytes (s : State) (other : List (Nat × Vec)) (k n : Nat) : List Byte :=
  if other.isEmpty then dramBytes s k n
  else (List.range n).map (fun i => match other.lookup (lineOf (k + i)) with
    | some v => BitVec.ofNat 8 (v.toNat / 2 ^ (8 * ((k + i) % 64)))
    | none => (dramBytes s (k + i) 1).headD 0)

/-- The tenant slot that a unit works for. -/
def RowUnit.who (u : RowUnit) : Nat := whoOf u.pad u.ten

/-- What a tenant slot reads of those of some lines that another key has encrypted (R373). -/
def opened (s : State) (who : Nat) (lines : List Nat) : State × List (Nat × Vec) :=
  (lines.filter (foreign s who)).eraseDups.foldl (fun (x : State × List (Nat × Vec)) l =>
    let (d, s) := x.1.draw
    (s, x.2 ++ [(l, Config.garbled d)])) (s, [])

/-- One column access of NMDOT into an accumulator (R54, R314). -/
def dotAccess (fmt acc : Nat) (w x : List Byte) : Res := addToF32 acc (nmProducts fmt w x)

/-- One column access of NMAXPY (R315): the bytes written back and the flags. -/
def axpyAccess (fmt scale : Nat) (w x : List Byte) : List Byte × Nat :=
  let el (l : List Byte) (e : Nat) : Nat := ofBytes ((l.drop (2 * e)).take 2)
  let rs := (List.range 16).map (fun e => fmaNum fmt 0 (readNum 1 scale) (readNum fmt (el x e)) (readNum fmt (el w e)))
  (rs.flatMap (fun r => toBytes 2 r.1), rs.foldl (fun n r => n ||| r.2) 0)

/-- The accesses of one lane over one bank row, in rising position. -/
def NmRec.laneAccesses (m : NmRec) (k : Nat) : List (Nat × Nat × Nat) := m.positions.filter (fun p => p.2.2 / 32 = k)

/-- NMDOT in lane `b` over a bank row. -/
def dotLane (s : State) (u : RowUnit) (other : List (Nat × Vec)) (m : NmRec) (k b : Nat) : List Nat × Nat :=
  let row := rowKey u.wpage (16 * k + b)
  let reg := u.regs.getD b []
  (m.laneAccesses k).foldl (fun (x : List Nat × Nat) p =>
    let r := dotAccess m.fmt (x.1.getD p.1 0) (rowBytes s other (row + 32 * (p.2.2 % 32)) 32) ((reg.drop (32 * p.2.1)).take 32)
    (x.1.set p.1 r.1, x.2 ||| r.2)) (u.acc.getD b [], 0)

/-- NMAXPY in lane `b` over a bank row. -/
def axpyLane (s : State) (u : RowUnit) (m : NmRec) (k b : Nat) : State × Nat :=
  let row := rowKey u.wpage (16 * k + b)
  let reg := u.regs.getD b []
  (m.laneAccesses k).foldl (fun (x : State × Nat) p =>
    let a := row + 32 * (p.2.2 % 32)
    let r := axpyAccess m.fmt m.scale (dramBytes x.1 a 32) ((reg.drop (32 * p.2.1)).take 32)
    (dramWrite x.1 a r.1, x.2 ||| r.2)) (s, 0)

/-- Result row `q` of NMDOT (R314). -/
def resultRow (u : RowUnit) (m : NmRec) (q : Nat) : List Byte :=
  (List.range 4).flatMap (fun i =>
    let b := 4 * q + i
    (List.range 64).flatMap (fun j => toBytes 4 (if m.lanes.contains b && j < m.rows then (u.acc.getD b []).getD j 0 else 0)))

/-- The lines of DRAM rows. -/
def rowLines (rows : List Nat) : List Nat := rows.flatMap (fun r => (List.range 16).map (fun i => lineOf (regionKey 0 (r * 1024)) + i))

/-- Marks rows of a unit full (R321, R328): what it wrote there follows in T all that it has read, and every lease on those lines (R244,
R253). -/
def markFull (s : State) (rows : List Nat) (u : RowUnit) : State :=
  let lines := rowLines rows
  let p := match s.eng.units.find? (fun x => x.pch = u.pch) with | some x => x.pts | none => u.pts
  let w := lines.foldl (fun m l => max m ((s.line l).rts + 1)) p
  let s := lines.foldl (fun s l => s.setLine { s.line l with wts := w, rts := w, prev := (s.line l).wts }) s
  { s with
    mem := { s.mem with empties := s.mem.empties.map (fun e =>
      if e.unit_ = u.pch ∧ rows.contains e.row then { e with full := true } else e) }
    eng := { s.eng with units := s.eng.units.map (fun x => if x.pch = u.pch then { x with pts := w } else x) } }

/-- Rows that a unit has written with its key (R373) are full. -/
def fullRows (s : State) (rows : List Nat) (u : RowUnit) : State :=
  let lines := rowLines rows
  markFull { s with mem := { s.mem with
    sealed := s.mem.sealed.filter (fun x => !lines.contains x.1) ++ lines.map (fun l => (l, s.keyOf u.who)) } } rows u

/-- A row takes another's bits as they stand in DRAM, with the key that encrypts each line (R317, R318, R373); a row onto itself is left as it
is. -/
def cloneRow (s : State) (src dst : Nat) : State :=
  if src = dst then s
  else
    let a := lineOf src
    let b := lineOf dst
    let keys := (s.mem.sealed.filter (fun x => a ≤ x.1 && x.1 < a + 16)).map (fun x => (x.1 - a + b, x.2))
    let s := dramWrite s dst (dramBytes s src 1024)
    { s with mem := { s.mem with sealed := s.mem.sealed.filter (fun x => !(b ≤ x.1 && x.1 < b + 16)) ++ keys } }

/-- The state of the row unit of a pseudo-channel that holds no node (R309). -/
def State.rowRegs (s : State) (pch : Nat) : RowRegs :=
  (s.eng.rowRegs.find? (fun r => r.pch = pch)).getD (RowRegs.reset pch)

def State.setUnit (s : State) (u : RowUnit) : State :=
  { s with eng := { s.eng with units := replaceFirst (fun x => x.pch = u.pch) u s.eng.units } }

/-- Flags of a node go to its launching context (R313). -/
def nodeFlags (s : State) (launch fl : Nat) : State :=
  match s.launch? launch with
  | some l => lateFlags s l.ctx fl
  | none => s

/-- What a step reads, as keys and lengths: a poisoned word among it cancels the node (R322). -/
def NmStep.reads (u : RowUnit) : NmStep → List (Nat × Nat)
  | .lanes bs k => bs.flatMap (fun b => ((nmRec u.record).laneAccesses k).map (fun p => (rowKey u.wpage (16 * k + b) + 32 * (p.2.2 % 32), 32)))
  | .clone src _ | .bufRead src => (List.range 16).map (fun i => (rowKey u.spage src + 64 * i, 64))
  | _ => []

/-- What a row step does, with what it reads of lines of another key; the rows it makes full. -/
def NmStep.run (s : State) (u : RowUnit) (other : List (Nat × Vec)) (st : NmStep) : State :=
  let m := nmRec u.record
  let row (r : Nat) : Nat := offsetOf u.wpage / 1024 + r
  match st with
  | .lanes bs k =>
    if m.op = 1 then
      let rs := bs.map (fun b => (b, dotLane s u other m k b))
      let u' := rs.foldl (fun (u : RowUnit) r => { u with acc := u.acc.set r.1 r.2.1 }) u
      nodeFlags (s.setUnit u') u.launch (rs.foldl (fun n r => n ||| r.2.2) 0)
    else
      let r := bs.foldl (fun (x : State × Nat) b => let y := axpyLane x.1 u m k b; (y.1, x.2 ||| y.2)) (s, 0)
      nodeFlags (fullRows r.1 (bs.map (fun b => row (16 * k + b))) u) u.launch r.2
  | .result q =>
    let s := dramWrite s (u.rbase + 1024 * q) (resultRow u m q)
    if q = 3 then fullRows s u.resultRows u else s
  | .fill d => fullRows (if s.mem.l2.isEmpty then s.zero (rowKey u.wpage d) 1024 else dramWrite s (rowKey u.wpage d) (List.replicate 1024 0)) [row d] u
  | .clone src dst => markFull (cloneRow s (rowKey u.spage src) (rowKey u.wpage dst)) [row dst] u
  | .bufRead src => s.setUnit { u with buffer := rowBytes s other (rowKey u.spage src) 1024 }
  | .bufWrite dst => fullRows (dramWrite s (rowKey u.wpage dst) u.buffer) [row dst] u

/-! ### The end of a node -/

/-- The declared ranges of a node (R301): write, base, rows, pitch, row bytes. -/
def Node.ranges (n : Node) : List (Bool × Nat × Nat × Nat × Nat) :=
  let ops := (List.range (recField n.record 3 1 % 8)).map (fun i => recField n.record (0x20 + 8 * i) 8)
  (ops.zip n.bases).map (fun o =>
    (bits o.1 63 63 = 1, o.2.toNat, bits o.1 31 16, bits o.1 55 32 * 64, bits o.1 62 56 * 64))

/-- The key of a virtual address by the translations taken at validation (R311). -/
def Node.key (n : Node) (va : Nat) : Option Nat :=
  (n.pages.find? (fun p => p.1 = va / 2 ^ 16)).map (fun p => p.2 + va % 2 ^ 16)

/-- The lines of the declared ranges that read, or that write. -/
def Node.lines (n : Node) (wr : Bool) : List Nat :=
  (n.ranges.filter (fun r => r.1 = wr)).flatMap (fun r =>
    (List.range r.2.2.1).flatMap (fun i =>
      let a := r.2.1 + i * r.2.2.2.1
      (lineCuts (r.2.2.2.2 / 64 + 2) a r.2.2.2.2).filterMap (fun c => (n.key c.1).map lineOf)))

/-- The node of a unit is done (R306 steps 4 and 5): the declared write ranges are dropped at their homes and
stamped, its rows' entries freed, the unit keeps its registers; its successors follow its accesses, and copies of
its declared lines that are still leased keep them waiting (R246, R253). -/
def endUnit (s : State) (u : RowUnit) : State :=
  let node := match s.launch? u.launch with | some l => l.nodes[u.node]? | none => none
  let lines := match node with | some n => n.lines true | none => []
  let lag := lagOf s 0 lines
  let (s, p) := lines.foldl (fun (x : State × Nat) l => let r := stampWrite (dropL2 x.1 l) l 0; (r.1, max x.2 r.2)) (keepRowRegs s u, u.pts)
  let s := { s with
    mem := { s.mem with empties := s.mem.empties.filter (fun e => e.unit_ ≠ u.pch) }
    eng := { s.eng with units := s.eng.units.filter (fun x => x.pch ≠ u.pch) } }
  (finishNode (raiseNode s u.launch u.node p) u.launch u.node).mapLaunch u.launch (fun l => l.mapNode u.node (fun n => { n with lag := lag }))

/-- Where an address of a tenant leads, without the access. -/
def probeKey (s : State) (pad ten va : Nat) : Option Nat :=
  match (translate s pad ten none none va false false).2 with
  | .ok k _ => some k
  | _ => none

/-- The offset that an input of an element names for an access: none for a null or a hand-over mark. -/
def Elem.offAt (s : State) (e : Elem) (n : Nat) : List Nat :=
  match e.peek s n with
  | some t => if t.isNull || 2 ^ 63 ≤ t.word.toNat then [] else [t.word.toNat]
  | none => []

/-- The offsets that an element may load now, its inputs at hand and its outputs with credit (R186, R196). -/
def Elem.loadsNow (s : State) (e : Elem) : List Nat :=
  let lines (i : Nat) : List Nat := (List.range (e.len / 64 - i)).map (fun k => 64 * (i + k))
  match bits e.spec 39 38 with
  | 0 =>
    if bits e.spec 37 37 = 1 || e.draining s then []
    else if e.inner then (if e.snap.isEmpty then lines e.i else [])
    else if 0 < e.passes || (match e.peek s 0 with | some t => !t.isNull | none => false) then lines 0 else []
  | 1 => if e.opens s 4 && !e.storeFirst s then e.offAt s 0 else []
  | _ => if (match e.peek s 1 with | some d => !d.isNull | none => false) then (e.offAt s 0).filter (fun o => e.buf.all (fun l => l.off ≠ o)) else []

/-- The offsets that it may store to now (R186, R196). -/
def Elem.storesNow (s : State) (e : Elem) : List Nat :=
  let given (n : Nat) : Bool := match e.peek s n with | some t => !t.isNull | none => false
  match bits e.spec 39 38 with
  | 0 => if bits e.spec 37 37 = 1 && given 0 && (64 * (e.i + 1) < e.len || e.opens s 5) then [64 * e.i] else []
  | 1 => if given 2 && !e.loadFirst s then e.offAt s 1 else []
  | _ => if given 1 then e.offAt s 0 else []

/-- The lines that its buffer is to write now (R230): all before it passes its region on, when it is saved, and when its configuration is at
rest; the oldest when a store needs its place. -/
def Elem.flushesNow (s : State) (c : Conf) (e : Elem) (stores : List Nat) : List Nat :=
  let marked : Bool := s.fab.inputs.all (fun i => !(i.ep.cls = .elem && i.ep.pos = e.pos && i.ep.idx / 8 = e.slot) || i.cyc || i.marker ||
    s.fab.links.all (fun l => l.dst ≠ i.ep))
  if (e.own && e.handsOver s) || (e.draining s && marked) || atRest s c then e.buf.map (·.off)
  else if e.coal && 8 ≤ e.buf.length && stores.any (fun o => e.buf.all (fun l => l.off ≠ o)) then (e.buf.take 1).map (·.off) else []

/-- The addresses of the accesses of a MEM element that may go on now but for the homes (R196, R230, R320). -/
def Elem.asks (s : State) (c : Conf) (e : Elem) : List Nat :=
  if e.kind ≠ .mem || e.saved || e.lost then []
  else
    let stores := if e.own && e.out.isEmpty then e.storesNow s else []
    ((if e.own && e.out.isEmpty then e.loadsNow s else []) ++ stores ++ e.flushesNow s c stores).map (fun o => e.base + o)

/-- Where the word that a program has reached finds its ring, or its port, ready for its next tile (R298). -/
def AgProg.ready (s : State) (g : AgProg) (sink ring : Bool) (shape h : Word) : Bool :=
  if ring then
    match agRing s shape h with
    | .ok r => if sink then r.c < r.w else r.room
    | .error _ => false
  else if sink then tokensOf shape ≤ g.left.length
  else g.left.isEmpty && (s.outLinks (g.ep h.toNat)).all (linkOpen s)

/-- The addresses of the next access of a program that runs: its word, the word's operands, or the tile that it has reached (R298). -/
def AgProg.asks (s : State) (g : AgProg) : List Nat :=
  let tile (shape base stride : Word) : List Nat := (tileRanges shape (base + BitVec.ofNat 64 g.tile * stride)).map (·.1)
  let operands (n : Nat) : List Nat := (List.range n).map (fun i => g.pc.toNat + 8 * (i + 1))
  if g.stopped || agHalted s g then []
  else
    match g.word.map decodeAg, g.ops with
    | none, _ => [g.pc.toNat]
    | some (.agcopy _ _), some ops =>
      let bs := g.bases (ops.getD 0 0) (ops.getD 1 0)
      let st := ops.getD 3 0
      tile (ops.getD 2 0) bs.1 (strideBytes (st.truncate 32)) ++ tile (ops.getD 2 0) bs.2 (strideBytes ((st >>> 32).truncate 32))
    | some (.agstrm k _ _ st), some ops =>
      if g.ready s false (k = 0) (ops.getD 1 0) (ops.getD 2 0) then tile (ops.getD 1 0) (g.bases (ops.getD 0 0) 0).1 (strideBytes st) else []
    | some (.agsink k _ _ st), some ops =>
      if g.ready s true (k = 0) (ops.getD 1 0) (ops.getD 2 0) then tile (ops.getD 1 0) (g.bases (ops.getD 0 0) 0).1 (strideBytes st) else []
    | some (.agfill _ _ st), some ops => tile (ops.getD 1 0) (g.bases (ops.getD 0 0) 0).1 (strideBytes st)
    | some (.agcopy _ _), none => operands 4
    | some (.agstrm _ _ _ _), none | some (.agsink _ _ _ _), none | some (.agfill _ _ _), none => operands 3
    | _, _ => []

/-- The addresses of the lines of a tile's command that has come to its tile access (R271). -/
def Running.asks (r : Running) : List Nat :=
  match r.addr, decodeCmd r.word with
  | some w, .mldt x => if r.step = x.m then tileAddrs w.toNat x.pitch x.m (64 * x.c) else []
  | some w, .mstt x => if r.step = x.m then tileAddrs w.toNat x.pitch x.m x.rowBytes else []
  | _, _ => []

/-- The addresses in memory of a running copy's next piece (R291). -/
def CopyOp.asks (s : State) (c : CopyOp) : List Nat :=
  if !c.running || c.lost || (c.ring.isSome && c.ringSlot.isNone) then []
  else
    match c.piece s c.moved with
    | none => []
    | some rows => rows.flatMap (fun r =>
        let ends := [r.1] ++ if c.ring.isSome then [] else [r.2.1]
        (ends.filter (fun a => a / 2 ^ 56 = 0)).flatMap (fun a => (lineCuts (r.2.2 / 64 + 2) a r.2.2).map (·.1)))

/-- The vector of lane `b`, cut at lines, by the translations taken at validation, where moved lines now live (R311, R313, R367). -/
def RowUnit.vector (s : State) (u : RowUnit) (b : Nat) : List (Nat × Nat) :=
  let m := nmRec u.record
  let node := match s.launch? u.launch with | some l => l.nodes[u.node]? | none => none
  match node with
  | none => []
  | some n => (lineCuts (m.len + 2) (m.vecAt b) (32 * m.len)).map (fun c =>
      let k := (n.key c.1).getD 0
      ((followMoves s 8 k).getD k, c.2))

/-- The requests that stand at the homes (R320), each with its kind and number as where it parks (R321) and the keys of its next
access. -/
def requests (s : State) : List (Nat × Nat × List Nat) :=
  let here (k : Nat) : Nat := (followMoves s 8 k).getD k
  let at_ (pad ten kind id : Nat) (vas : List Nat) : Nat × Nat × List Nat := (kind, id, (vas.filterMap (probeKey s pad ten)).map here)
  let first (r : Req) : List (Nat × Nat × List Nat) := match r.keys with | some k :: _ => [(0, r.id, [here k])] | _ => []
  s.cores.tasks.flatMap (fun t => (t.queue.take 1 ++ t.reds).flatMap first) ++ s.mem.retired.flatMap (fun x => first x.req) ++
  s.fab.elems.flatMap (fun e => match s.conf? e.cid with | some c => [at_ c.pad c.ten 1 (8 * e.pos + e.slot) (e.asks s c)] | none => []) ++
  s.eng.tiles.flatMap (fun t => match s.conf? t.cid, t.run with
    | some c, some r => [at_ c.pad c.ten 2 t.pos r.asks]
    | _, _ => []) ++
  s.eng.copies.map (fun c => at_ c.pad c.ten 3 c.id (c.asks s)) ++
  s.eng.progs.map (fun g => at_ g.pad g.ten 4 g.id (g.asks s)) ++
  (s.eng.deliveries.filter (fun d => bits d.word.toNat 63 62 = 2)).map (fun d => (5, d.id, [here d.key])) ++
  (s.mem.partials.filter (fun p => !p.placed)).map (fun p => (6, 4 * p.line + p.die, [p.line * 64])) ++
  s.mem.outside.map (fun x => (7, x.id, x.keys.map (fun k => here k.1))) ++
  (s.eng.units.filter (fun u => !u.loaded)).map (fun u => (8, u.pch, ((nmRec u.record).lanes.flatMap (u.vector s)).map (·.1))) ++
  s.eng.scans.map (fun c => (9, c.id, if (s.ring? c.ring).any Ring.room then [here c.key] else []))

/-- Requests that wait at a pseudo-channel and are not parked, those of its own unit apart (R320): kind, number and key. -/
def waitingAt (s : State) (pch : Nat) : List (Nat × Nat × Nat) :=
  ((requests s).filter (fun r => !(r.1 = 8 && r.2.1 = pch) && r.2.2.all (fun k => !parked s k))).flatMap (fun r =>
    (r.2.2.filter (fun k => regionOf k = 0 && s.channelOf (offsetOf k) = pch)).map (fun k => (r.1, r.2.1, k)))

/-- A unit may take its next step: it is powered, not suspended or cancelled, no request waits at this boundary (R320), and throttling does not
skip the cycle (R386). -/
def RowUnit.mayStep (s : State) (u : RowUnit) : Bool :=
  u.power = .up && !u.suspended && !u.cancelled && !s.hub.skips s.ctl.now && !(u.fresh && !(waitingAt s u.pch).isEmpty)

/-- The paddock's tweak mode (R318). -/
def addressBound (s : State) (pad : Nat) : Bool := match s.pad? pad with | some p => p.addressBound | none => false

/-- Loads the broadcast registers of the lanes (R313), once every line of the vectors may be read; a poisoned word cancels the node. -/
def loadRegs (s : State) (u : RowUnit) : State :=
  let lanes := (nmRec u.record).lanes
  let ks := lanes.flatMap (u.vector s)
  match ks.find? (fun k => !mayPass s k.1 8 u.pch) with
  | some k => parkAt s k.1 8 u.pch
  | none =>
    let s := ks.foldl (fun s k => unpark s k.1 8 u.pch) s
    if ks.any (fun k => s.poisoned k.1 k.2) then s.setUnit { u with loaded := true, cancelled := true }
    else
      let r := lanes.foldl (fun (x : State × List (List Byte) × Nat) b =>
        let y := readKeys x.1 u.who x.2.2 (u.vector s b)
        (y.1, x.2.1.set b (y.2.1 ++ (x.2.1.getD b []).drop y.2.1.length), y.2.2)) (s, u.regs, u.pts)
      r.1.setUnit { u with loaded := true, regs := r.2.1, pts := r.2.2 }

/-- The lines of DRAM that a row step reads, opened with its node's key: NMAXPY, which rewrites what it reads, first makes them its
node's; a clone opens none; the unit's timestamp rises to those of the lines (R244, R253, R317, R373). -/
def openRows (s : State) (u : RowUnit) (st : NmStep) : State × List (Nat × Vec) :=
  let lines := ((st.reads u).map (fun k => lineOf k.1)).eraseDups
  let (s, p) := tileStamp s lines u.pts
  let s := { s with eng := { s.eng with units := s.eng.units.map (fun x => if x.pch = u.pch then { x with pts := p } else x) } }
  let (s, other) := opened s u.who (match st with | .clone _ _ => [] | _ => lines)
  if (nmRec u.record).op = 2 then (other.foldl (fun s x => dramWrite s (x.1 * 64) (toBytes 64 x.2.toNat)) s, []) else (s, other)

/-- A unit's next row step, indivisible (R319), its registers loaded first (R313); after the last the node is done. A poisoned word
cancels the node (R322). -/
def rowStep (s : State) (u : RowUnit) : State :=
  let steps := u.steps (addressBound s u.pad)
  if !u.loaded then loadRegs s u
  else
  match steps[u.step]? with
  | none => endUnit s u
  | some st =>
    if (st.reads u).any (fun k => s.poisoned k.1 k.2) then s.setUnit { u with cancelled := true }
    else
      let (s, other) := openRows s u st
      let u := { u with pts := match s.eng.units.find? (fun x => x.pch = u.pch) with | some x => x.pts | none => u.pts }
      let s := st.run s u other
      match s.eng.units.find? (fun x => x.pch = u.pch) with
      | none => s
      | some u' =>
        let u' := { u' with step := u'.step + 1, fresh := true }
        let s := s.setUnit u'
        if steps.length ≤ u'.step then endUnit s u' else s

/-- Runs a unit's node of one operation from step to step while nothing holds it. -/
def runUnit (op : Nat) : Nat → State → Nat → State
  | 0, s, _ => s
  | n + 1, s, pch =>
    match s.eng.units.find? (fun x => x.pch = pch) with
    | none => s
    | some u => if (nmRec u.record).op = op && u.mayStep s then runUnit op n (rowStep s u) pch else s

/-- The longest program of a unit: the load of its registers, 64 row steps of lanes or 128 of copies, and the result rows. -/
def maxSteps : Nat := 133

/-- Runs the node of unit `u` of the list when its operation is `op`. -/
def runNode (op u : Nat) (s : State) : Out :=
  match s.eng.units[u]? with
  | none => .next s
  | some x => .next (runUnit op maxSteps s x.pch)

/-! ### Events -/

/-- NMDOT (R314). -/
def execNmdot (u : Nat) (s : State) : Out := runNode 1 u s

/-- NMAXPY (R315). -/
def execNmaxpy (u : Nat) (s : State) : Out := runNode 2 u s

/-- NMFILL (R316). -/
def execNmfill (u : Nat) (s : State) : Out := runNode 3 u s

/-- NMCOPY (R317). -/
def execNmcopy (u : Nat) (s : State) : Out := runNode 4 u s

/-- One row step of unit u (R319). -/
def execNmRowStep (u : Nat) (s : State) : Out :=
  match s.eng.units[u]? with
  | none => .next s
  | some x => if x.mayStep s then .next (rowStep s x) else .next s

/-- At a row boundary unit u suspends for the requests that wait there, and resumes when they have been served (R320). -/
def execNmBoundary (u : Nat) (s : State) : Out :=
  match s.eng.units[u]? with
  | none => .next s
  | some x =>
    let ws := waitingAt s x.pch
    if x.suspended then
      if ws.any (fun w => x.serving.contains w) then .next s
      else .next (s.setUnit { x with suspended := false, serving := [], fresh := false })
    else if x.fresh then
      if ws.isEmpty then .next (s.setUnit { x with fresh := false })
      else .next (s.setUnit { x with suspended := true, serving := ws })
    else .next s

/-- A cancelled node stops: its empty rows are poisoned, and it fails with POISON subcode 3 (R322). -/
def execNmCancel (u : Nat) (s : State) : Out :=
  match s.eng.units[u]? with
  | none => .next s
  | some x =>
    if !x.cancelled then .next s
    else
      let graph := match s.launch? x.launch with | some l => l.graph | none => 0
      let (s, a) := writeRecord s x.pad x.ten { code := 0x16, sub := 3, graph := graph, node := x.node }
      .next (nodeFail (cancelUnit s x) x.launch x.node 0x16 a)

/-- The spill row of bank `b` of a pseudo-channel: DRAM row 49,151 (R324). Log 5. -/
def spillKey (pch b : Nat) : Nat :=
  regionKey 0 (pch / 4 * tileBytes + (49148 + pch % 4) * 2 ^ 16 + (48 + b) * 1024)

/-- A pseudo-channel enters self-refresh or power-down: the live state of its unit is spilled first (R324). -/
def execNmSpill (u : Nat) (s : State) : Out :=
  match s.eng.units[u]? with
  | none => .next s
  | some x =>
    if x.power = .down then .next s
    else
      let s := (List.range 16).foldl (fun s b => s.write (spillKey x.pch b) ((x.acc.getD b []).flatMap (toBytes 4))) s
      let s := s.write (spillKey x.pch 0 + 256) (toBytes 64 x.step)
      .next (s.setUnit { x with acc := [], step := 0, power := .down })

/-- On exit the spilled state is restored before any other work of the channel (R324). -/
def execNmRestore (u : Nat) (s : State) : Out :=
  match s.eng.units[u]? with
  | none => .next s
  | some x =>
    if x.power = .up then .next s
    else
      let acc := (List.range 16).map (fun b => (List.range 64).map (fun j => s.read (spillKey x.pch b + 4 * j) 4))
      .next (s.setUnit { x with acc := acc, step := s.read (spillKey x.pch 0 + 256) 64, power := .up })

end Sys2Proof.Machine
end

