-- ==== Sys2Proof/Machine/Loader.lean ====
section
/-! DEFINITION. The loader of configurations: the words of an image (R157, R184 to R200), its four passes of checks (R201, R202),
and the placing of a configuration on its strips (R160, R164, R179, R264, R351). -/

namespace Sys2Proof.Machine

/-! ### Words -/

def cwKind (w : Nat) : Nat := bits w 63 58
def cwSlot (w : Nat) : Nat := bits w 57 52
def cwCol (w : Nat) : Nat := bits w 51 45
def cwRow (w : Nat) : Nat := bits w 44 40

/-- The element kind of a configuration word (R69). -/
def elemKind (w : Nat) : Option ElemKind :=
  match cwKind w with
  | 0x01 => some .cnt
  | 0x02 => some .steer
  | 0x03 => some .merge
  | 0x04 => some .repl
  | 0x05 => some .win
  | 0x06 => some .maxr
  | 0x07 => some .dly
  | 0x08 => some .cvt
  | 0x09 => some .xfm
  | 0x0A => some .mem
  | 0x0B => some .join
  | _ => none

def isTask (w : Nat) : Bool := cwKind w = 0x0C
def isLink (w : Nat) : Bool := cwKind w = 0x0D || cwKind w = 0x0E
/-- The form of a TASK word: 0 MAIN, 1 PORTS, 2 RANGE, 3 STEAL (R198). -/
def taskForm (w : Nat) : Nat := bits w 39 38
/-- Position and slot of an element or a task, relative to the image. -/
def cwPlace (w : Nat) : Nat × Nat × Nat := (cwCol w, cwRow w, cwSlot w)

/-- Width of a Q destination of CVT (R188). -/
def qBits (dst : Nat) : Nat := if dst = 6 then 8 else 4

/-- FRAME (R69, R184, R188, R198, R200). -/
def wordFrameBad (w : Nat) : Bool :=
  let z (hi lo : Nat) : Bool := bits w hi lo = 0
  let ok : Bool :=
    match cwKind w with
    | 0x01 => z 17 0 && (if bits w 39 39 = 1 then z 38 31 else bits w 38 23 ≠ 0)
    | 0x02 => z 37 0
    | 0x03 => z 37 0
    | 0x04 => z 21 0 && bits w 37 22 ≠ 0
    | 0x05 => z 20 0 && bits w 39 37 ≠ 0
    | 0x06 => z 23 0 && [0, 1, 2, 5, 9, 11].contains (bits w 39 36)
    | 0x07 => z 26 0
    | 0x08 =>
      let d := bits w 35 32
      let zp := bits w 17 10
      z 9 0 && bits w 39 36 ≤ 2 && 3 ≤ d && d ≤ 8 &&
        (if d = 6 ∨ d = 8 then zp < 2 ^ qBits d && min zp (2 ^ qBits d - 1 - zp) ≠ 0 else zp = 0)
    | 0x09 => z 34 0 && bits w 39 36 ≤ 4
    | 0x0A =>
      let op := bits w 17 14
      z 12 0 && bits w 39 38 ≠ 3 && bits w 36 29 ≠ 255 &&
        (op ≤ 7 || (10 ≤ op && op ≤ 12 && bits w 13 13 = 0))
    | 0x0B => z 36 0 && bits w 38 37 ≠ 0
    | 0x0C =>
      (match taskForm w with
      | 0 => z 14 0
      | 1 => z 10 0
      | 2 => z 17 0
      | _ => z 13 0)
    | 0x0D => bits w 57 56 ≤ 1 && z 8 0 && bits w 36 35 ≠ 3 && bits w 16 15 ≠ 3
    | 0x0E => z 57 52 && z 51 49 && z 8 0 && bits w 36 35 ≠ 3 && bits w 16 15 ≠ 3
    | _ => false
  let slotOk : Bool := if isTask w then cwSlot w ≤ 15 else isLink w || cwSlot w ≤ 7
  !(ok && slotOk)

/-- PLACE (R157) in an image of `n` strips. -/
def placeBad (n w : Nat) : Bool := !isLink w && (2 * n ≤ cwCol w || 24 < cwRow w || cwRow w = 12)

/-- The ports that a PORTS word binds (R198). -/
def portsOf (w : Nat) : List Port :=
  if isTask w && taskForm w = 1 then
    (List.range 8).filterMap (fun i =>
      let b := bits w (34 - 3 * i) (32 - 3 * i)
      let num := 8 * bits w 37 35 + i
      match b / 2 with
      | 1 => some { num := num, plane := .ctl, wake := b % 2 = 1 }
      | 2 => some { num := num, plane := .data, wake := b % 2 = 1 }
      | 3 => some { num := num, plane := .pulse, wake := b % 2 = 1 }
      | _ => none)
  else []

/-- CLASH of a word with an earlier one (R159, R162, R199). -/
def clashWith (w v : Nat) : Bool :=
  if isTask w then
    isTask v &&
    ((cwPlace v = cwPlace w && taskForm v = taskForm w && (taskForm w ≠ 1 || bits v 37 35 = bits w 37 35)) ||
     (cwCol v = cwCol w && cwRow v = cwRow w && cwSlot v ≠ cwSlot w &&
        (portsOf w).any (fun p => (portsOf v).any (fun q => q.num = p.num))))
  else (elemKind w).isSome && (elemKind v).isSome && cwPlace v = cwPlace w

/-- TILE (R159). -/
def tileBad (w : Nat) : Bool :=
  isMatrixRow (cwRow w) && (isTask w || elemKind w = some .win || elemKind w = some .dly)

/-! ### What the loader reads -/

/-- A doubleword of paddock memory as the Drover reads it, where its line now lives (R88, R367); none when its translation fails. -/
def droverRead (s : State) (pad ten va : Nat) : Option Nat :=
  if 2 ^ 56 ≤ va ∨ va % 8 ≠ 0 then none
  else
    match pageProbe s pad ten (va / 2 ^ 16) true false with
    | some k => (followMoves s 8 (k.1 + va % 2 ^ 16)).map (fun k => s.read k 8)
    | none => none

/-- The Drover's reads at some addresses that a hurdle drops (R370). -/
def droppedReads (s : State) (pad ten : Nat) (vas : List Nat) : Nat :=
  (vas.filter (fun va => va < 2 ^ 56 && (translate s pad ten none none (va / 2 ^ 16 * 2 ^ 16) true false).2 = .dropped)).length

/-- Counts packets of a paddock that a hurdle has dropped (R370). -/
def State.countDrops (s : State) (pad n : Nat) : State := s.mapPad pad (fun p => { p with pdrop := (p.pdrop + n) % 2 ^ 32 })

/-- Doubleword `i` of the argument block (R188, R196, R198). -/
def argWord (s : State) (pad ten args i : Nat) : Option Nat :=
  if args = 0 then none else droverRead s pad ten (args + 8 * i)

/-- An image: its words up to the zero doubleword (R157); or the address whose translation failed; none when no zero
doubleword comes in time. -/
def readImage (s : State) (pad ten : Nat) : Nat → Nat → List Nat → Except Nat (Option (List Nat))
  | 0, _, _ => .ok none
  | n + 1, va, acc =>
    match droverRead s pad ten va with
    | none => .error va
    | some 0 => .ok (some acc.reverse)
    | some w => readImage s pad ten n (va + 8) (w :: acc)

/-- The image at a CFG address (R88). -/
def imageAt (s : State) (pad ten cfg : Nat) : Except Nat (Option (List Nat)) := readImage s pad ten 262144 cfg []

/-- What a loader knows besides the image: paddock, tenant, strips, argument block, address of the image. -/
structure Load where
  pad : Nat
  ten : Nat
  n : Nat
  args : Nat
  cfg : Nat
  deriving DecidableEq, Repr

/-- The range of the task whose MAIN word is word `i` of the image (R390). -/
def Load.text? (l : Load) (s : State) (i : Nat) : Option TextRange :=
  s.drv.texts.find? (fun t => t.pad = l.pad && t.ten = l.ten && t.word = l.cfg + 8 * i)

/-- A word of text in memory. -/
def textWord (s : State) (pad ten va : Nat) : Option Nat :=
  (droverRead s pad ten (va / 8 * 8)).map (fun d => d / 2 ^ (8 * (va % 8)) % 2 ^ 32)

/-- ENTRY of a MAIN word is a valid header of its task (R16, R199). -/
def Load.entryOk (l : Load) (s : State) (i w : Nat) : Bool :=
  let e := bits w 37 24
  match l.text? s i with
  | none => false
  | some t =>
    if e < t.first ∨ t.first + t.words ≤ e then false
    else
      match textWord s l.pad l.ten (t.va + 4 * (e - t.first)) with
      | none => false
      | some h => h % 256 = 0xB7 && h / 256 % 256 = 0 && e + 1 + h / 2 ^ 26 < 2 ^ 14

/-- TASK checks of R199 that a word allows alone. -/
def Load.taskWordBad (l : Load) (s : State) (i w : Nat) : Bool :=
  isTask w &&
  (match taskForm w with
  | 0 => !l.entryOk s i w
  | 2 => bits w 20 20 = 1 && bits w 19 18 = 0
  | _ => false)

/-- ARGS (R188, R196, R198). -/
def Load.argsBad (l : Load) (s : State) (w : Nat) : Bool :=
  let arg (i : Nat) : Option Nat := argWord s l.pad l.ten l.args i
  if cwKind w = 0x01 then bits w 39 39 = 1 && (arg (bits w 30 23)).isNone
  else if cwKind w = 0x0A then
    match arg (bits w 36 29), arg (bits w 36 29 + 1) with
    | some b, some n => b % 64 ≠ 0 || n % 64 ≠ 0
    | _, _ => true
  else if isTask w && taskForm w = 2 then
    bits w 37 37 = 1 && ((arg (bits w 36 29)).isNone || (arg (bits w 28 21)).isNone)
  else false

/-- What the Drover reads for a word beside the image: its words of the argument block, the header that ENTRY names. -/
def Load.wordReads (l : Load) (s : State) (i w : Nat) : List Nat :=
  let arg (j : Nat) : Nat := l.args + 8 * j
  if cwKind w = 0x01 then (if bits w 39 39 = 1 then [arg (bits w 30 23)] else [])
  else if cwKind w = 0x0A then [arg (bits w 36 29), arg (bits w 36 29 + 1)]
  else if isTask w && taskForm w = 2 then (if bits w 37 37 = 1 then [arg (bits w 36 29), arg (bits w 28 21)] else [])
  else if isTask w && taskForm w = 0 then
    (match l.text? s i with | some t => [t.va + 4 * (bits w 37 24 - t.first)] | none => [])
  else []

/-! ### Pass 1 -/

/-- The subcode of a word, given those before it (R202). -/
def Load.pass1Word (l : Load) (s : State) (prev : List Nat) (i w : Nat) : Option Nat :=
  if wordFrameBad w then some 1
  else if placeBad l.n w then some 2
  else if prev.any (clashWith w) then some 3
  else if tileBad w then some 4
  else if l.taskWordBad s i w then some 12
  else if l.argsBad s w then some 13
  else none

def Load.pass1 (l : Load) (s : State) : List Nat → List Nat → Nat → Option (Nat × Nat)
  | _, [], _ => none
  | prev, w :: ws, i =>
    match l.pass1Word s prev i w with
    | some sub => some (sub, i)
    | none => l.pass1 s (w :: prev) ws (i + 1)

/-! ### Pass 2 -/

def epCol (f : Nat) : Nat := bits f 19 13
def epRow (f : Nat) : Nat := bits f 12 8
def epClass (f : Nat) : Nat := bits f 7 6
def epIdx (f : Nat) : Nat := bits f 5 0
def linkSrc (w : Nat) : Nat := bits w 48 29
def linkDst (w : Nat) : Nat := bits w 28 9

/-- The plane of a LINK or CLINK (R200). -/
def linkPlane (w : Nat) : PortPlane := if cwKind w = 0x0E then .pulse else if bits w 57 56 = 1 then .data else .ctl

/-- The plane of an element's port and whether it is an output (R187, R196). No kind has a pulse port, so a CLINK at an element
is a port of the wrong plane: log 47. -/
def elemPort (w p : Nat) : Option (PortPlane × Bool) :=
  let pl : PortPlane := if bits w 39 39 = 1 then .data else .ctl
  let c := PortPlane.ctl
  let d := PortPlane.data
  match elemKind w with
  | some .cnt => match p with | 0 => some (c, false) | 4 => some (c, true) | 5 => some (c, true) | _ => none
  | some .steer => match p with | 0 => some (pl, false) | 1 => some (c, false) | 4 => some (pl, true) | 5 => some (pl, true) | _ => none
  | some .merge => match p with | 0 => some (pl, false) | 1 => some (pl, false) | 2 => some (c, false) | 4 => some (pl, true) | _ => none
  | some .repl => match p with | 0 => some (c, false) | 4 => some (d, true) | _ => none
  | some .win => match p with | 0 => some (d, false) | 1 => some (c, false) | 4 => some (d, true) | _ => none
  | some .maxr => match p with | 0 => some (d, false) | 4 => some (c, true) | _ => none
  | some .dly => match p with | 0 => some (pl, false) | 4 => some (pl, true) | _ => none
  | some .cvt => match p with | 0 => some (d, false) | 1 => some (c, false) | 4 => some (d, true) | 5 => some (c, true) | _ => none
  | some .xfm =>
    (match p with
    | 0 => some (if bits w 39 36 = 4 then c else d, false)
    | 1 => some (d, false)
    | 4 => some (d, true)
    | _ => none)
  | some .mem =>
    (match p, bits w 39 38, bits w 37 37 with
    | 3, _, _ => some (c, false)
    | 7, _, _ => some (c, true)
    | 0, 0, 0 => some (c, false)
    | 4, 0, 0 => some (d, true)
    | 5, 0, _ => some (c, true)
    | 0, 0, _ => some (d, false)
    | 0, 1, _ => some (c, false)
    | 1, 1, _ => some (c, false)
    | 2, 1, _ => some (d, false)
    | 4, 1, _ => some (d, true)
    | 0, 2, _ => some (c, false)
    | 1, 2, _ => some (d, false)
    | _, _, _ => none)
  | some .join => if p < 4 then some (pl, false) else if p = 4 then some (pl, true) else none
  | none => none

/-- The plane of an engine port and whether it is an output (R265, R299). -/
def enginePort (row p : Nat) : Option (PortPlane × Bool) :=
  if isMatrixRow row then
    if p = 0 ∨ p = 4 ∨ p = 6 then some (.ctl, false)
    else if 1 ≤ p ∧ p ≤ 3 then some (.data, false)
    else if p = 5 then some (.ctl, true)
    else if 8 ≤ p ∧ p ≤ 15 then some (.data, true) else none
  else if row = 25 ∨ row = 26 then
    if p < 8 then some (.data, true) else if p < 16 then some (.data, false) else if p < 24 then some (.pulse, false) else none
  else none

/-- The PORTS binding of a PE port of the image. -/
def imagePort (ws : List Nat) (col row num : Nat) : Option Port :=
  ((ws.filter (fun w => isTask w && cwCol w = col && cwRow w = row)).flatMap portsOf).find? (fun p => p.num = num)

/-- An endpoint exists with a plane and a direction (R161, R187); a PE port goes either way here. -/
def endpointOk (ws : List Nat) (n f : Nat) (plane : PortPlane) (out : Bool) : Bool :=
  epCol f < 2 * n &&
  (match epClass f with
  | 0 => isPeRow (epRow f) && (match imagePort ws (epCol f) (epRow f) (epIdx f) with | some p => p.plane = plane | none => false)
  | 1 =>
    match ws.find? (fun w => (elemKind w).isSome && cwPlace w = (epCol f, epRow f, epIdx f / 8)) with
    | some w => elemPort w (epIdx f % 8) = some (plane, out)
    | none => false
  | 2 => enginePort (epRow f) (epIdx f) = some (plane, out)
  | _ => false)

/-- ENDPOINT, then VC, of a link word given the link words before it (R202). -/
def pass2Word (ws prev : List Nat) (n w : Nat) : Option Nat :=
  let src := linkSrc w
  let dst := linkDst w
  let pl := linkPlane w
  let vc := bits w 51 49
  if !endpointOk ws n src pl true || !endpointOk ws n dst pl false then some 5
  else if prev.any (fun v => linkDst v = dst) || 4 ≤ (prev.filter (fun v => linkSrc v = src)).length then some 5
  else if src = dst || prev.any (fun v => (epClass src = 0 && linkDst v = src) || (epClass dst = 0 && linkSrc v = dst)) then some 5
  else if (pl = .ctl && vc ≠ 0) || (pl = .data && 6 ≤ vc) then some 7
  else none

def pass2 (all : List Nat) (n : Nat) : List Nat → List Nat → Nat → Option (Nat × Nat)
  | _, [], _ => none
  | prev, w :: ws, i =>
    if !isLink w then pass2 all n prev ws (i + 1)
    else
      match pass2Word all prev n w with
      | some sub => some (sub, i)
      | none => pass2 all n (w :: prev) ws (i + 1)

/-! ### Pass 3 -/

/-- The links of an image. -/
def linksOf (ws : List Nat) : List Nat := ws.filter isLink

/-- A PE port field of an endpoint. -/
def portField (col row num : Nat) : Nat := col * 2 ^ 13 + row * 2 ^ 8 + num

/-- Whether a PE port is a producer, a consumer of some link. -/
def isProducer (ws : List Nat) (col row num : Nat) : Bool := (linksOf ws).any (fun v => linkSrc v = portField col row num)
def isConsumer (ws : List Nat) (col row num : Nat) : Bool := (linksOf ws).any (fun v => linkDst v = portField col row num)

/-- The words of the task of a word. -/
def taskWords (ws : List Nat) (w : Nat) : List Nat := ws.filter (fun v => isTask v && cwPlace v = cwPlace w)

/-- The rules of R199 that need a task's other words, ports or links. A steal port without any link is rejected like one whose link runs
the wrong way: R199 names the latter alone. Log 46. -/
def pass3Task (ws : List Nat) (w : Nat) : Option Nat :=
  let mine := taskWords ws w
  let ports := mine.flatMap portsOf
  let col := cwCol w
  let row := cwRow w
  let ctl (num : Nat) : Bool := ports.any (fun p => p.num = num && p.plane = .ctl)
  match mine.find? (fun v => taskForm v = 0) with
  | none => some 3
  | some m =>
    let sport := bits m 20 15
    let sportBad := bits m 21 21 = 1 && (!ctl sport || isProducer ws col row sport)
    let wakeBad := ports.any (fun p => p.wake && isProducer ws col row p.num)
    let enabled := mine.any (fun v => taskForm v = 2 && bits v 20 20 = 1)
    let steal := mine.find? (fun v => taskForm v = 3)
    let stealBad := match steal with
      | none => enabled
      | some v =>
        let sreq := bits v 37 32
        let srpy := bits v 31 26
        let vreq := bits v 25 20
        let vrpy := bits v 19 14
        !(ctl sreq && ctl srpy && ctl vreq && ctl vrpy) || !isProducer ws col row sreq || isProducer ws col row srpy ||
          isProducer ws col row vreq || !isProducer ws col row vrpy
    if sportBad || wakeBad || stealBad then some 12 else none

def pass3 (all : List Nat) : List Nat → List Nat → Nat → Option (Nat × Nat)
  | _, [], _ => none
  | prev, w :: ws, i =>
    if !isTask w || prev.any (fun v => isTask v && cwPlace v = cwPlace w) then pass3 all (w :: prev) ws (i + 1)
    else
      match pass3Task all w with
      | some sub => some (sub, i)
      | none => pass3 all (w :: prev) ws (i + 1)

/-! ### Pass 4 -/

/-- The depth of a link (R200). -/
def linkDepth (w : Nat) : Nat := bits w 55 52 + 1

/-- POOL (R165). -/
def poolBad (ws : List Nat) : Bool :=
  let ins := (linksOf ws).filter (fun v => epClass (linkDst v) = 0)
  ins.any (fun w =>
    let same := ins.filter (fun v => linkDst v / 2 ^ 8 = linkDst w / 2 ^ 8)
    16384 < same.foldl (fun n v => n + (match linkPlane v with | .data => 64 | .ctl => 8 | .pulse => 0) * linkDepth v) 0)

/-- The element word at an endpoint, when it names an element port. -/
def elemAt (ws : List Nat) (f : Nat) : Option Nat :=
  if epClass f = 1 then ws.find? (fun w => (elemKind w).isSome && cwPlace w = (epCol f, epRow f, epIdx f / 8)) else none

/-- The producer that feeds input `p` of an element word. -/
def feeder (ws : List Nat) (w p : Nat) : Option Nat :=
  ((linksOf ws).find? (fun v => linkDst v = cwCol w * 2 ^ 13 + cwRow w * 2 ^ 8 + 64 + cwSlot w * 8 + p)).map linkSrc

/-- DELAY (R194). -/
def delayBad (ws : List Nat) : Bool :=
  ws.any (fun w => elemKind w = some .cvt &&
    (match feeder ws w 0, feeder ws w 1 with
    | some a, some b =>
      match elemAt ws a, elemAt ws b with
      | some x, some y =>
        let check (dly mx : Nat) : Bool := elemKind dly = some .dly && elemKind mx = some .maxr &&
          (feeder ws dly 0).isSome && feeder ws dly 0 = feeder ws mx 0 &&
          !(bits dly 38 27 = bits mx 35 24 && bits dly 38 27 = bits w 30 19)
        check x y || check y x
      | _, _ => false
    | _, _ => false))

/-- Delay-line bytes of an element (R192, R193). -/
def delayBytes (w : Nat) : Nat :=
  match elemKind w with
  | some .win => 64 * ((bits w 39 37 - 1) * (bits w 34 33 + 1)) * (bits w 32 21 + 1)
  | some .dly => (if bits w 39 39 = 1 then 64 else 8) * (bits w 38 27 + 1)
  | _ => 0

/-- WINDOW (R192, R193). -/
def windowBad (ws : List Nat) : Bool :=
  ws.any (fun w => (elemKind w = some .win || elemKind w = some .dly) &&
    (65536 < (ws.filter (fun v => (elemKind v).isSome && cwCol v = cwCol w && cwRow v = cwRow w)).foldl (fun n v => n + delayBytes v) 0 ||
     (elemKind w = some .dly && bits w 39 39 = 1 && 1024 < bits w 38 27 + 1)))

/-- OWNER (R197). -/
def ownerBad (ws : List Nat) : Bool :=
  ws.any (fun w => elemKind w = some .mem &&
    (ws.filter (fun v => elemKind v = some .mem && bits v 28 21 = bits w 28 21 && bits v 20 20 = 1)).length ≠ 1)

/-- The successor of a counter. -/
def cntSucc (ws : List Nat) (w : Nat) : Option Nat :=
  if bits w 21 21 = 1 then ws.find? (fun v => (elemKind v).isSome && cwPlace v = (cwCol w, cwRow w, bits w 20 18)) else none

/-- Follows successors; true when the chain is longer than the slots of a tile. -/
def cntLoops (ws : List Nat) : Nat → Nat → Bool
  | 0, _ => true
  | n + 1, w => match cntSucc ws w with | some v => cntLoops ws n v | none => false

/-- CHAIN (R189). -/
def chainBad (ws : List Nat) : Bool :=
  let cs := ws.filter (fun w => elemKind w = some .cnt)
  cs.any (fun w =>
    let isSucc := cs.any (fun v => cntSucc ws v = some w)
    (isSucc && bits w 22 22 = 1) || ((isSucc || bits w 22 22 = 1) && (feeder ws w 0).isSome) ||
    (bits w 21 21 = 1 && (match cntSucc ws w with | some v => elemKind v ≠ some .cnt | none => true)) ||
    1 < (cs.filter (fun v => cntSucc ws v = some w)).length || cntLoops ws 9 w)

/-- The whole-configuration rules in subcode order. -/
def pass4 (ws : List Nat) : Option Nat :=
  if poolBad ws then some 6
  else if delayBad ws then some 8
  else if windowBad ws then some 9
  else if ownerBad ws then some 10
  else if chainBad ws then some 11 else none

/-- What the loader's extra field holds when no single word fails (R202). -/
def noWord : Nat := 2 ^ 64 - 1

/-- The first failure of an image: subcode and extra field (R201, R202). -/
def Load.check (l : Load) (s : State) (ws : List Nat) : Option (Nat × Nat) :=
  match l.pass1 s [] ws 0 with
  | some e => some e
  | none =>
    match pass2 ws l.n [] ws 0 with
    | some e => some e
    | none =>
      match pass3 ws [] ws 0 with
      | some e => some e
      | none => (pass4 ws).map (fun sub => (sub, noWord))

/-! ### Placing -/

/-- The endpoint of a field, placed from strip `first` on. -/
def placedEp (first f : Nat) : Ep :=
  { pos := mkPos (2 * first + epCol f) (epRow f)
    cls := match epClass f with | 0 => .pe | 1 => .elem | _ => .engine
    idx := epIdx f }

/-- The link of a word, as step 4 of R179 opens it. -/
def placedLink (cid first w : Nat) : Link :=
  let src := placedEp first (linkSrc w)
  let dst := placedEp first (linkDst w)
  { cid := cid, src := src, dst := dst, plane := linkPlane w, depth := linkDepth w, vc := bits w 51 49
    hops := hopCount src.pos dst.pos, credits := linkDepth w, returning := 0, last := none, heard := none, flight := [], pulses := 0, raw := 0
    masked := 0, repeats := 0 }

/-- The unit that an endpoint belongs to: a task by its slot, an element by its slot, an engine by its tile. -/
def epUnit (tasks : List Task) (e : Ep) : EpClass × Nat × Nat :=
  match e.cls with
  | .pe => (.pe, e.pos, match tasks.find? (fun t => t.pos = e.pos && (t.port? e.idx).isSome) with | some t => t.slot | none => 99)
  | .elem => (.elem, e.pos, e.idx / 8)
  | .engine => (.engine, e.pos, 0)

/-- The units that links lead to from a list of units. -/
def unitsAfter (tasks : List Task) (links : List Link) : Nat → List (EpClass × Nat × Nat) → List (EpClass × Nat × Nat)
  | 0, us => us
  | n + 1, us =>
    let more := (links.filter (fun l => us.contains (epUnit tasks l.src))).map (fun l => epUnit tasks l.dst)
    let us' := (us ++ more).eraseDups
    if us'.length = us.length then us else unitsAfter tasks links n us'

/-- A cycle input (R351): from the outputs of its unit a link path leads back to it. -/
def cycleInput (tasks : List Task) (links : List Link) (l : Link) : Bool :=
  (unitsAfter tasks links (links.length + 1) [epUnit tasks l.dst]).contains (epUnit tasks l.src) && l.plane ≠ .pulse

/-- A task slot as step 3 of R179 binds it. -/
def bindTask (s : State) (p : Paddock) (l : Load) (cid ident first : Nat) (ws : List Nat) (w : Nat) : Task :=
  let mine := taskWords ws w
  let pos := mkPos (2 * first + cwCol w) (cwRow w)
  let arg (i : Nat) : Word := BitVec.ofNat 64 ((argWord s l.pad l.ten l.args i).getD 0)
  let range := mine.find? (fun v => taskForm v = 2)
  let lohi : Word × Word := match range with
    | some v => if bits v 37 37 = 1 then (arg (bits v 36 29), arg (bits v 28 21)) else (0, BitVec.ofNat 64 (bits v 36 21))
    | none => (0, 0)
  let ports : Nat := match mine.find? (fun v => taskForm v = 3) with
    | some v => bits v 37 32 + bits v 31 26 * 2 ^ 8 + bits v 25 20 * 2 ^ 16 + bits v 19 14 * 2 ^ 24
    | none => 0
  let hops : Nat := match range with | some v => bits v 19 18 * 2 ^ 32 + bits v 20 20 * 2 ^ 34 | none => 0
  { pos := pos, slot := cwSlot w, cid := cid, st := .idle, g := Vector.replicate 64 0, v := Vector.replicate 32 0, pending := []
    cur := bits w 37 24, entry := bits w 37 24, prio := bits w 23 22, pass := 0, since := 0, readyAt := 0
    clu := BitVec.ofNat 64 (10 * (stripOf pos - p.first) + pairOf (rowOf pos)), part := BitVec.ofNat 64 p.id
    cfg := BitVec.ofNat 64 ident, ten := BitVec.ofNat 64 l.ten, lnk := 0, flg := 0, rm := 0, pts := 0, bound := s.ctl.now
    args := BitVec.ofNat 64 l.args, rnglo := lohi.1, rnghi := lohi.2, steal := BitVec.ofNat 64 (ports + hops)
    shp := Vector.replicate 8 0, fault := 0, scope := 0, perf := Vector.replicate 8 0, ports := mine.flatMap portsOf
    sport := if bits w 21 21 = 1 then some (bits w 20 15) else none, frame := none, queue := [], reds := [], lag := [], owed := [], joins := [], redPts := 0, fenced := 0
    steals := [], replies := [], served := 0, held := false, code := 0, saved := false }

/-- An element as step 3 of R179 writes it; root counters and stream-read elements have one pass to run (step 5). -/
def placeElem (s : State) (l : Load) (cid first w : Nat) (k : ElemKind) : Elem :=
  let arg (i : Nat) : Nat := (argWord s l.pad l.ten l.args i).getD 0
  let start : Bool := (k = .cnt && bits w 22 22 = 1) || (k = .mem && bits w 39 37 = 0)
  { cid := cid, pos := mkPos (2 * first + cwCol w) (cwRow w), slot := cwSlot w, kind := k, spec := w % 2 ^ 40
    passes := if start then 1 else 0, i := 0, j := 0, inner := false
    count := if k = .cnt then (if bits w 39 39 = 1 then arg (bits w 30 23) else bits w 38 23) else 0
    toks := [], lanes := [], pat := none, sel := none
    base := if k = .mem then arg (bits w 36 29) else 0, len := if k = .mem then arg (bits w 36 29 + 1) else 0
    own := k = .mem && bits w 20 20 = 1, buf := [], snap := [], out := [], saved := false, lost := false }

/-- Copies the blocks of the task of MAIN word `i` into the instruction store of its PE (R87, R179 step 3). A word whose translation fails
is left out, and the dispatch goes on; one that a hurdle drops is counted (R370). Log 56. -/
def copyText (l : Load) (s : State) (i pos : Nat) : State :=
  match l.text? s i with
  | none => s
  | some r =>
    (List.range r.words).foldl (fun s k =>
      match textWord s l.pad l.ten (r.va + 4 * k) with
      | some w => s.write (storeKey pos (r.first + k)) (toBytes 4 w)
      | none => s.countDrops l.pad (droppedReads s l.pad l.ten [r.va + 4 * k])) s

/-- Places a checked configuration (R179 steps 1 to 5): elements, tasks, text, links, matrix tiles, then the start tokens; its accesses follow
what its node follows (R252, R253). -/
def placeConf (s : State) (p : Paddock) (l : Load) (launch node cid ident first : Nat) (ws : List Nat) : State :=
  let mains := (ws.zipIdx).filter (fun w => isTask w.1 && taskForm w.1 = 0)
  let tasks := mains.map (fun w => bindTask s p l cid ident first ws w.1)
  let elems := ws.filterMap (fun w => (elemKind w).map (placeElem s l cid first w))
  let links := (linksOf ws).map (placedLink cid first)
  let linked := links.map (fun k =>
    ({ cid := cid, ep := k.dst, plane := k.plane, toks := [], came := [], pulses := 0, marker := false, markedAt := 0, cyc := cycleInput tasks links k
       chan := [] } : Input))
  let named (e : Ep) : Bool := links.any (fun k => k.dst = e || k.src = e)
  let loose := tasks.flatMap (fun t => (t.ports.filter (fun q => !named (portEp t.pos q.num))).map (fun q =>
    ({ cid := cid, ep := portEp t.pos q.num, plane := q.plane, toks := [], came := [], pulses := 0, marker := false, markedAt := 0, cyc := false, chan := [] }
      : Input)))
  let starts := tasks.filterMap (fun t => t.sport.map (portEp t.pos))
  let inputs := (linked ++ loose).map (fun i => if starts.contains i.ep then i.put s.ctl.now trigger false else i)
  let tiles := (((List.range (2 * l.n)).flatMap (fun c => [2, 7, 17, 22].map (fun r => mkPos (2 * first + c) r))).filter
    (fun pos => links.any (fun k => (k.src.pos = pos && k.src.cls = .engine) || (k.dst.pos = pos && k.dst.cls = .engine)))).map
    (fun pos => ({ pos := pos, cid := cid, pts := s.nodePts launch node, claimed := 0, seqn := 0, blocked := false, run := none, done := none, badRows := []
                   badCells := [], saved := false } : Tile))
  let conf : Conf := { cid := cid, ident := ident, pad := l.pad, ten := l.ten, strip0 := first, strips := l.n
                       words := ws.map (BitVec.ofNat 64), args := BitVec.ofNat 64 l.args, launch := launch, node := node, flags := 0
                       start := s.ctl.now, moved := s.ctl.now, drain := none, lag := [], pts := s.nodePts launch node }
  let stores (c : Host.Cell) : Bool := regionOf c.1 = 6 && within first l.n (offsetOf c.1 / 2 ^ 16)
  let s := releaseBanks s first l.n
  let s := { s with
    cores := { s.cores with tasks := s.cores.tasks ++ tasks, bars := s.cores.bars.filter (fun b => !within first l.n b.pos) }
    fab := { s.fab with confs := s.fab.confs ++ [conf], elems := s.fab.elems ++ elems, inputs := s.fab.inputs ++ inputs
                        links := s.fab.links ++ links }
    eng := { s.eng with tiles := s.eng.tiles ++ tiles }
    mem := { s.mem with bytes := s.mem.bytes.filter (fun c => !(tileCell first l.n c || stores c)) } }
  mains.foldl (fun s w => copyText l s w.2 (mkPos (2 * first + cwCol w.1) (cwRow w.1))) s

end Sys2Proof.Machine
end

