-- ==== Sys2Proof/Machine/Drover.lean ====
section
/-! DEFINITION. The Drover: validation of graphs (R68, R301, R303, R311, R393), launches by GLAUNCH and by the mailbox (R111, R302),
the ready pool (R304), dispatch and the end of nodes (R179, R305 to R307), and the completion and the watchdog of
configurations (R180, R182). -/

namespace Sys2Proof.Machine

/-! ### Records -/

def nodeKind (r : BitVec 512) : Nat := recField r 0 1
def nodePri (r : BitVec 512) : Nat := recField r 1 1
def nodeLast (r : BitVec 512) : Bool := recField r 2 1 / 128 = 1
/-- Successors of a record (R301). -/
def nodeSuccs (r : BitVec 512) : List Nat := (List.range (recField r 2 1 % 8)).map (fun i => recField r (4 + 2 * i) 2)
def nodeOps (r : BitVec 512) : List Nat := (List.range (recField r 3 1 % 8)).map (fun i => recField r (0x20 + 8 * i) 8)
/-- The address at KSPEC: image, program, near-memory record, value, barrier word. -/
def nodeWord (r : BitVec 512) : Nat := recField r 0x10 8
def nodeStrips (r : BitVec 512) : Nat := recField r 0x18 1
def nodeAgSel (r : BitVec 512) : Nat := recField r 0x18 2
def nodeBind (r : BitVec 512) : Nat := recField r 0x1A 2

/-- A 64-byte record in memory, where its line now lives (R367). -/
def readRecord (s : State) (pad ten va : Nat) : Option (BitVec 512) :=
  if 2 ^ 56 ≤ va then none
  else
    match pageProbe s pad ten (va / 2 ^ 16) true false with
    | some k => (followMoves s 8 (k.1 + va % 2 ^ 16)).map s.readVec
    | none => none

/-- The addresses that the Drover reads of a record array, up to LAST or the first that fails (R393 step 4). -/
def graphReads (s : State) (pad ten : Nat) : Nat → Nat → List Nat
  | 0, _ => []
  | n + 1, va =>
    va :: (match readRecord s pad ten va with
      | some r => if nodeLast r then [] else graphReads s pad ten n (va + 64)
      | none => [])

/-- The record array up to LAST: its records, or the code of R303 (R393 step 4). -/
def readGraph (s : State) (pad ten : Nat) : Nat → Nat → List (BitVec 512) → Except Int (List (BitVec 512))
  | 0, _, _ => .error (-1)
  | n + 1, va, acc =>
    match readRecord s pad ten va with
    | none => .error (-2)
    | some r => if nodeLast r then .ok (r :: acc).reverse else readGraph s pad ten n (va + 64) (r :: acc)

/-- KSPEC of a record in its kind (R301). -/
def kspecBad (rs : List (BitVec 512)) (r : BitVec 512) : Bool :=
  match nodeKind r with
  | 1 => nodeStrips r = 0 || 64 < nodeStrips r || recField r 0x19 7 ≠ 0
  | 2 =>
    bits (nodeAgSel r) 14 8 ≠ 0 || recField r 0x1C 4 ≠ 0 ||
    (nodeBind r ≠ 0xFFFF && (match rs[nodeBind r]? with | some k => nodeKind k ≠ 1 | none => true))
  | 3 => recField r 0x18 8 ≠ 0
  | 4 => recField r 0x1A 6 ≠ 0
  | _ => 1 < recField r 0x18 1 || recField r 0x19 7 ≠ 0 || (recField r 0x18 1 = 1 && nodeWord r / 2 ^ 23 ≠ 0)

/-- A KNODE whose image has regions in the argument block (R196, R303). -/
def needsArgs (s : State) (pad ten : Nat) (r : BitVec 512) : Bool :=
  nodeKind r = 1 && (match imageAt s pad ten (nodeWord r) with
    | .ok (some ws) => ws.any (fun w => cwKind w = 0x0A)
    | _ => false)

/-- The near-memory record of an NNODE, when it can be read. -/
def nearOf (s : State) (pad ten : Nat) (r : BitVec 512) : Option (BitVec 512) :=
  if nodeKind r = 3 then readRecord s pad ten (nodeWord r) else none

/-- FRAME of record `i` (R68, R301, R303, R393). -/
def recordFrameBad (s : State) (p : Paddock) (ten args : Nat) (rs : List (BitVec 512)) (i : Nat) (r : BitVec 512) : Bool :=
  let n := recField r 2 1 % 8
  let succs := nodeSuccs r
  let ops := recField r 3 1
  nodeKind r = 0 || 5 < nodeKind r || 3 < nodePri r || bits (recField r 2 1) 6 3 ≠ 0 || 6 < n || 4 < ops ||
  succs.any (fun k => k ≤ i || rs.length ≤ k) || succs.eraseDups.length ≠ succs.length ||
  (List.range (6 - n)).any (fun k => recField r (4 + 2 * (n + k)) 2 ≠ 0xFFFF) ||
  (nodeOps r).any (fun o => o % 8 ≠ 0 || bits o 31 16 = 0 || bits o 62 56 = 0) ||
  (List.range (4 - ops)).any (fun k => recField r (0x20 + 8 * (ops + k)) 8 ≠ 0) ||
  kspecBad rs r || (args = 0 && (ops ≠ 0 || needsArgs s p.id ten r)) ||
  (match nearOf s p.id ten r with | some nm => nmFrameBad p.count nm | none => false)

/-- ALIGN of a record. -/
def recordAlignBad (s : State) (pad ten : Nat) (r : BitVec 512) : Bool :=
  ((nodeKind r = 2 || nodeKind r = 3) && nodeWord r % 64 ≠ 0) ||
  (match nearOf s pad ten r with | some nm => nmAlignBad (nmRec nm) | none => false)

/-- The pages of a declared range. -/
def rangePages (o base : Nat) : List Nat :=
  ((List.range (bits o 31 16)).flatMap (fun i => pagesOf (base + i * (bits o 55 32 * 64)) (bits o 62 56 * 64))).eraseDups

/-- The translations of a record: those of its declared ranges and near-memory record, with its bases; none when one fails
(R303, R311). Each translation: page, key, attributes. -/
def recordXlat (s : State) (p : Paddock) (ten args : Nat) (r : BitVec 512) : Option (List Word × List (Nat × Nat × Nat)) :=
  let bases := (nodeOps r).map (fun o => argWord s p.id ten args (o % 2 ^ 16 / 8))
  let unit_ : Bool := match nodeKind r with
    | 1 => (match imageAt s p.id ten (nodeWord r) with | .ok _ => true | .error _ => false)
    | 2 => (droverRead s p.id ten (nodeWord r)).isSome
    | 3 => (nearOf s p.id ten r).isSome
    | _ => true
  if !unit_ || bases.any (·.isNone) then none
  else
    let bs := bases.filterMap id
    let own := ((nodeOps r).zip bs).flatMap (fun o => (rangePages o.1 o.2).map (fun g =>
      (pageProbe s p.id ten g (bits o.1 63 63 = 0) (bits o.1 63 63 = 1)).map (fun k => (g, k.1, k.2))))
    if own.any (·.isNone) then none
    else
      match nearOf s p.id ten r with
      | none => some (bs.map (BitVec.ofNat 64), own.filterMap id)
      | some nm => (nmPages s p.id ten (nmRec nm)).map (fun ts => (bs.map (BitVec.ofNat 64), own.filterMap id ++ ts))

/-- The edge tile that AGSEL selects in a paddock (R301); none outside it. A bound KNODE gives the first strip and count. -/
def agTile (s : State) (pad ten : Nat) (first count : Nat) (r : BitVec 512) : Option Nat :=
  let sel := nodeAgSel r
  if bits sel 15 15 = 1 then
    match pageProbe s pad ten (nodeWord r / 2 ^ 16) true false with
    | some (k, _) => homeOf k
    | none => none
  else if bits sel 7 2 < count then some (edgePos (first + bits sel 7 2) (bits sel 1 0)) else none

/-- FIT of a record (R158, R227, R303, R311). -/
def recordFitBad (s : State) (p : Paddock) (ten : Nat) (rs : List (BitVec 512)) (r : BitVec 512)
    (ts : List (Nat × Nat × Nat)) : Bool :=
  match nodeKind r with
  | 1 => p.count < nodeStrips r
  | 2 =>
    let count := match rs[nodeBind r]? with | some k => nodeStrips k | none => p.count
    (match agTile s p.id ten p.first count r with | some t => !within p.first p.count t | none => true)
  | 3 =>
    ts.any (fun t => bits t.2.2 1 1 = 1) ||
    (match nearOf s p.id ten r with | some nm => nmFitBad p (nmRec nm) ts | none => false)
  | _ => false

/-- The checks of one record, in the order of R393: its code, or its node. -/
def checkRecord (s : State) (p : Paddock) (ten args : Nat) (rs : List (BitVec 512)) (i : Nat) (r : BitVec 512) :
    Except Int Node :=
  if recordFrameBad s p ten args rs i r then .error (-1)
  else if recordAlignBad s p.id ten r then .error (-5)
  else
    match recordXlat s p ten args r with
    | none => .error (-2)
    | some (bases, ts) =>
      if recordFitBad s p ten rs r ts then .error (-4)
      else
        let preds := (rs.filter (fun q => (nodeSuccs q).contains i)).length
        .ok { record := r, near := (nearOf s p.id ten r).getD 0, bases := bases, pages := ts.map (fun t => (t.1, t.2.1))
              preds := preds, st := if preds = 0 then .pool else .waiting, entered := s.ctl.now, raises := 0, order := 0
              paused := 0, lag := [], pts := 0 }

/-- The records of a graph in array order, up to the first failure. -/
def checkRecords (s : State) (p : Paddock) (ten args : Nat) (rs : List (BitVec 512)) :
    Nat → List (BitVec 512) → List Node → Except Int (List Node)
  | _, [], acc => .ok acc.reverse
  | i, r :: rest, acc =>
    match checkRecord s p ten args rs i r with
    | .error e => .error e
    | .ok n => checkRecords s p ten args rs (i + 1) rest (n :: acc)

/-- What the Drover reads for a record (R303): the words of the argument block, the image where it fails, the program, the near-memory
record. -/
def recordReads (s : State) (p ten args : Nat) (r : BitVec 512) : List Nat :=
  (nodeOps r).map (fun o => args + 8 * (o % 2 ^ 16 / 8)) ++
  (match nodeKind r with
  | 1 => (match imageAt s p ten (nodeWord r) with | .error va => [va] | .ok _ => [])
  | 2 | 3 => [nodeWord r]
  | _ => [])

/-- The reads of a launch whose validation fails with XLATE that a hurdle has dropped (R303, R370). -/
def launchDrops (s : State) (pad ten : Nat) (graph args : Word) : Nat :=
  if args ≠ 0 && (droverRead s pad ten args.toNat).isNone then droppedReads s pad ten [args.toNat]
  else
    match readGraph s pad ten 4096 graph.toNat [] with
    | .error _ => droppedReads s pad ten (graphReads s pad ten 4096 graph.toNat)
    | .ok rs => ((rs.map (recordReads s pad ten args.toNat)).map (droppedReads s pad ten)).find? (fun n => 0 < n) |>.getD 0

/-- VALIDATION of a launch (R303, R393): the nodes of an accepted graph, or the code. -/
def validate (s : State) (pad ten : Nat) (graph args : Word) : Except Int (List Node) :=
  match s.pad? pad with
  | none => .error (-2)
  | some p =>
    if 256 ≤ (s.drv.launches.filter (fun l => l.pad = pad)).length then .error (-3)
    else if graph.toNat % 64 ≠ 0 || args.toNat % 64 ≠ 0 then .error (-5)
    else if args ≠ 0 && (droverRead s pad ten args.toNat).isNone then .error (-2)
    else
      match readGraph s pad ten 4096 graph.toNat [] with
      | .error e => .error e
      | .ok rs => checkRecords s p ten args.toNat rs 0 rs []

/-- Launches a graph (R302 to R304, R378): the code, and the state with the launch when it is accepted, whose nodes follow a place in T
(R252). -/
def launch (s : State) (pad ten : Nat) (graph args : Word) (tag : Nat) (ctx : Ctx) (pts : Nat) : State × Int :=
  let v := s.tenant pad ten
  if v.tdi = .stopping ∨ v.tdi = .stopped ∨ v.tdi = .error then (s, -6) else
  match validate s pad ten graph args with
  | .error e => (if e = -2 then s.countDrops pad (launchDrops s pad ten graph args) else s, e)
  | .ok nodes =>
    let (id, s) := s.newId
    let l : Launch := { id := id, pad := pad, ten := ten, graph := graph, args := args, tag := tag, ctx := ctx
                        nodes := nodes.map (fun n => { n with order := id, pts := pts }), failure := none }
    ({ s with drv := { s.drv with launches := s.drv.launches ++ [l] } }, 0)

/-- It is a posted write of a function (R251). -/
def Outside.postedBy (x : Outside) (p t : Nat) : Bool :=
  match x.src, x.op with
  | .host p' t' _, .write _ => p' = p && t' = t
  | _, _ => false

/-- A posted write of a function is not yet performed at paddock scope (R251). -/
def mailboxWaits (s : State) (p t : Nat) : Bool :=
  s.ten.posted.any (fun x => x.1 = p && x.2.1 = t && leaseLive s x.2.2.line x.2.2.at_) || s.mem.outside.any (fun x => x.postedBy p t)

/-- A launch of a mailbox is validated: LSTAT takes the tag and the code (R302). -/
def mailboxLaunch (s : State) (p t : Nat) (g : Word × Word × BitVec 32) : State :=
  let r := launch s p t g.1 g.2.1 g.2.2.toNat (.host p t) 0
  r.1.mapTenant p t (fun v => { v with lstat := g.2.2 ++ BitVec.ofInt 32 r.2 })

/-- A GLAUNCH has been validated in this cycle: a mailbox launch of the cycle would have come before it (R302). -/
def glaunched (s : State) : Bool := s.drv.launchedAt = some s.ctl.now

/-- The oldest launch of a mailbox reaches the Drover once the function's earlier posted writes are performed (R251), in a cycle in which
no GLAUNCH has reached it before (R302). -/
def mailboxStep (s : State) (p t : Nat) : State :=
  match (s.tenant p t).goes with
  | [] => s
  | g :: rest => if mailboxWaits s p t || glaunched s then s else mailboxLaunch (s.mapTenant p t (fun v => { v with goes := rest })) p t g

/-- The launches of mailboxes that have arrived are taken before a GLAUNCH of the same cycle (R302). -/
def takeMailboxes (s : State) : State :=
  (s.ten.paddocks.flatMap (fun p => (List.range 4).flatMap (fun t => (p.tenant t).goes.map (fun _ => (p.id, t))))).foldl
    (fun s x => mailboxStep s x.1 x.2) s

/-- GLAUNCH (R111, R252): after the earlier memory operations the launch is validated, and its nodes' accesses follow those operations in T;
the trigger is 0 or a negative code. -/
def execGlaunch (t u : BitVec 9) (s : State) : Out :=
  let i := Instr.glaunch t u
  fireWaiting i s (fun _ _ _ _ _ => none) (fun s _ _ => .order s.ctl.ids) (fun s t f idx x k _ =>
    match k with
    | .order upto =>
      if !performedUpto s t upto then none
      else
        let s := takeMailboxes s
        let r := launch { s with drv := { s.drv with launchedAt := some s.ctl.now } } t.part.toNat t.ten.toNat x.wa x.wb 0 t.ctx (s.basePts t)
        some (r.1, t, f.putAll idx (scalar (BitVec.ofInt 64 r.2)) i.targets)
    | _ => none)

/-- A write to LGO (R302): LSTAT takes the tag and the code. Ignored before READY (R381) and for a function without a
tenant. LGRAPH and LARGS are taken as they stand (R88); the launch acts once the function's earlier posted writes are performed
(R251). -/
def execLgo (p t : Nat) (tag : BitVec 32) (s : State) : Out :=
  let v := s.tenant p t
  if !s.hub.ready || !v.enabled then .next s
  else if v.goes.isEmpty && !mailboxWaits s p t && !glaunched s then .next (mailboxLaunch s p t (v.lgraph, v.largs, tag))
  else .next (s.mapTenant p t (fun v => { v with goes := v.goes ++ [(v.lgraph, v.largs, tag)] }))

/-! ### The ready pool -/

/-- The effective priority of a node at a cycle (R304, R358): raised by one for every 1,900,000 cycles in the pool, its tenant active. -/
def Node.prio (now : Nat) (n : Node) : Nat := min 3 (nodePri n.record + max n.raises ((now - n.entered - n.paused) / 1900000))

/-- A node at its place in a launch list. -/
def State.nodeAt (s : State) (l n : Nat) : Option (Launch × Node) :=
  match s.drv.launches[l]? with
  | none => none
  | some la => match la.nodes[n]? with
    | some nd => some (la, nd)
    | none => none

/-- Node `a` comes before node `b` in pool order. -/
def Node.before (now : Nat) (a b : Node × Nat) : Bool :=
  if a.1.prio now ≠ b.1.prio now then b.1.prio now < a.1.prio now
  else if a.1.entered ≠ b.1.entered then a.1.entered < b.1.entered
  else if a.1.order ≠ b.1.order then a.1.order < b.1.order else a.2 < b.2

/-- A tenant slot whose work is dispatched: the active one of a shared paddock (R358). -/
def tenantActive (p : Paddock) (ten : Nat) : Bool :=
  (p.active = ten && !p.leaving) || !p.shared

/-- The pool of a paddock: the nodes that stand in it and whose tenant is active. -/
def poolOf (s : State) (pad : Nat) : List (Launch × Node × Nat) :=
  match s.pad? pad with
  | none => []
  | some p => (s.drv.launches.filter (fun l => l.pad = pad && tenantActive p l.ten)).flatMap (fun l =>
      (l.nodes.zipIdx).filterMap (fun n => if n.1.st = .pool then some (l, n.1, n.2) else none))

/-- No link of an image placed from a strip on takes a hop that has failed (R349). -/
def hopsOk (s : State) (first : Nat) (ws : List Nat) : Bool :=
  (linksOf ws).all (fun w =>
    (routeHops (placedEp first (linkSrc w)).pos (placedEp first (linkDst w)).pos).all (fun h => !s.fab.badHops.contains h))

/-- The active tenant of a paddock still has checkpoints to be restored before its pool is dispatched (R358). -/
def restoringNow (s : State) (p : Paddock) : Bool :=
  p.restoring && s.drv.ckpts.any (fun k => k.ready && k.conf.pad = p.id && k.conf.ten = p.active &&
    hopsOk s k.conf.strip0 (k.conf.words.map (·.toNat)))

/-- A node of the pool that no other of its kind comes before (R304). -/
def headOfKind (s : State) (l : Launch) (nd : Node) (n kind : Nat) : Bool :=
  nodeKind nd.record = kind && nd.st = .pool &&
  (match s.pad? l.pad with | some p => tenantActive p l.ten && !p.ended && !restoringNow s p | none => false) &&
  (poolOf s l.pad).all (fun x => nodeKind x.2.1.record ≠ kind || (x.1.id = l.id && x.2.2 = n) || !Node.before s.ctl.now (x.2.1, x.2.2) (nd, n))

/-- Sets where a node stands. -/
def setNode (s : State) (launch n : Nat) (st : NodeSt) : State :=
  s.mapLaunch launch (fun l => l.mapNode n (fun x => { x with st := st }))

/-! ### KNODE -/

/-- A strip of a paddock that no configuration holds, on a die that runs (R387). -/
def freeStrip (s : State) (k : Nat) : Bool :=
  s.fab.confs.all (fun c => !(c.strip0 ≤ k && k < c.strip0 + c.strips)) && !s.hub.dead.contains (dieOfStrip k)

/-- The lowest free run of strips (R158). -/
def freeRun (s : State) (p : Paddock) (n : Nat) (ws : List Nat) : Option Nat :=
  ((List.range p.count).map (fun i => p.first + i)).find? (fun a =>
    a + n ≤ p.first + p.count && (List.range n).all (fun i => freeStrip s (a + i)) && hopsOk s a ws)

/-- An identifier that no live configuration of the paddock holds (R179 step 1). Log 9. -/
def freeIdent (s : State) (pad : Nat) : Nat × State :=
  let (k, s) := s.draw
  let held := (s.fab.confs.filter (fun c => c.pad = pad)).map (·.ident) ++
    (s.drv.ckpts.filter (fun c => c.conf.pad = pad)).map (·.conf.ident)
  let start := Config.cfgIdent k
  ((((List.range (held.length + 1)).map (fun i => (start + i) % 65535)).find? (fun i => !held.contains i)).getD 0, s)

/-- The effective priority of a checkpoint in the pool, raised as a node's is from when it entered (R304, R357, R358). -/
def Ckpt.prio (s : State) (k : Ckpt) : Nat :=
  let base := match s.launch? k.conf.launch with | some l => (match l.nodes[k.conf.node]? with | some n => nodePri n.record | none => 0) | none => 0
  min 3 (base + (s.ctl.now - k.entered - k.paused) / 1900000)

/-- A checkpoint that waits for its strips comes before a node of equal effective priority (R357). -/
def ckptFirst (s : State) (pad prio : Nat) : Bool :=
  s.drv.ckpts.any (fun k => k.ready && k.conf.pad = pad &&
    (match s.pad? pad with | some p => tenantActive p k.conf.ten | none => false) &&
    prio ≤ k.prio s)

/-- A loader rejection or a failed read fails a node (R179, R202, R305). -/
def failNode (s : State) (l : Launch) (n code sub extra : Nat) : State :=
  let (s, a) := writeRecord s l.pad l.ten { code := code, sub := sub, extra := BitVec.ofNat 64 extra, graph := l.graph, node := n }
  nodeFail s l.id n code a

/-- A node's accesses follow those of its predecessors (R253): no copy older than a line's last write stays in the crossing cache, and its
clusters hold none. -/
def freshView (s : State) : State :=
  { s with mem := { s.mem with copies := s.mem.copies.filter (fun c => c.cluster ≠ crossing || c.wts = (s.line c.line).wts) } }

/-- KNODE_DISPATCH (R158, R179): the first KNODE of the pool is placed when a free run of strips is there. A page of its image
that is absent is requested (R303); a read that a hurdle drops is counted and the node waits for good (R370). All lines of the image are read
at the one moment of the dispatch (R88). Log 56. -/
def execKnodeDispatch (l n : Nat) (s : State) : Out :=
  match s.nodeAt l n with
  | none => .next s
  | some (la, nd) =>
    if !headOfKind s la nd n 1 || ckptFirst s la.pad (nd.prio s.ctl.now) then .next s
    else
      match s.pad? la.pad with
      | none => .next s
      | some p =>
        match imageAt s la.pad la.ten (nodeWord nd.record) with
        | .error va =>
          (match translate s la.pad la.ten none none va true false with
          | (s, .miss host) => .next (pageMissNode s la.pad la.ten la.id n va false host)
          | (s, .fault c sub _) => .next (failNode s la n c sub 0)
          | (s, .dropped) => .next (setNode (s.countDrops la.pad 1) la.id n .running)
          | (s, .ok _ _) => .next (if va < 2 ^ 56 then failNode s la n 0x15 4 0 else failNode s la n 0x12 1 0))
        | .ok none => .next (failNode s la n 0x28 1 noWord)
        | .ok (some ws) =>
          let load : Load := { pad := la.pad, ten := la.ten, n := nodeStrips nd.record, args := la.args.toNat, cfg := nodeWord nd.record }
          match freeRun s p load.n ws with
          | none => .next s
          | some first =>
            match load.check s ws with
            | some (sub, extra) =>
              let lost := match ws[extra]? with | some w => droppedReads s la.pad la.ten (load.wordReads s extra w) | none => 0
              .next (failNode (s.countDrops la.pad lost) la n 0x28 sub extra)
            | none =>
              let (ident, s) := freeIdent s la.pad
              let (cid, s) := s.newId
              .next (setNode (placeConf (freshView s) p load la.id n cid ident first ws) la.id n .running)

/-! ### CNODE, NNODE, HNODE, ENODE -/

/-- CNODE_DISPATCH (R298, R301, R304): a program starts in a free place of the selected AG; a bound one only while its KNODE
runs. -/
def execCnodeDispatch (l n : Nat) (s : State) : Out :=
  match s.nodeAt l n with
  | none => .next s
  | some (la, nd) =>
    if !headOfKind s la nd n 2 then .next s
    else
      match s.pad? la.pad with
      | none => .next s
      | some p =>
        let b := nodeBind nd.record
        let conf := s.fab.confs.find? (fun c => c.launch = la.id && c.node = b)
        if b ≠ 0xFFFF && conf.isNone then .next s
        else
          let span := match conf with | some c => if b = 0xFFFF then (p.first, p.count) else (c.strip0, c.strips) | none => (p.first, p.count)
          match agTile s la.pad la.ten span.1 span.2 nd.record with
          | none => .next s
          | some pos =>
            let used := (s.eng.progs.filter (fun g => g.pos = pos)).map (·.place)
            if s.hub.dead.contains (dieOf pos) then .next s else
            match (List.range 8).find? (fun k => !used.contains k) with
            | none => .next s
            | some place =>
              let (id, s) := s.newId
              let g : AgProg := { id := id, pos := pos, place := place, launch := la.id, node := n, pad := la.pad, ten := la.ten
                                  bind := if b = 0xFFFF then none else conf.map (·.cid), start := BitVec.ofNat 64 (nodeWord nd.record), pc := BitVec.ofNat 64 (nodeWord nd.record)
                                  word := none, ops := none, loops := Vector.replicate 4 none, adv := [], tile := 0, left := []
                                  pulses := 0, lag := [], pts := nd.pts, stopped := false }
              .next (setNode { s with eng := { s.eng with progs := s.eng.progs ++ [g] } } la.id n .running)

/-- The partial RED lines of a list of lines are folded (R241, R306 step 1). -/
def foldLines (s : State) (ls : List Nat) : State :=
  ((s.mem.partials.map (·.line)).filter (fun l => ls.contains l)).eraseDups.foldl foldLine s

/-- NNODE_DISPATCH (R304, R306 steps 1 to 3, R313, R321): the read ranges are folded and written back, the result rows set empty and
their lines dropped at the home, the accumulators cleared; the unit loads its registers next. -/
def execNnodeDispatch (l n : Nat) (s : State) : Out :=
  match s.nodeAt l n with
  | none => .next s
  | some (la, nd) =>
    match s.pad? la.pad with
    | none => .next s
    | some p =>
      let m := nmRec nd.near
      let pch := 16 * p.first + m.pch
      let busy := s.eng.units.any (fun u => u.pch = pch) || channelDown s (offsetOf ((nd.key m.wpage).getD 0))
      if !headOfKind s la nd n 3 || busy then .next s
      else
        let pageKey (va : Nat) : Nat := ((nd.key va).getD 0) / 2 ^ 16 * 2 ^ 16
        let kept := s.rowRegs pch
        let u : RowUnit := { pch := pch, launch := la.id, node := n, record := nd.near, pad := la.pad, ten := la.ten
                             wpage := pageKey m.wpage, spage := if m.op = 4 then pageKey m.vaddr else 0
                             rbase := if m.op = 1 then (nd.key m.rbase).getD 0 else 0, regs := kept.regs, loaded := !m.laneOp
                             acc := List.replicate 16 (List.replicate 64 0), buffer := kept.buffer, step := 0, fresh := true
                             suspended := false, serving := [], cancelled := false, pts := nd.pts, power := .up }
        let s := (nd.lines false).foldl cleanL2 (foldLines s (nd.lines false))
        let dirty := (m.touches.filter (fun t => t.2.2)).map (fun t => t.1 * 2 ^ 16)
        let s := dirty.foldl (fun s va => (translate s la.pad la.ten none none va false true).1) s
        let s := (u.resultRows.flatMap (fun row => (List.range 16).map (fun i => lineOf (regionKey 0 (row * 1024)) + i))).foldl evictL2 s
        let s := { s with
          mem := { s.mem with empties := s.mem.empties ++ u.resultRows.map (fun row => { unit_ := pch, row := row, full := false }) }
          eng := { s.eng with units := s.eng.units ++ [u], rowRegs := s.eng.rowRegs.filter (fun r => r.pch ≠ pch) } }
        .next (setNode s la.id n .running)

/-- HNODE_NOTIFY (R262, R305, R307): after the system-scope fence for its predecessors' stores, with room in the queue its entry is written and the vector signalled; with the queue
disabled it is done without either. -/
def execHnodeNotify (l n : Nat) (s : State) : Out :=
  match s.nodeAt l n with
  | none => .next s
  | some (la, nd) =>
    let t := s.tenant la.pad la.ten
    if !headOfKind s la nd n 4 || !s.mem.hostOld.isEmpty || t.notifyFull || (t.nqsize ≠ 0 && s.drv.notes.any (fun k => k.pad = la.pad && k.ten = la.ten)) then .next s
    else
      let vec := recField nd.record 0x18 2
      let s := writeNote s { pad := la.pad, ten := la.ten, graph := la.graph, value := BitVec.ofNat 64 (nodeWord nd.record), node := n
                             status := 0, tag := la.tag }
      let s := if vec ≠ 0xFFFF ∧ t.nqsize ≠ 0 then s.say (.vector la.pad la.ten vec) else s
      .next (finishNode s la.id n)

/-- ENODE (R305): a join ends at once, a release arrival is applied or dropped at its barrier first (R209), after the local events of its
cycle (R205), and releases what the node follows (R253). -/
def execEnode (l n : Nat) (s : State) : Out :=
  match s.nodeAt l n with
  | none => .next s
  | some (la, nd) =>
    if !headOfKind s la nd n 5 then .next s
    else if recField nd.record 0x18 1 = 0 then .next (finishNode s la.id n)
    else
      let w := nodeWord nd.record
      let pos := w % 2 ^ 16
      if !padPe s la.pad pos then .next (failNode s la n 0x12 9 0)
      else
        let n' := bits w 22 16
        if localBarFirst s pos n' then .next s else
        let bound := s.fab.confs.any (fun c => within c.strip0 c.strips pos)
        let held := !bound && s.drv.ckpts.any (fun k => within k.conf.strip0 k.conf.strips pos && k.hasBar pos n')
        let s := if bound && (s.bar pos n').rem then remoteArrive s pos n' nd.pts
          else if held then savedArrive s pos n' nd.pts
          else
            let k := match s.cores.dropped.find? (fun d => d.1 = pos) with | some d => d.2 | none => 0
            let s := { s with cores := { s.cores with dropped := upsert (fun d => d.1 = pos) (pos, k + 1) s.cores.dropped } }
            (writeRecord s la.pad la.ten { code := 0x12, sub := 12, noted := true, addr := BitVec.ofNat 64 w, graph := la.graph
                                           node := n }).1
        .next (finishNode s la.id n)

/-- A finished node, its writes performed (R253), releases each successor once, which follows its accesses in T (R253); those without further
predecessors enter the pool (R304, R305). A launch with nothing left ends. -/
def execNodeDone (l n : Nat) (s : State) : Out :=
  match s.nodeAt l n with
  | none => .next s
  | some (la, nd) =>
    if nd.st ≠ .finished || lagging s nd.lag then .next s
    else
      let (ord, s) := s.newId
      let succs := nodeSuccs nd.record
      let s := s.mapLaunch la.id (fun la => { la with nodes := (la.nodes.zipIdx).map (fun x =>
        if x.2 = n then { x.1 with st := .done }
        else if succs.contains x.2 then
          let k := x.1.preds - 1
          let y := { x.1 with preds := k, pts := max x.1.pts nd.pts }
          if k = 0 ∧ x.1.st = .waiting then { y with st := .pool, entered := s.ctl.now, order := ord } else y
        else x.1) })
      .next (sweepLaunches s)

/-- The Drover notes that a node's effective priority has risen by one, after each 1,900,000 cycles in the pool while its tenant is
active (R304, R358); the priority itself follows the cycle count (`Node.prio`). -/
def execNodeAgeing (l n : Nat) (s : State) : Out :=
  match s.nodeAt l n with
  | none => .next s
  | some (la, nd) =>
    let active := match s.pad? la.pad with | some p => tenantActive p la.ten | none => false
    if active && nd.st = .pool && nodePri nd.record + nd.raises < 3 && nd.entered + nd.paused + 1900000 * (nd.raises + 1) ≤ s.ctl.now then
      .next (s.mapLaunch la.id (fun la => la.mapNode n (fun x => { x with raises := x.raises + 1 })))
    else .next s

/-! ### The end of a configuration -/

/-- Every write of the configuration is performed at paddock scope (R180). -/
def writesPerformed (s : State) (c : Conf) : Bool :=
  !lagging s c.lag &&
  s.cores.tasks.all (fun t => t.cid ≠ c.cid || (t.queue.isEmpty && t.reds.isEmpty && !lagging s t.lag))

/-- Empties every coalescing buffer of a configuration (R230). -/
def flushConf (s : State) (c : Conf) : State :=
  (s.fab.elems.filter (fun e => e.cid = c.cid && !e.buf.isEmpty)).foldl (fun s e =>
    let r := e.flushAll s 8
    if (r.1.elem? e.pos e.slot .mem).isSome then r.1.setElem r.2 else r.1) s

/-- The latest place in T of the accesses of a configuration's tasks and tiles (R253). -/
def State.confReach (s : State) (c : Conf) : Nat :=
  ((s.cores.tasks.filter (fun t => t.cid = c.cid)).map s.basePts ++ (s.eng.tiles.filter (fun t => t.cid = c.cid)).map (·.pts)).foldl max c.pts

/-- CONFIG_COMPLETE (R180, R183, R186, R230): at rest the buffers are emptied; with every write performed the configuration ends
and its KNODE is done, whose successors follow its accesses (R253). -/
def execConfigComplete (c : Nat) (s : State) : Out :=
  match s.fab.confs[c]? with
  | none => .next s
  | some x =>
    if !atRest s x then .next s
    else if s.fab.elems.any (fun e => e.cid = x.cid && !e.buf.isEmpty) then .next (flushConf s x)
    else if !writesPerformed s x then .next s
    else
      let s := confFlags (s.confDid x.cid (s.confReach x)) x
      .next (finishNode (unplace s x) x.launch x.node)

/-- Something of a configuration waits on a page request (R182, R342). -/
def waitsOnPage (s : State) (c : Conf) : Bool :=
  s.mem.pages.any (fun q => q.hasConf c.cid ||
    s.eng.progs.any (fun g => g.bind = some c.cid && q.hasNode g.launch g.node)) ||
  s.cores.tasks.any (fun t => t.cid = c.cid && (match t.frame with
    | some f => f.chain.any (fun o => match o.st with | .withheld _ _ _ => true | _ => false)
    | none => false))

/-- Nothing of a configuration has moved for 2^24 cycles; a held task stops the watch (R182, R346). -/
def confDue (s : State) (c : Conf) : Bool :=
  c.moved + 2 ^ 24 ≤ s.ctl.now && s.cores.tasks.all (fun t => !(t.cid = c.cid && t.st = .faulted)) && !waitsOnPage s c &&
  !(atRest s c && writesPerformed s c)

/-- CONFIG_WATCHDOG (R182, R346). -/
def execConfigWatchdog (c : Nat) (s : State) : Out :=
  match s.fab.confs[c]? with
  | none => .next s
  | some x => if confDue s x then .next (confFault s x.cid { code := 0x38, sub := 1 }) else .next s

end Sys2Proof.Machine
end

