-- ==== Sys2Proof/Machine/Preempt.lean ====
section
/-! DEFINITION. Page responses and their limit (R340 to R343), draining to a checkpoint (R350 to R355), restoring (R357),
tenant slices (R358), TLB invalidation (R337) and the host's answer to a held fault (R345, R346). -/

namespace Sys2Proof.Machine

/-! ### Parts of a configuration -/

/-- The parts that a drain saves one by one (R351 to R353): tasks, elements, matrix tiles, the engine ports of edge tiles. -/
inductive SavePart where
  | task (pos slot : Nat)
  | elem (pos slot : Nat)
  | tile (pos : Nat)
  | edge (pos : Nat)
  deriving DecidableEq, Repr

/-- The edge tiles on which a configuration has engine ports or programs. -/
def confEdges (s : State) (cid : Nat) : List Nat :=
  let ls := (s.fab.links.filter (fun l => l.cid = cid)).flatMap (fun l => [l.src, l.dst])
  (((ls.filter (fun e => e.cls = .engine && isEdge e.pos)).map (·.pos)) ++
    (s.eng.progs.filter (fun g => g.bind = some cid)).map (·.pos)).eraseDups

def confParts (s : State) (cid : Nat) : List SavePart :=
  ((s.cores.tasks.filter (fun t => t.cid = cid)).map (fun t => .task t.pos t.slot)) ++
  ((s.fab.elems.filter (fun e => e.cid = cid)).map (fun e => .elem e.pos e.slot)) ++
  ((s.eng.tiles.filter (fun t => t.cid = cid)).map (fun t => .tile t.pos)) ++
  (confEdges s cid).map .edge

/-- An endpoint belongs to a part. -/
def SavePart.owns (s : State) (p : SavePart) (e : Ep) : Bool :=
  match p with
  | .task pos slot => e.cls = .pe && e.pos = pos && (match s.task? pos slot with | some t => (t.port? e.idx).isSome | none => false)
  | .elem pos slot => e.cls = .elem && e.pos = pos && e.idx / 8 = slot
  | .tile pos => e.cls = .engine && e.pos = pos
  | .edge pos => e.cls = .engine && e.pos = pos

/-- The part has saved its state. -/
def SavePart.saved (s : State) (c : Conf) (p : SavePart) : Bool :=
  match p with
  | .task pos slot => (match s.task? pos slot with | some t => t.saved | none => true)
  | .elem pos slot => s.fab.elems.all (fun e => !(e.pos = pos && e.slot = slot) || e.saved)
  | .tile pos => (match s.tile? pos with | some t => t.saved | none => true)
  | .edge pos => c.drain.any (fun d => d.edges.contains pos)

/-- A linked input that takes markers (R351). -/
def takesMarker (s : State) (i : Input) : Bool := i.plane ≠ .pulse && s.fab.links.any (fun l => l.dst = i.ep)

/-- Markers have reached every input of the part that is not a cycle input; unconnected inputs count as marked (R351). -/
def SavePart.marked (s : State) (c : Conf) (p : SavePart) : Bool :=
  s.fab.inputs.all (fun i => i.cid ≠ c.cid || !p.owns s i.ep || !takesMarker s i || i.cyc || i.marker)

/-- A source (R350): a root counter, a stream-read element. -/
def Elem.isSource (e : Elem) : Bool :=
  (e.kind = .cnt && e.root) || (e.kind = .mem && bits e.spec 39 38 = 0 && bits e.spec 37 37 = 0)

/-! ### Saving -/

/-- A fired instruction can only wait on (R352). -/
def waitStuck (s : State) (t : Task) (f : Frame) (w : Wait) : Bool :=
  match w.kind with
  | .port n => (match s.input? (portEp t.pos n) with | some i => (i.toks.isEmpty && i.pulses = 0) || i.shut f.id | none => true)
  | .phase b p => (s.bar t.pos b).phase = p
  | .steal true => (match s.input? (portEp t.pos t.srpy) with | some i => i.toks.isEmpty | none => true)
  | .steal false => f.waits.any (fun x => x.kind = .steal true) || t.steals.any (·.own) ||
    (t.stealing && !(s.outLinks (portEp t.pos t.sreq)).all (linkOpen s))
  | .order _ => f.chain.any (fun o => match o.st with | .withheld _ _ _ => true | _ => false)
  | .slot key _ => (match s.ring? key with | some r => r.w ≤ r.c | none => false)
  | _ => false

/-- A copy of a task that has not begun (R353). -/
def copyWaits (s : State) (t : Task) (g : Nat) : Bool :=
  s.eng.copies.any (fun c => c.cid = t.cid && c.pos = t.pos && c.slot = t.slot && c.g = g && c.ringSlot.isNone && c.moved = 0)

/-- A block that a drain leaves quiescent (R352): nothing of it can go on, withheld accesses and GETs that wait for a copy not
yet begun apart. -/
def frameStuck (s : State) (t : Task) (f : Frame) : Bool :=
  (List.range f.n).all (fun k => !readyAt s t f k) && (!s.heldGet t f || f.gpend.all (copyWaits s t)) && f.sends.isEmpty && f.flying.isEmpty && f.raised.isNone &&
  f.nextOp.isNone && t.queue.all (fun r => r.fid ≠ f.id) && t.reds.all (fun r => r.fid ≠ f.id) && f.waits.all (waitStuck s t f) &&
  !(f.exit.isSome && ((f.outs = f.w && f.slotsResolved) || quiescent s t f))

/-- Sends a marker on every output of a part (R351): it takes no credit and ends the link's repeat state. -/
def sendMarkers (s : State) (c : Conf) (p : SavePart) : State :=
  { s with fab := { s.fab with links := s.fab.links.map (fun l =>
      if l.cid = c.cid ∧ p.owns s l.src ∧ l.plane ≠ .pulse then l.mark else l) } }

/-- Saves a part when it may be saved, and sends its markers (R351 to R353): a matrix tile once they have reached all its linked inputs. A coalescing buffer empties first, but for lines
that wait on a page request, which are saved as withheld accesses. -/
def trySave (s : State) (cid : Nat) (p : SavePart) : State :=
  match s.conf? cid with
  | none => s
  | some c =>
    if c.drain.isNone || p.saved s c then s
    else
      match p with
      | .task pos slot =>
        match s.task? pos slot with
        | none => s
        | some t =>
          let still := match t.frame with | some f => frameStuck s t f | none => true
          if p.marked s c && still then sendMarkers (s.setTask { t with saved := true }) c p else s
      | .elem pos slot =>
        match s.fab.elems.find? (fun e => e.pos = pos && e.slot = slot) with
        | none => s
        | some e =>
          if e.isSource || p.marked s c then
            let r := e.flushAll s 8
            if (r.1.conf? cid).isNone then r.1
            else if !r.2.buf.isEmpty && !r.1.mem.pages.any (fun q => q.hasConf cid) then r.1.setElem r.2
            else sendMarkers (r.1.setElem { r.2 with saved := true }) c p
          else s
      | .tile pos =>
        match s.tile? pos with
        | none => s
        | some t =>
          let all := s.fab.inputs.all (fun i => i.cid ≠ c.cid || !p.owns s i.ep || !takesMarker s i || i.marker)
          if all && (match t.run with | some r => tileStops s pos r | none => true) then
            sendMarkers (s.setTile { t with saved := true }) c p
          else s
      | .edge pos =>
        let mine := s.eng.progs.filter (fun (g : AgProg) => g.bind = some cid && g.pos = pos)
        if p.marked s c && mine.all (agHalted s) then
          let s := { s with eng := { s.eng with progs := s.eng.progs.map (fun (g : AgProg) =>
            if g.bind = some cid ∧ g.pos = pos then { g with stopped := true } else g) } }
          sendMarkers (s.mapConf cid (fun c => { c with drain := c.drain.map (fun d => { d with edges := d.edges ++ [pos] }) })) c p
        else s

/-- Starts the drain of a configuration (R350): its sources stop and save, and every task start port is marked. -/
def startDrain (s : State) (cid why : Nat) : State :=
  match s.conf? cid with
  | none => s
  | some c =>
    if c.drain.isSome then s
    else
      let s := s.mapConf cid (fun c => { c with drain := some { why := why, since := s.ctl.now, failed := none, edges := [] } })
      let starts := (s.cores.tasks.filter (fun t => t.cid = cid)).filterMap (fun t => t.sport.map (portEp t.pos))
      let s := { s with fab := { s.fab with inputs := s.fab.inputs.map (fun i =>
        if i.cid = cid ∧ starts.contains i.ep then { i with marker := true, markedAt := s.ctl.ids } else i) } }
      (confParts s cid).foldl (fun s p => trySave s cid p) s

/-- DRAIN_START (R350): configuration c of the list is drained at a host's or firmware's request, or in recovery. -/
def execDrainStart (c why : Nat) (s : State) : Out :=
  match s.fab.confs[c]? with
  | none => .next s
  | some x => .next (startDrain s x.cid why)

/-- BELLWETHER_ARRIVE (R351, R352): the marker at the head of link e reaches its input; past the links, part `e` of the draining
configurations is looked at again. Either way the part saves when it may. -/
def execBellwetherArrive (e : Nat) (s : State) : Out :=
  match s.fab.links[e]? with
  | some l =>
    match l.arriving with
    | .marker rest =>
      let s := (s.setLink e { l with flight := rest, heard := none }).touch l.cid
      let s := s.mapInput l.dst (fun i => { i with marker := true, markedAt := s.ctl.ids })
      .next (((confParts s l.cid).filter (fun p => p.owns s l.dst)).foldl (fun s p => trySave s l.cid p) s)
    | _ => .next s
  | none =>
    let all := (s.fab.confs.filter (fun c => c.drain.isSome)).flatMap (fun c => (confParts s c.cid).map (fun p => (c.cid, p)))
    match all[e - s.fab.links.length]? with
    | some (cid, p) => .next (trySave s cid p)
    | none => .next s

/-! ### Checkpoints -/

/-- A drain is complete (R353, R354): every part has saved, every channel is closed by its marker, no pulse is in flight, and
no copy that has started is left; at the end of a slice, none but those that wait for a ring slot (R358). -/
def drained (s : State) (c : Conf) : Bool :=
  c.drain.isSome && (confParts s c.cid).all (fun p => p.saved s c) &&
  s.fab.inputs.all (fun i => i.cid ≠ c.cid || !takesMarker s i || i.marker) &&
  s.fab.links.all (fun l => l.cid ≠ c.cid || (l.flight.isEmpty && l.pulses = 0)) &&
  s.eng.copies.all (fun k => k.cid ≠ c.cid || (k.moved = 0 && k.ringSlot.isNone && (c.drain.all (fun d => d.why ≠ 2) || k.ring.isSome))) &&
  s.eng.deliveries.all (fun d => d.cid ≠ c.cid) && s.cores.arrivals.all (fun a => a.cid ≠ c.cid) &&
  s.mem.banks.all (fun b => b.cluster / 10 < c.strip0 || c.strip0 + c.strips ≤ b.cluster / 10 || b.switching.isNone)

/-- The bytes that a checkpoint holds (R353): matrix slots and cells, banks that are not in cache mode, instruction stores. -/
def savedKey (c : Conf) (k : Nat) : Bool :=
  let o := offsetOf k
  match regionOf k with
  | 2 => c.strip0 ≤ o / 2 ^ 20 / 10 && o / 2 ^ 20 / 10 < c.strip0 + c.strips
  | 4 => within c.strip0 c.strips (o / 2 ^ 17)
  | 5 => within c.strip0 c.strips (o / 2 ^ 16)
  | 6 => within c.strip0 c.strips (o / 2 ^ 16)
  | _ => false
def savedCell (c : Conf) (x : Host.Cell) : Bool := savedKey c x.1

/-- Since when an operation of a frame is withheld; now if none is. -/
def Frame.withheldSince (f : Frame) (now : Nat) : Nat :=
  f.chain.foldl (fun m o => match o.st with | .withheld _ c _ => min m c | _ => m) now

/-- The faulting address of a configuration that waits on a request, by a task, an element, a copy, a stream or a bound program
(R340, R341). -/
def pageAddr (s : State) (c : Conf) (q : PageReq) : Option Nat :=
  let toks := (s.cores.tasks.filter (fun t => t.cid = c.cid)).flatMap (fun t => match t.frame with
    | some f => f.chain.filterMap (fun o => match o.st with | .withheld k _ va => if k = q.id then some va else none | _ => none)
    | none => [])
  let units := q.confs.filterMap (fun x => if x.1 = c.cid then some x.2 else none)
  let progs := q.nodes.filterMap (fun x =>
    if s.eng.progs.any (fun g => g.bind = some c.cid && (g.launch, g.node) = x.1) then some x.2 else none)
  (toks ++ units ++ progs).head?

/-- The checkpoint of a drained configuration (R355, R356); it is ready at once unless the drain limit drained the configuration
and a request is outstanding (R343, R355). The watchdog has not counted the wait of a withheld operation
(R342). -/
def checkpoint (s : State) (c : Conf) (d : Drain) (id : Nat) : Ckpt :=
  let mine (k : Nat) : Bool := c.strip0 ≤ k / 10 && k / 10 < c.strip0 + c.strips
  let reqs := s.mem.pages.filterMap (fun q => (pageAddr s c q).map (fun a => (q.id, a)))
  { id := id, why := d.why, conf := { c with drain := none }, reqs := reqs, ready := d.why ≠ 1 || reqs.isEmpty, entered := s.ctl.now, paused := 0
    cycles := s.ctl.now - c.start
    tasks := (s.cores.tasks.filter (fun t => t.cid = c.cid)).map (fun t =>
      { t with bound := s.ctl.now - t.bound
               readyAt := s.ctl.now - t.readyAt
               frame := t.frame.map (fun f => { f with
                 at_ := s.ctl.now - f.at_, paused := f.paused + (s.ctl.now - f.withheldSince s.ctl.now) }) })
    elems := s.fab.elems.filter (fun x => x.cid = c.cid), inputs := s.fab.inputs.filter (fun x => x.cid = c.cid)
    links := s.fab.links.filter (fun x => x.cid = c.cid), tiles := s.eng.tiles.filter (fun x => x.cid = c.cid)
    bars := s.cores.bars.filter (fun b => within c.strip0 c.strips b.pos)
    banks := s.mem.banks.filter (fun b => mine b.cluster), rings := s.eng.rings.filter (fun r => mine r.cluster)
    copies := s.eng.copies.filter (fun x => x.cid = c.cid), scans := s.eng.scans.filter (fun x => x.cid = c.cid)
    progs := s.eng.progs.filter (fun g => g.bind = some c.cid), cells := s.mem.bytes.filter (savedCell c)
    marks := s.mem.poison.filter (fun w => savedKey c (8 * w)) }

/-- A saved configuration is not restored after a refused request (R343): its KNODE fails with PAGE subcode 1. -/
def notRestored (s : State) (c : Conf) (cycles va : Nat) : State :=
  let s := confFlags s c
  let g := match s.launch? c.launch with | some l => l.graph | none => 0
  let (s, a) := writeRecord s c.pad c.ten
    { code := 0x11, sub := 1, cfg := c.ident, addr := BitVec.ofNat 64 va, graph := g, node := c.node, cyc := cycles }
  nodeFail s c.launch c.node 0x11 a

/-- DRAIN_COMPLETE (R354): with every write performed at paddock scope, the checkpoint is written and the strips are free. After a
refused request no checkpoint is kept (R343). -/
def execDrainComplete (c : Nat) (s : State) : Out :=
  match s.fab.confs[c]? with
  | none => .next s
  | some x =>
    match x.drain with
    | none => .next s
    | some d =>
      let progLag := s.eng.progs.any (fun g => g.bind = some x.cid && lagging s g.lag)
      if !drained s x || !writesPerformed s x || progLag then .next s
      else
        let (id, s) := s.newId
        let k := checkpoint s x d id
        -- every copy left has not begun and is saved (R353)
        let s := unplace { s with eng := { s.eng with copies := s.eng.copies.filter (fun q => q.cid ≠ x.cid) } } x
        let s := { s with
          eng := { s.eng with progs := s.eng.progs.filter (fun g => g.bind ≠ some x.cid) }
          mem := { s.mem with bytes := s.mem.bytes.filter (fun (b : Host.Cell) => !savedCell x b)
                              poison := s.mem.poison.filter (fun w => !savedKey x (8 * w)) } }
        match d.failed with
        | some va => .next (notRestored s x k.cycles va)
        | none => .next { s with drv := { s.drv with ckpts := s.drv.ckpts ++ [k] } }

/-- A drain is not complete 1.5 s after its first bellwether (R354); 1 s is 1.9 × 10^9 cycles. -/
def drainDue (s : State) (c : Conf) : Bool := match c.drain with | some d => d.since + 2850000000 ≤ s.ctl.now | none => false

/-- The limit of a drain: WATCHDOG subcode 2 (R354). -/
def execDrainWatchdog (c : Nat) (s : State) : Out :=
  match s.fab.confs[c]? with
  | none => .next s
  | some x => if drainDue s x then .next (confFault s x.cid { code := 0x38, sub := 2 }) else .next s

/-- A saved frame goes on (R357): its withheld accesses are issued again at their chain positions, all else is at hand. -/
def Frame.reissue (now : Nat) (f : Frame) : Frame :=
  { f with
    at_ := now - f.at_
    till := now
    met := none
    flying := f.flying.map (fun y => { y with at_ := now })
    chain := f.chain.map (fun o => match o.st with | .withheld _ _ _ => { o with st := .waiting } | _ => o) }

/-- An input as restore leaves it (R357 step 2): port tokens, then channel tokens, ahead of any new one. -/
def Input.represent (now : Nat) (i : Input) : Input :=
  { i.chan.foldl (fun i t => i.put now t true) i with chan := [], marker := false }

/-- A stream-read element within a pass. -/
def Elem.midPass (e : Elem) : Bool := e.kind = .mem && bits e.spec 39 38 = 0 && e.inner

/-- A stream pass that a drain interrupted reads its lines still to come as they stand at restore (R353). -/
def rereadPass (s : State) (e : Elem) : State :=
  if !e.midPass then s else match execMemStreamReadPass e.pos e.slot s with | .next s => s | _ => s

/-- A KNODE of the pool has a higher effective priority than a checkpoint (R357), unless its tenant's checkpoints go first (R358). -/
def nodeFirst (s : State) (k : Ckpt) : Bool :=
  !(s.pad? k.conf.pad).any (restoringNow s) && (poolOf s k.conf.pad).any (fun x => nodeKind x.2.1.record = 1 && k.prio s < x.2.1.prio s.ctl.now)

/-- Ready checkpoint `y`, `j` in the list, is restored before `x`, `k` in it, of the same tenant: the older one where the tenant's
checkpoints go first (R358), else in pool order (R304, R357). -/
def ckptBefore (s : State) (y x : Ckpt) (j k : Nat) : Bool :=
  y.ready && y.conf.pad = x.conf.pad && y.conf.ten = x.conf.ten &&
  (if (s.pad? x.conf.pad).any (restoringNow s) then j < k
   else if y.prio s ≠ x.prio s then x.prio s < y.prio s
   else if y.entered ≠ x.entered then y.entered < x.entered else j < k)

/-- RESTORE (R357): checkpoint k, once ready, with its tenant active, its strips free and no KNODE of higher effective priority in the
pool, is placed again. -/
def execRestore (k : Nat) (s : State) : Out :=
  match s.drv.ckpts[k]? with
  | none => .next s
  | some x =>
    let c := x.conf
    let active := match s.pad? c.pad with | some p => tenantActive p c.ten && !p.ended | none => false
    let free := (List.range c.strips).all (fun i => freeStrip s (c.strip0 + i))
    let older := nodeFirst s x || s.drv.ckpts.zipIdx.any (fun y => ckptBefore s y.1 x y.2 k)
    if !x.ready || !active || !free || older || !hopsOk s c.strip0 (c.words.map (·.toNat)) || (s.tenant c.pad c.ten).tdi = .stopping then .next s
    else
      let now := s.ctl.now
      let s := releaseBanks s c.strip0 c.strips
      let s : State := { s with
        cores := { s.cores with
          tasks := s.cores.tasks ++ x.tasks.map (fun (t : Task) => { t with
            saved := false, bound := now - t.bound, readyAt := now - t.readyAt
            frame := t.frame.map (Frame.reissue now) })
          bars := s.cores.bars.filter (fun (b : Bar) => !within c.strip0 c.strips b.pos) ++ x.bars }
        fab := { s.fab with
          confs := s.fab.confs ++ [{ c with start := now - x.cycles, moved := now, drain := none }]
          elems := s.fab.elems ++ x.elems.map (fun e => { e with saved := false, snap := [] })
          inputs := s.fab.inputs ++ x.inputs.map (Input.represent now)
          links := s.fab.links ++ x.links }
        mem := { s.mem with
          banks := s.mem.banks ++ x.banks
          bytes := x.cells.foldl (fun m b => writeByte m b.1 b.2) (s.mem.bytes.filter (fun b => !savedCell c b))
          poison := s.mem.poison.filter (fun w => !savedKey c (8 * w)) ++ x.marks }
        eng := { s.eng with
          tiles := s.eng.tiles ++ x.tiles.map (fun t => { t with saved := false })
          copies := s.eng.copies ++ x.copies.map (fun q => { q with running := false })
          rings := s.eng.rings ++ x.rings, scans := s.eng.scans ++ x.scans
          progs := s.eng.progs ++ x.progs.map (fun g => { g with stopped := false }) }
        drv := { s.drv with ckpts := dropAt k s.drv.ckpts } }
      let left := s.drv.ckpts.any (fun y => y.ready && y.conf.pad = c.pad && y.conf.ten = c.ten)
      let s := s.mapPad c.pad (fun p => { p with restoring := p.restoring && left })
      .next (x.tasks.foldl (fun s t => settled s t.pos t.slot) (x.elems.foldl rereadPass s))

/-! ### Page requests -/

/-- Table entries of a tenant that the host or root firmware writes, by intermediate address, where moved lines now are (R335, R341,
R367). -/
def writeEntries (s : State) (pad ten : Nat) (entries : List (Nat × BitVec 64)) : State :=
  match s.pad? pad with
  | none => s
  | some p =>
    entries.foldl (fun s e =>
      match stage2 s p ten e.1 false false with
      | .ok k _ => (match followMoves s 8 k with
        | some k => (homeStore s (whoOf pad ten) k (toBytes 8 e.2.toNat) 0).1
        | none => s)
      | _ => s) s

/-- A task has a token withheld on a request. -/
def Task.waitsOn (t : Task) (q : Nat) : Bool :=
  match t.frame with
  | some f => f.chain.any (fun o => match o.st with | .withheld k _ _ => k = q | _ => false)
  | none => false

/-- The configurations that wait on a request, each with its faulting address. -/
def waitingConfs (s : State) (q : PageReq) : List (Conf × Nat) :=
  s.fab.confs.filterMap (fun c => (pageAddr s c q).map (fun a => (c, a)))

/-- One of the requests that a checkpoint waits on has been answered with success (R343, R357). -/
def Ckpt.answered (now : Nat) (k : Ckpt) (id : Nat) : Ckpt :=
  let reqs := k.reqs.filter (fun r => r.1 ≠ id)
  { k with reqs := reqs, ready := k.ready || reqs.isEmpty, entered := if k.ready then k.entered else now }

/-- Requests beyond the 64 of a paddock leave when there is room (R341), with the FGEN of their function then (R369). -/
def askNext (s : State) (pad : Nat) : State :=
  if 64 ≤ (s.mem.pages.filter (fun q => q.pad = pad && q.asked)).length then s
  else
    match s.mem.pages.find? (fun q => q.pad = pad && !q.asked && !q.stale) with
    | none => s
    | some q =>
      let s := { s with mem := { s.mem with pages := s.mem.pages.map (fun (x : PageReq) =>
        if x.id = q.id then { x with asked := true, sent := s.ctl.now, fgen := (s.tenant pad q.ten).fgen } else x) } }
      s.say (if q.host then .pageRequest pad q.ten q.page q.write q.id else .firmwareRequest pad q.ten q.page q.write q.id)

/-- The tokens of a request go on: their operations issue again, and the watchdog has not counted the wait (R341, R342). -/
def releaseTokens (s : State) (q : PageReq) : State :=
  let mine := s.cores.tasks.filter (fun t => t.waitsOn q.id && !t.saved)
  let go (f : Frame) : Frame :=
    let since := f.chain.foldl (fun m o => match o.st with | .withheld k c _ => if k = q.id then min m c else m | _ => m) s.ctl.now
    { f with
      paused := f.paused + (s.ctl.now - since)
      chain := f.chain.map (fun o => match o.st with | .withheld k _ _ => if k = q.id then { o with st := .waiting } else o | _ => o) }
  let s := mine.foldl (fun s t => s.setTask { t with frame := t.frame.map go }) s
  mine.foldl (fun s t => settled s t.pos t.slot) s

/-- Since when a configuration waits on a request, if it does: since its first token was withheld, or since the request. -/
def pageWaitFrom (s : State) (c : Conf) (q : PageReq) : Option Nat :=
  let toks := (s.cores.tasks.filter (fun t => t.cid = c.cid)).flatMap (fun t => match t.frame with
    | some f => f.chain.filterMap (fun o => match o.st with | .withheld k n _ => if k = q.id then some n else none | _ => none)
    | none => [])
  let units := q.hasConf c.cid || s.eng.progs.any (fun g => g.bind = some c.cid && q.hasNode g.launch g.node)
  match (if units then q.sent :: toks else toks) with
  | [] => none
  | n :: ns => some (ns.foldl min n)

/-- The configuration watchdog has not counted a wait on a request that ends now (R342); what another request still withholds
is counted out when that one ends. -/
def uncount (s : State) (q : PageReq) : State :=
  { s with fab := { s.fab with confs := s.fab.confs.map (fun (c : Conf) =>
      match pageWaitFrom s c q with
      | none => c
      | some from_ =>
        let till := (s.mem.pages.filterMap (pageWaitFrom s c)).foldl min s.ctl.now
        { c with moved := c.moved + (till - max from_ c.moved) }) } }

/-- A refused request (R341, R343): PAGE subcode 1, with the faulting address of each, against the configurations that wait on it,
the checkpoints, the programs and the nodes. A drain for this limit goes on. A copy that waits on it ends, unless such a drain keeps
its configuration (R292, R343). -/
def refusePage (s : State) (q : PageReq) : State :=
  let kept (c : CopyOp) : Bool := match s.conf? c.cid with
    | some x => x.drain.any (fun d => d.why = 1)
    | none => false
  let s := { s with eng := { s.eng with copies := s.eng.copies.filter (fun c => !q.copies.contains c.id || kept c) } }
  let progs := q.nodes.filterMap (fun x =>
    (s.eng.progs.find? (fun g => g.bind.isNone && (g.launch, g.node) = x.1)).map (fun g => (g, x.2)))
  let s := (waitingConfs s q).foldl (fun s c =>
    if c.1.drain.any (fun d => d.why = 1) then
      s.mapConf c.1.cid (fun x => { x with drain := x.drain.map (fun d => { d with failed := some (d.failed.getD c.2) }) })
    else confFault s c.1.cid { code := 0x11, sub := 1, addr := BitVec.ofNat 64 c.2 }) s
  let gone := s.drv.ckpts.filterMap (fun k => (k.reqs.find? (fun r => r.1 = q.id)).map (fun r => (k, r.2)))
  let s := { s with drv := { s.drv with ckpts := s.drv.ckpts.filter (fun k => k.reqs.all (fun r => r.1 ≠ q.id)) } }
  let s := gone.foldl (fun s k => notRestored s k.1.conf k.1.cycles k.2) s
  let s := progs.foldl (fun s g => stopProgram s g.1 0x11 1 g.2) s
  let rest := q.nodes.filter (fun n => !progs.any (fun g => (g.1.launch, g.1.node) = n.1))
  rest.foldl (fun s n =>
    match s.launch? n.1.1 with
    | some l => if (l.nodes[n.1.2]?).any (fun x => x.st = .pool) then
        (let (s, a) := writeRecord s l.pad l.ten
          { code := 0x11, sub := 1, addr := BitVec.ofNat 64 n.2, graph := l.graph, node := n.1.2 }
         nodeFail s n.1.1 n.1.2 0x11 a)
      else s
    | none => s) s

/-- A stale response of a function is counted (R369), also when no slot is assigned to it. -/
def countStale (s : State) (vf : Nat) : State :=
  { s with ten := { s.ten with
    paddocks := s.ten.paddocks.map (fun p => { p with tenants := p.tenants.map (fun t =>
      if t.enabled && t.vf = vf then { t with stalepr := (t.stalepr + 1) % 2 ^ 32 } else t) })
    vfs := s.ten.vfs.map (fun x => if x.1 = vf then (x.1, x.2.1, (x.2.2 + 1) % 2 ^ 32) else x) } }

/-- PAGE_RESPONSE (R341, R343, R369): the table entries that the host or root firmware has written before it; a stale one is
discarded and counted; a successful one repeats the walk, and the tokens go on unless it finds V = 0 again; a failed one raises
PAGE subcode 1. -/
def execPageResponse (k : Nat) (ok : Bool) (entries : List (Nat × BitVec 64)) (s : State) : Out :=
  match s.mem.pages[k]? with
  | none => .next s
  | some q =>
    if !q.asked then .next s
    else
      let s := writeEntries s q.pad q.ten entries
      let s := { s with mem := { s.mem with pages := dropAt k s.mem.pages } }
      if q.stale || q.fgen ≠ (s.tenant q.pad q.ten).fgen then
        .next (askNext (countStale s q.vf) q.pad)
      else
        let present := match (translate s q.pad q.ten none none q.va (!q.write) q.write).2 with | .miss _ => false | _ => true
        if ok && present then
          let s := { s with drv := { s.drv with ckpts := s.drv.ckpts.map (fun c => c.answered s.ctl.now q.id) } }
          .next (askNext (releaseTokens (uncount s q) q) q.pad)
        else .next (askNext (refusePage s q) q.pad)

/-- The limit has passed since a request left (R343), and a configuration that waits on it does not drain yet. A microsecond is
1,900 cycles. -/
def pageDue (s : State) (q : PageReq) : Bool :=
  let lim := match s.pad? q.pad with | some p => p.drlim | none => 100
  q.asked && !q.stale && q.sent + lim * 1900 ≤ s.ctl.now && (waitingConfs s q).any (fun c => c.1.drain.isNone)

/-- DRAIN_LIMIT (R343): every configuration that waits on request k beyond its limit is drained. -/
def execDrainLimit (k : Nat) (s : State) : Out :=
  match s.mem.pages[k]? with
  | none => .next s
  | some q =>
    if !pageDue s q then .next s
    else .next ((waitingConfs s q).foldl (fun s c => startDrain s c.1.cid 1) s)

/-! ### Tenant slices -/

/-- A tenant has ready nodes or checkpoints (R358). -/
def hasWork (s : State) (pad ten : Nat) : Bool :=
  s.drv.launches.any (fun l => l.pad = pad && l.ten = ten && l.nodes.any (fun n => n.st = .pool)) ||
  s.drv.ckpts.any (fun k => k.conf.pad = pad && k.conf.ten = ten && k.ready)

/-- The tenants after the active one, in slot order. -/
def othersInOrder (p : Paddock) : List Nat :=
  ([1, 2, 3].map (fun i => (p.active + i) % 4)).filter (fun t => p.mask / 2 ^ t % 2 = 1)

/-- Makes a tenant active (R358): its checkpoints are restored before its pool is dispatched; its nodes aged only while it was, the outgoing one's ageing pauses. -/
def activate (s : State) (p : Paddock) (next : Nat) : State :=
  let now := s.ctl.now
  let since := (p.tenant next).idleSince
  let s := { s with drv := { s.drv with
    launches := s.drv.launches.map (fun (l : Launch) =>
      if l.pad = p.id ∧ l.ten = next then
        { l with nodes := l.nodes.map (fun (n : Node) => if n.st = NodeSt.pool then { n with paused := n.paused + (now - max n.entered since) } else n) }
      else l)
    ckpts := s.drv.ckpts.map (fun (k : Ckpt) =>
      if k.conf.pad = p.id ∧ k.conf.ten = next then { k with paused := k.paused + (now - max k.entered since) } else k) } }
  let s := s.mapTenant p.id p.active (fun t => { t with idleSince := now })
  s.mapPad p.id (fun p => { p with active := next, leaving := false
                                   restoring := s.drv.ckpts.any (fun k => k.ready && k.conf.pad = p.id && k.conf.ten = next) })

/-- TENANT_SLICE_END (R358): with work of another tenant waiting, the outgoing tenant's configurations drain; once they are
saved, and its nodes and copies have ended, the next tenant with work is active. -/
def execTenantSliceEnd (p : Nat) (s : State) : Out :=
  match s.pad? p with
  | none => .next s
  | some x =>
    match (othersInOrder x).find? (hasWork s p) with
    | none => .next (s.mapPad p (fun x => { x with leaving := false }))
    | some next =>
      let mine := s.fab.confs.filter (fun c => c.pad = p && c.ten = x.active)
      if !x.leaving then
        let s := s.mapPad p (fun x => { x with leaving := true })
        .next (mine.foldl (fun s c => startDrain s c.cid 2) s)
      else if mine.isEmpty && s.eng.units.all (fun u => !(u.pad = p && u.ten = x.active)) &&
          s.eng.copies.all (fun c => !(c.pad = p && c.ten = x.active)) then .next (activate s x next)
      else .next (mine.foldl (fun s c => startDrain s c.cid 2) s)

/-! ### Translations and held tasks -/

/-- The memory key of the page that a TLB entry maps. -/
def Tlb.pageKey (s : State) (e : Tlb) : Option Nat :=
  match s.pad? e.pad with
  | none => none
  | some p => match rangeUse s p e.ten e.range e.inter false false with | .ok k _ => some k | _ => none

/-- The key of a table entry at an intermediate address, where its line now is (R335, R367). -/
def tableKey (s : State) (p : Paddock) (ten a : Nat) : Option Nat :=
  match stage2 s p ten a true false with
  | .ok k _ => followMoves s 8 k
  | _ => none

/-- The leaves below a table (R335): address, level, key of the entry, the entry. -/
def leavesIn (s : State) (p : Paddock) (ten : Nat) : List (Nat × Nat × Nat × Nat) → Nat → Nat → List (Nat × Nat × Nat × Nat)
  | [], _, _ => []
  | (level, hi, lo, _) :: rest, table, va =>
    (List.range (2 ^ (hi + 1 - lo))).flatMap (fun i =>
      match tableKey s p ten (table + 8 * i) with
      | some k =>
        let e := s.read k 8
        let a := va + i * 2 ^ lo
        if e % 2 = 0 ∨ bits e 63 56 ≠ 0 then []
        else if bits e 1 1 = 1 then (if level = 0 then [] else [(a, level, k, e)])
        else leavesIn s p ten rest (bits e 55 8 * 256) a
      | none => [])

/-- The keys of the entries of a tenant's stage-1 tables, before redirects. -/
def tableKeysIn (s : State) (p : Paddock) (ten : Nat) : List (Nat × Nat × Nat × Nat) → Nat → List Nat
  | [], _ => []
  | (_, hi, lo, _) :: rest, table =>
    (List.range (2 ^ (hi + 1 - lo))).flatMap (fun i =>
      (match stage2 s p ten (table + 8 * i) true false with | .ok k _ => [k] | _ => []) ++
      (match tableKey s p ten (table + 8 * i) with
       | some k => let e := s.read k 8
                   if e % 2 = 0 ∨ bits e 63 56 ≠ 0 ∨ bits e 1 1 = 1 then [] else tableKeysIn s p ten rest (bits e 55 8 * 256)
       | none => []))

/-- Every leaf of a tenant's stage-1 tables. -/
def tenantLeaves (s : State) (pad ten : Nat) : List (Nat × Nat × Nat × Nat) :=
  match s.pad? pad with
  | some p => leavesIn s p ten walkLevels (p.tenant ten).root 0
  | none => []

/-- Something may still reach the old place of a moved line (R367): a TLB entry or a leaf that maps it, a page table that lies there, a
launch's translation, or an access under way. -/
def stillNamed (s : State) (line : Nat) : Bool :=
  let spans (k n : Nat) : Bool := k / 64 ≤ line && line < (k + n) / 64
  s.mem.tlb.any (fun e => (e.pageKey s).any (fun k => spans k (2 ^ e.size))) ||
  s.ten.paddocks.any (fun p => (List.range 4).any (fun t => (p.tenant t).enabled &&
    (tableKeysIn s p t walkLevels (p.tenant t).root).any (fun k => lineOf k = line))) ||
  s.ten.paddocks.any (fun p => (List.range 4).any (fun t => (p.tenant t).enabled && (tenantLeaves s p.id t).any (fun l =>
    match stage2 s p t (bits l.2.2.2 55 8 * 256) false false with
    | .ok k _ => spans k (2 ^ (16 + (if l.2.1 = 3 then 0 else if l.2.1 = 2 then 5 else 14)))
    | _ => false))) ||
  s.drv.launches.any (fun l => l.nodes.any (fun n => n.pages.any (fun g => spans g.2 (2 ^ 16)))) ||
  s.cores.tasks.any (fun t => (t.queue ++ t.reds).any (fun r => r.keys.any (fun k => k.any (fun k => lineOf k = line)))) ||
  s.mem.retired.any (fun x => x.req.keys.any (fun k => k.any (fun k => lineOf k = line))) ||
  s.eng.deliveries.any (fun d => lineOf d.key = line) || s.mem.outside.any (fun x => x.keys.any (fun k => lineOf k.1 = line))

/-- The moved marks of pages that back no address any more are cleared (R367); copies of their lines under the old place go with them. -/
def clearMoved (s : State) : State :=
  let out := (s.mem.moved.filter (fun m => !stillNamed s m.1)).map (·.1)
  if out.isEmpty then s
  else { s with mem := { s.mem with moved := s.mem.moved.filter (fun m => !out.contains m.1), copies := s.mem.copies.filter (fun c => !out.contains c.line) } }

/-- TLB_INVALIDATE (R337, R367): after the table entries that root firmware has written, entries of a paddock go by page, by
tenant, or all; so do the remote translations of their pages. -/
def execTlbInvalidate (p : Nat) (page tenant : Option Nat) (entries : List (Nat × BitVec 64)) (s : State) : Out :=
  let hit (e : Tlb) : Bool :=
    e.pad = p && (match tenant with | some t => e.ten = t | none => true) &&
    (match page with | some g => g * 2 ^ 16 / 2 ^ e.size = e.page | none => true)
  let first := match s.pad? p with | some x => ((List.range 4).find? (fun t => x.mask / 2 ^ t % 2 = 1)).getD 0 | none => 0
  let s := writeEntries s p (tenant.getD first) entries
  let out := s.mem.tlb.filter hit
  let olds := out.filterMap (fun e => e.pageKey s)
  let s := { s with mem := { s.mem with
    tlb := s.mem.tlb.filter (fun e => !hit e)
    rtc := s.mem.rtc.filter (fun r => !olds.any (fun k => k / 2 ^ 16 = r.page)) } }
  .next (clearMoved s)

/-- The held task that a TCTL word names for a function (R345, R346): its configuration's identifier, PE and slot. -/
def heldTask (s : State) (p t : Nat) (w : Nat) : Option Task :=
  if bits w 63 38 ≠ 0 then none
  else
    s.cores.tasks.find? (fun x => x.held && x.part.toNat = p && x.ten.toNat = t && x.cfg.toNat = bits w 15 0 &&
      x.pos = bits w 31 16 && x.slot = bits w 35 32)

/-- TCTL with action RESUME (R346): the held task goes on at TADDR; a write that names none is ignored. -/
def execTctlResume (p t : Nat) (w : BitVec 64) (s : State) : Out :=
  if bits w.toNat 37 36 ≠ 1 then .next s
  else
    match heldTask s p t w.toNat with
    | none => .next s
    | some x => .next (resume s x (s.tenant p t).taddr.toNat)

/-- TCTL with action ABORT (R346): the configuration of the held task is terminated; its node fails with the CODE of the record. -/
def execTctlAbort (p t : Nat) (w : BitVec 64) (s : State) : Out :=
  if bits w.toNat 37 36 ≠ 2 then .next s
  else
    match heldTask s p t w.toNat with
    | none => .next s
    | some x => .next (terminate s x.cid x.code x.fault)

end Sys2Proof.Machine
end

