-- ==== Sys2Proof/Machine/Tenants.lean ====
section
/-! DEFINITION. Paddocks, functions and tenants (R338, R370 to R374, R384), their register windows (R302, R345, R376, R389), host
accesses (R251), stopping and reports (R376 to R378), resets of a function (R369, R385), and other devices (R363 to R367). -/

namespace Sys2Proof.Machine

/-! ### Register windows -/

/-- A register: offset, bytes, value. -/
abbrev RegRow := Nat × Nat × Nat

/-- TSTAT's code of a TDI state (R376). -/
def Tdi.code : Tdi → Nat
  | .unlocked => 0
  | .locked => 1
  | .run => 2
  | .stopping => 3
  | .stopped => 4
  | .error => 5

/-- The registers of a VF's window as a read gives them (R302, R345, R376); what no table lists reads 0 (R389). -/
def vfRegs (s : State) (p t : Nat) : List RegRow :=
  let v := s.tenant p t
  let pad := s.pad? p
  [(0x00, 8, v.lgraph.toNat), (0x08, 8, v.largs.toNat), (0x18, 8, v.lstat.toNat), (0x20, 4, v.lflg), (0x24, 4, v.nqsize),
   (0x28, 8, v.nqbase.toNat), (0x30, 4, v.nqhead), (0x34, 4, v.nqtail), (0x40, 8, v.fabase.toNat), (0x48, 4, v.fasize),
   (0x4C, 4, v.fahead), (0x50, 4, v.fatail), (0x54, 4, v.falost), (0x58, 4, v.fpol),
   (0x5C, 4, match pad with | some x => x.drlim | none => 100), (0x60, 8, v.taddr.toNat), (0x70, 8, v.orphf.toNat),
   (0x80, 4, v.tdi.code), (0x88, 8, v.dprbase.toNat), (0x90, 4, v.dprsize), (0x94, 4, v.dprseq), (0x98, 4, v.stalepr),
   (0x9C, 2, v.fgen), (0xA0, 4, match pad with | some x => (x.pdrop + 2 ^ 32 - v.pdropAt) % 2 ^ 32 | none => 0)]

/-- PSTAT of a paddock (R389). -/
def Paddock.pstat (p : Paddock) : Nat :=
  p.id + p.first * 2 ^ 16 + p.count * 2 ^ 22 + p.mask * 2 ^ 29 + p.active * 2 ^ 33 + 2 ^ 35 + p.mode * 2 ^ 36

/-- HSTAT (R389). -/
def Hub.hstat (h : Hub) : Nat :=
  (if h.ready then 1 else 0) + (if h.therm then 2 else 0) + h.bootDie * 4 + h.bootStep * 32

/-- The housekeeping registers of PF0's window (R389). -/
def pfRegs (s : State) : List RegRow :=
  let h := s.hub
  [(0x000, 4, h.hstat), (0x004, 4, 1), (0x008, 8, h.excluded.foldl (fun n k => n ||| 2 ^ k) 0), (0x010, 4, h.pwr.toNat),
   (0x014, 4, h.skipped / 2 ^ 16 % 2 ^ 32), (0x018, 4, h.temp.toNat)] ++
  s.ten.paddocks.map (fun p => (0x100 + 8 * p.place, 8, p.pstat))

/-- The byte at an offset of a window. -/
def regByte (rs : List RegRow) (off : Nat) : Nat :=
  match rs.find? (fun r => r.1 ≤ off && off < r.1 + r.2.1) with
  | some r => r.2.2 / 256 ^ (off - r.1) % 256
  | none => 0

/-- Reads the sensors (R386, R387, R389): at most the 3,600 W to which the package is held, in units of 0.25 W. Log 19. -/
def sense (s : State) : State :=
  let (n, s) := s.draw
  let v := (Config.sensor n).toNat
  { s with hub := { s.hub with pwr := BitVec.ofNat 32 (v % 2 ^ 32 % 14401), temp := BitVec.ofNat 32 (v / 2 ^ 32) } }

/-- An aligned read of 4 or 8 bytes of a function's window (R389): PF0's, whose sensors are read then, or a VF's. -/
def windowRead (s : State) (fn : Option (Nat × Nat)) (off size : Nat) : State × Nat :=
  let s := if fn.isNone then sense s else s
  let rs := match fn with | some (p, t) => vfRegs s p t | none => pfRegs s
  (s, (List.range size).foldl (fun n i => n + regByte rs (off + i) * 256 ^ i) 0)

/-- Puts a 32-bit half into a 64-bit register. -/
def putHalf (old : Word) (high : Bool) (v : Nat) : Word :=
  if high then BitVec.ofNat 64 (old.toNat % 2 ^ 32 + v * 2 ^ 32) else BitVec.ofNat 64 (old.toNat / 2 ^ 32 * 2 ^ 32 + v)

/-! ### Accesses from outside -/

/-- The keys of a byte range of a tenant's memory for the host, line by line; none when a translation fails, or when a line's home would
be a ninth redirect (R367). Packets dropped at a hurdle are counted (R370). -/
def hostKeys (s : State) (p t va n : Nat) (wr : Bool) : State × Option (List (Nat × Nat)) :=
  let cuts := lineCuts (n / 64 + 2) va n
  let found := cuts.map (fun c => (translate s p t none none c.1 (!wr) wr).2)
  let lost := (found.filter (fun x => x = .dropped)).length
  let ks := (cuts.zip found).map (fun c => match c.2 with
    | .ok k _ => (followMoves s 8 k).map (fun k => (k, c.1.2))
    | _ => none)
  if ks.any (·.isNone) then (s.mapPad p (fun x => { x with pdrop := (x.pdrop + lost) % 2 ^ 32 }), none)
  else (cuts.foldl (fun s c => (translate s p t none none c.1 (!wr) wr).1) s, some (ks.filterMap id))

/-- The answer to an access from outside: its bytes, or that it was refused, with the flags of an atomic. -/
def Outside.answer (x : Outside) (s : State) (bytes : Option (List Byte)) (flags : Nat) : State :=
  match x.src, x.op with
  | .host _ _ _, .write _ => s
  | .host p t va, _ => s.say (.hostData p t va bytes)
  | .device dev, _ => s.say (.remoteData dev bytes flags)

/-- An access from outside made at its homes, as one of T there (R251, R365): a host read of a poisoned word (R348) and a host write to a
live fibre header (R148) are not served, log 54; another device's are refused, log 46. -/
def Outside.perform (x : Outside) (s : State) (ks : List (Nat × Nat)) : State :=
  let refuse := x.answer s none 0
  let k := match ks with | k :: _ => k.1 | [] => 0
  match x.op with
  | .read _ =>
    if ks.any (fun k => s.poisoned k.1 k.2) then refuse
    else let (s, bs, _) := readKeys s x.who 0 ks; x.answer s (some bs) 0
  | .write bs =>
    if ks.any (fun k => liveHeader s k.1) then refuse
    else
      let lag := match x.src with | .host p t _ => (lagOf s 0 (ks.map (fun k => lineOf k.1))).map (fun l => (p, t, l)) | _ => []
      x.answer (writeKeys { s with ten := { s.ten with posted := s.ten.posted ++ lag } } x.who 0 ks bs).1 (some []) 0
  | .amo code size b new =>
    let s := foldLine s (lineOf k)
    if k % size ≠ 0 || liveHeader s k || s.poisoned k size then refuse
    else
      let (s, old) := s.readAs x.who k size
      let q : Res := if code = 9 then (if old = b.toNat % 2 ^ (8 * size) then new.toNat % 2 ^ (8 * size) else old, 0)
        else atomicOp code (8 * size) old b.toNat
      x.answer (homeStore s x.who k (toBytes size q.1) 0).1 (some (toBytes size old)) q.2
  | .red code size b =>
    let s := foldLine s (lineOf k)
    if k % size ≠ 0 || liveHeader s k || s.poisoned k size then refuse
    else
      let (s, old) := s.readAs x.who k size
      let q := atomicOp code (8 * size) old b.toNat
      x.answer (homeStore s x.who k (toBytes size q.1) 0).1 (some []) q.2
  | .merge mode pairs =>
    let s := foldLine s (lineOf k)
    match fibMerge s k (dieOf (homeTile (offsetOf k))) mode pairs with
    | (s, .ok (_, fl)) => x.answer (stampWrite (touchL2 s x.who (lineOf k) true) (lineOf k) 0).1 (some []) fl
    | (s, .error e) => x.answer s none e.2

/-- The same party: a host function, or a device. -/
def Outside.mate (x y : Outside) : Bool :=
  match x.src, y.src with
  | .host p t _, .host p' t' _ => p = p' && t = t'
  | .device d, .device d' => d = d'
  | _, _ => false

/-- Access `k` of those that wait at a home goes on when all its lines let it (R320, R321, R324), after those that came before it from
the same party; a ninth redirect refuses it (R367). -/
def serveOutside (s : State) (k : Nat) : State :=
  match s.mem.outside[k]? with
  | none => s
  | some x =>
    if (s.mem.outside.take k).any x.mate then s
    else
      let gone := { s with mem := { s.mem with outside := dropAt k s.mem.outside } }
      let ks := x.keys.map (fun k => (followMoves s 8 k.1).map (fun h => (h, k.2)))
      if ks.any (·.isNone) then x.answer gone none 0
      else
        let ks := ks.filterMap id
        match ks.find? (fun k => !mayPass s k.1 7 x.id) with
        | some k => parkAt s k.1 7 x.id
        | none => x.perform (ks.foldl (fun s k => unpark s k.1 7 x.id) gone) ks

/-- An access from outside reaches its homes: it is served there, or waits. -/
def arriveOutside (s : State) (src : OutSrc) (who : Nat) (op : RemoteOp) (ks : List (Nat × Nat)) : State :=
  let (id, s) := s.newId
  let x : Outside := { id := id, src := src, who := who, op := op, keys := ks }
  serveOutside { s with mem := { s.mem with outside := s.mem.outside ++ [x] } } s.mem.outside.length

/-- HOST_MEMORY_READ (R251): served at the homes, where it sees T as it stands; it waits at a line that waits. -/
def execHostMemoryRead (p t va n : Nat) (s : State) : Out :=
  match hostKeys s p t va n false with
  | (s, none) => .next (s.say (.hostData p t va none))
  | (s, some ks) => .next (arriveOutside s (.host p t va) (whoOf p t) (.read n) ks)

/-- HOST_MEMORY_WRITE (R251): a posted write, performed at the homes. -/
def execHostMemoryWrite (p t va : Nat) (bytes : List (BitVec 8)) (s : State) : Out :=
  match hostKeys s p t va bytes.length true with
  | (s, none) => .next s
  | (s, some ks) => .next (arriveOutside s (.host p t va) (whoOf p t) (.write bytes) ks)

/-! ### Reports -/

/-- Clears the DIRTY bit of a leaf where its line now is, and of the TLB entries that hold it (R336, R367, R377). -/
def cleanLeaf (s : State) (l : Nat × Nat × Nat × Nat) : State :=
  let k := l.2.2.1
  let e := l.2.2.2
  let s := s.packWrite k (toBytes 8 (e - e % 256 + e % 128))
  { s with mem := { s.mem with tlb := s.mem.tlb.map (fun x =>
      if followMoves s 8 x.entryKey = some k then { x with attr := x.attr - x.attr % 256 + x.attr % 128 } else x) } }

/-- Writes a dirty-page report (R377): entries first, the header last; the DIRTY bits that it lists are cleared (R376). -/
def writeReport (s : State) (pad ten : Nat) : State :=
  let t := s.tenant pad ten
  let dirty := (tenantLeaves s pad ten).filter (fun l => bits l.2.2.2 7 7 = 1)
  let tooMany : Bool := t.dprsize < dirty.length
  let base := regionKey 1 t.dprbase.toNat
  let seq := t.dprseq + 1
  let s := if tooMany then s
    else (s.write (base + 64) (dirty.flatMap (fun l => toBytes 8 (l.1 / 2 ^ 16 * 2 ^ 16 + (3 - l.2.1)))))
  let s := s.write base (toBytes 8 seq ++ toBytes 4 (if tooMany then 0 else dirty.length) ++ toBytes 4 (if tooMany then 1 else 0) ++
    List.replicate 48 0)
  let s := if tooMany then s else dirty.foldl cleanLeaf s
  s.mapTenant pad ten (fun t => { t with dprseq := seq % 2 ^ 32 })

/-- REPORT (R376, R377); a TDI in ERROR takes STOP only (R374). -/
def execReport (p t : Nat) (s : State) : Out :=
  if (s.tenant p t).enabled && (s.tenant p t).tdi ≠ .error then .next (writeReport s p t) else .next s

/-! ### Stopping -/

/-- Copies of a tenant that have started writing move on until they are done or cannot (R378 step 2). -/
def runStarted (mine : CopyOp → Bool) : Nat → State → State
  | 0, s => s
  | n + 1, s =>
    match s.eng.copies.findIdx? (fun c => mine c && 0 < c.moved && (c.piece s c.moved).isSome) with
    | none => s
    | some k =>
      match execCopyComplete k s with
      | .next s' =>
        let at_ (s : State) : Option (Nat × Nat) := (s.eng.copies[k]?).map (fun c => (c.id, c.moved))
        if at_ s' = at_ s then s' else runStarted mine n s'
      | _ => s

/-- Begins to stop a tenant (R378 steps 1 and 2): its operations already at their homes are performed, copies that write go on to
their end, those that stand free of a configuration also in later steps; then its launches, configurations, checkpoints, programs and nodes end, and its page requests are withdrawn. -/
def beginStop (s : State) (p t : Nat) : State :=
  let s := s.mapTenant p t (fun x => { x with tdi := .stopping })
  let cids := (s.fab.confs.filter (fun c => c.pad = p && c.ten = t)).map (·.cid)
  let s := (s.cores.tasks.filter (fun x => cids.contains x.cid)).foldl (fun s x => settle settleFuel s x.pos x.slot) s
  let mine (c : CopyOp) : Bool := c.pad = p && c.ten = t
  let s := runStarted mine (2 ^ 26) s
  let started := (s.eng.copies.filter (fun c => mine c && 0 < c.moved && !c.lost && s.mem.pages.all (fun q => !q.copies.contains c.id))).map (·.keep s)
  let progLag := (s.eng.copies.filter mine).flatMap (·.lag) ++ (s.eng.progs.filter (fun g => g.pad = p && g.ten = t)).flatMap (·.lag) ++
    (s.drv.launches.filter (fun l => l.pad = p && l.ten = t)).flatMap (fun l => l.nodes.flatMap (·.lag))
  let s := { s with
    drv := { s.drv with launches := s.drv.launches.filter (fun l => !(l.pad = p && l.ten = t))
                        notes := s.drv.notes.filter (fun n => !(n.pad = p && n.ten = t)) }
    ten := { s.ten with lag := s.ten.lag ++ progLag.map (fun l => (p, t, l)) } }
  let s := endWork s p (some t) 0 (fun _ => 0)
  { s with eng := { s.eng with copies := s.eng.copies ++ started.filter CopyOp.free } }

/-- Folds the partials of every fibre of a paddock at its home (R239, R378 step 3); flags go to ORPHF, for their contexts have
retired. -/
def foldFibres (s : State) (pad ten : Nat) : State :=
  (s.eng.fibres.filter (fun f => f.pad = pad && !f.parts.isEmpty)).foldl (fun s f =>
    match foldFibre s f (readHdr s f.key) with
    | (s, f, h, fl, _) => (if fl = 0 then s.setFibre f h else orphan (s.setFibre f h) pad ten fl)) s

/-- The writes of a tenant's ended work are performed at paddock scope (R378 step 3): those that its clusters had accepted, the old
values that its AMODs store, and the copies that had started. -/
def lastWritesDone (s : State) (p t : Nat) : Bool :=
  s.ten.lag.all (fun l => !(l.1 = p && l.2.1 = t) || !leaseLive s l.2.2.line l.2.2.at_) &&
  s.eng.units.all (fun u => !(u.pad = p && u.ten = t)) && s.fab.confs.all (fun c => !(c.pad = p && c.ten = t)) &&
  s.eng.copies.all (fun c => !(c.pad = p && c.ten = t)) && s.eng.deliveries.all (fun d => !(d.pad = p && d.ten = t)) &&
  s.mem.retired.all (fun x => !(x.task.part.toNat = p && x.task.ten.toNat = t))

/-- Ends the stop (R378 steps 3 to 5): every partial is folded, host memory is written back (R246), the report is written, and TSTAT is
STOPPED. -/
def endStop (s : State) (p t : Nat) : State :=
  let s := foldLines s ((s.mem.partials.filter (fun x => x.pad = p)).map (·.line))
  let s := foldFibres s p t
  let s := { s with ten := { s.ten with lag := s.ten.lag.filter (fun l => !(l.1 = p && l.2.1 = t)) } }
  (writeReport (writeBackAll s) p t).mapTenant p t (fun x => { x with tdi := .stopped })

/-- One step of stopping a tenant (R378). -/
def stopTenant (s : State) (p t : Nat) : State :=
  let v := s.tenant p t
  if !v.enabled then s
  else
    match v.tdi with
    | .stopped => s
    | .stopping => if lastWritesDone s p t then endStop s p t else s
    | _ => beginStop s p t

/-- STOP (R376, R378): STOPPING at the first step, STOPPED at the one that finds the last writes performed. -/
def execStop (p t : Nat) (s : State) : Out := .next (stopTenant s p t)

/-! ### Writes to a register window -/

/-- A write of 32 bits to a VF's window (R302, R345, R376, R389): the value is stored, RW1C bits written 1 are cleared; read-only
registers and what no table lists ignore it; LGO, TCTL and TCMD act. -/
def vfWrite (s : State) (p t off v : Nat) : State :=
  let set (f : Tenant → Tenant) : State := s.mapTenant p t f
  match off with
  | 0x00 => set (fun x => { x with lgraph := putHalf x.lgraph false v })
  | 0x04 => set (fun x => { x with lgraph := putHalf x.lgraph true v })
  | 0x08 => set (fun x => { x with largs := putHalf x.largs false v })
  | 0x0C => set (fun x => { x with largs := putHalf x.largs true v })
  | 0x10 => (match execLgo p t (BitVec.ofNat 32 v) s with | .next s => s | _ => s)
  | 0x20 => set (fun x => { x with lflg := x.lflg &&& (2 ^ 32 - 1 - v) })
  | 0x24 =>
    let s := set (fun x => { x with nqsize := v })
    flushNotes s.drv.notes { s with drv := { s.drv with notes := [] } }
  | 0x28 => set (fun x => { x with nqbase := putHalf x.nqbase false v })
  | 0x2C => set (fun x => { x with nqbase := putHalf x.nqbase true v })
  | 0x34 =>
    let s := set (fun x => { x with nqtail := v })
    flushNotes s.drv.notes { s with drv := { s.drv with notes := [] } }
  | 0x40 => set (fun x => { x with fabase := putHalf x.fabase false v })
  | 0x44 => set (fun x => { x with fabase := putHalf x.fabase true v })
  | 0x48 => set (fun x => { x with fasize := v })
  | 0x50 => set (fun x => { x with fatail := v })
  | 0x58 => set (fun x => { x with fpol := v % 8 })
  | 0x60 => set (fun x => { x with taddr := putHalf x.taddr false v })
  | 0x64 => set (fun x => { x with taddr := putHalf x.taddr true v })
  | 0x68 => set (fun x => { x with tctl := v })
  | 0x6C =>
    let w : Word := BitVec.ofNat 64 ((s.tenant p t).tctl + v * 2 ^ 32)
    (match execTctlResume p t w s with
    | .next s => (match execTctlAbort p t w s with | .next s => s | _ => s)
    | _ => s)
  | 0x70 => set (fun x => { x with orphf := x.orphf &&& ~~~(BitVec.ofNat 64 (v % 32)) })
  | 0x74 => set (fun x => { x with orphf := if v % 2 = 1 then BitVec.ofNat 64 (x.orphf.toNat % 2 ^ 32) else x.orphf })
  | 0x84 => if v = 1 then stopTenant s p t else if v = 2 then (match execReport p t s with | .next s => s | _ => s) else s
  | 0x88 => set (fun x => { x with dprbase := putHalf x.dprbase false v })
  | 0x8C => set (fun x => { x with dprbase := putHalf x.dprbase true v })
  | 0x90 => set (fun x => { x with dprsize := v })
  | _ => s

/-- REGISTER_WRITE (R389): an aligned write of 4 or 8 bytes, low half first. Every register of PF0's window is read-only. -/
def execRegisterWrite (fn : Option (Nat × Nat)) (off size : Nat) (v : BitVec 64) (s : State) : Out :=
  match fn with
  | none => .next s
  | some (p, t) =>
    if size = 4 ∧ off % 4 = 0 then .next (vfWrite s p t off (v.toNat % 2 ^ 32))
    else if size = 8 ∧ off % 8 = 0 then .next (vfWrite (vfWrite s p t off (v.toNat % 2 ^ 32)) p t (off + 4) (v.toNat / 2 ^ 32))
    else .next s

/-! ### TDISP and firmware -/

/-- Some tenant slot of a paddock has its TDI locked or running, or in ERROR and not yet stopped (R371, R374). -/
def Paddock.frozen (p : Paddock) : Bool := p.tenants.toList.any (fun t => t.tdi = .locked || t.tdi = .run || t.tdi = .error)

/-- A refused change to a frozen item: the TDIs that froze it enter ERROR (R374). -/
def Paddock.refuse (p : Paddock) : Paddock :=
  { p with tenants := p.tenants.map (fun t => if t.tdi = .locked ∨ t.tdi = .run then { t with tdi := .error } else t) }

/-- Two ranges of intermediate addresses overlap for some tenant (R338). -/
def RangeEnt.clash (x y : RangeEnt) : Bool :=
  x.valid && y.valid && bits (x.attr &&& y.attr).toNat 11 8 ≠ 0 && x.base < y.limit && y.base < x.limit

/-- Root firmware writes entry `i` of a range table (R338): a frozen table refuses it (R374); it never makes two valid entries
overlap for one tenant. -/
def writeRange (s : State) (pad i : Nat) (e : RangeEnt) : State :=
  match s.pad? pad with
  | none => s
  | some p =>
    let all : List RangeEnt := (p.ranges ++ List.replicate 48 ({ base := 0, limit := 0, offset := 0, attr := 0 } : RangeEnt)).take 48
    if p.frozen then s.mapPad pad Paddock.refuse
    else if 48 ≤ i || (all.zipIdx).any (fun x => x.2 ≠ i && x.1.clash e) || e.base.toNat % 2 ^ 16 ≠ 0 || e.limit.toNat % 2 ^ 16 ≠ 0 then s
    else s.mapPad pad (fun p => { p with ranges := all.set i e })

/-- Root firmware allows a function system scope, or limits it to tenant scope (R375), but not while its paddock is frozen (R374). -/
def setScope (s : State) (pad ten : Nat) (limited : Bool) : State :=
  match s.pad? pad with
  | none => s
  | some p => if p.frozen then s.mapPad pad Paddock.refuse else s.mapTenant pad ten (fun t => { t with sysScope := !limited })

/-- Another device's export check refuses a paddock's requests to a window from an offset on, or takes them again (R365): what it
does is the other device's. -/
def refuseWindow (s : State) (d : Denied) : State :=
  let rest := s.ten.denied.filter (fun x => !(x.pad = d.pad && x.dev = d.dev && x.win = d.win))
  { s with ten := { s.ten with denied := if d.reads || d.writes then rest ++ [d] else rest } }

/-- An uncorrectable error in a word of a leased copy (R348). -/
def copyError (s : State) (cluster line word : Nat) : State :=
  { s with mem := { s.mem with copies := s.mem.copies.map (fun c =>
      if c.cluster = cluster ∧ c.line = line ∧ word < 8 then { c with bad := c.bad ||| 2 ^ word } else c) } }

/-- An uncorrectable error in a unit of a pen (R348): it marks the segment or directory that stands there. -/
def unitError (s : State) (pad pos unit_ : Nat) : State :=
  let mark (held bad : List Nat) : List Nat := if held.contains unit_ && !bad.contains unit_ then bad ++ [unit_] else bad
  { s with eng := { s.eng with fibres := s.eng.fibres.map (fun f =>
      if f.pad ≠ pad then f
      else
        let f := if fibHome f.key = pos then { f with bad := mark (f.root :: f.segUnits ++ f.dirUnits) f.bad } else f
        { f with parts := f.parts.map (fun p => if p.pos = pos then { p with bad := mark p.units p.bad } else p) }) } }

/-- The words that root firmware measures into index 4 of the hub (R380): the paddock table, and the range tables and scope policies
of locked TDIs. Log 17. -/
def measuredBytes (s : State) : List Byte :=
  let held (t : Tenant) : Bool := t.tdi = .locked || t.tdi = .run
  s.ten.paddocks.flatMap (fun p => toBytes 8 p.pstat ++
    (if p.tenants.toList.any held then p.ranges.flatMap (fun r =>
      toBytes 8 r.base.toNat ++ toBytes 8 r.limit.toNat ++ toBytes 8 r.offset.toNat ++ toBytes 8 r.attr.toNat) else []) ++
    (p.tenants.toList.filter held).flatMap (fun t => toBytes 1 (if t.sysScope then 1 else 0)))

/-- The bytes that a compute die's measurements 3 and 4 cover (R380): its strips and hurdle map; its edge tiles' pens and the key
slots in use. Log 17. -/
def dieConfBytes (s : State) (d : Nat) : List Byte :=
  (List.range 16).flatMap (fun i =>
    let k := 16 * d + i
    toBytes 1 (if s.hub.excluded.contains k then 1 else 0) ++
    toBytes 2 (match s.ten.paddocks.find? (fun p => p.first ≤ k && k < p.first + p.count) with | some p => p.id | none => 0))

def diePenBytes (s : State) (d : Nat) : List Byte :=
  (s.eng.pens.filter (fun p => dieOf p.pos = d)).flatMap (fun x => toBytes 2 x.pos ++ toBytes 4 x.size ++
    toBytes 1 ((List.range 4).foldl (fun n t => if (s.tenant x.pad t).key.isSome then n + 2 ^ t else n) 0))

/-- Takes a measurement of a die into an index (R380). -/
def measure (s : State) (die index : Nat) (bs : List Byte) : State :=
  { s with hub := { s.hub with boots := s.hub.boots.modify die (fun b =>
      { b with measured := upsert (fun m => m.1 = index) (index, Config.digest bs) b.measured }) } }

/-- What root firmware measures again at a reset, a LOCK and a release (R380). -/
def remeasure (s : State) : State :=
  [0, 1, 2, 3].foldl (fun s d => measure (measure s (d + 1) 3 (dieConfBytes s d)) (d + 1) 4 (diePenBytes s d)) (measure s 0 4 (measuredBytes s))

/-- TDISP_LOCK (R368, R371, R374): fails while the paddock's mode is not 0, while its function is being reset (R385), or where the TDI is not unlocked. -/
def execTdispLock (p t : Nat) (s : State) : Out :=
  match s.pad? p with
  | none => .next s
  | some x =>
    let v := x.tenant t
    if !v.enabled || x.mode ≠ 0 || v.tdi ≠ .unlocked || v.resetting then .next s
    else
      let s := s.mapTenant p t (fun v => { v with tdi := .locked })
      .next (remeasure s)

/-- TDISP_START (R368). -/
def execTdispStart (p t : Nat) (s : State) : Out :=
  .next (s.mapTenant p t (fun v => if v.tdi = .locked then { v with tdi := .run } else v))

/-- A function's registers at their resets; its assignment to the tenant slot stays (R385). -/
def Tenant.cleared (pdrop : Nat) (v : Tenant) : Tenant :=
  { Tenant.reset with enabled := v.enabled, root := v.root, sysScope := v.sysScope, key := v.key, keyNo := v.keyNo, idleSince := v.idleSince
                      vf := v.vf, pdropAt := pdrop, fgen := (v.fgen + 1) % 2 ^ 16 }

/-- VF_FLR (R385): the tenant is stopped first, and the reset goes on once that has ended (log 1); then FGEN rises and the registers return to their resets, which releases its TDI
(R380). -/
def execVfFlr (p t : Nat) (s : State) : Out :=
  let v := s.tenant p t
  if v.enabled && v.tdi ≠ .stopped then .next ((stopTenant s p t).mapTenant p t (fun v => { v with resetting := true }))
  else .next (remeasure (s.mapTenant p t (Tenant.cleared (match s.pad? p with | some x => x.pdrop | none => 0))))

/-- An access to a host page, or a write there, is not yet performed at system scope (R246, R368). -/
def pageBusy (s : State) (g : Nat) : Bool :=
  let onPage (k : Nat) : Bool := k / 2 ^ 16 = g
  let req (r : Req) : Bool := r.keys.any (fun k => k.any onPage)
  let late (l : List Lagging) : Bool := l.any (fun l => l.line / 1024 = g && leaseLive s l.line l.at_)
  s.cores.tasks.any (fun x => (x.queue ++ x.reds).any req || late x.lag) || s.mem.retired.any (fun x => req x.req) ||
  s.mem.hostOld.any (fun c => onPage c.1) || s.eng.deliveries.any (fun d => onPage d.key) || s.mem.outside.any (fun x => x.keys.any (fun k => onPage k.1)) ||
  s.fab.confs.any (fun c => late c.lag) || s.eng.copies.any (fun c => late c.lag) || s.eng.progs.any (fun g => late g.lag) ||
  s.eng.tiles.any (fun t => match t.run with | some r => late r.lag | none => false) ||
  s.drv.launches.any (fun l => l.nodes.any (fun n => late n.lag)) || late (s.ten.lag.map (·.2.2)) || late (s.ten.posted.map (·.2.2))

/-- ATS_INVALIDATE (R368): the entry of an I/O page goes once every access that used it is performed at system scope; what the page stands
for from then on the host may have changed. -/
def execAtsInvalidate (p t page : Nat) (s : State) : Out :=
  if pageBusy s (regionKey 1 0 / 2 ^ 16 + hostPageOf s p t page) then .next s
  else
    let gen := (s.mem.atsGen.lookup (p, t, page)).getD 0
    let s := { s with mem := { s.mem with
      ats := s.mem.ats.filter (fun x => !(x.pad = p && x.ten = t && x.page = page))
      atsGen := s.mem.atsGen.filter (fun (x : (Nat × Nat × Nat) × Nat) => x.1 ≠ (p, t, page)) ++ [((p, t, page), gen + 1)] } }
    .next (s.say (.atsDone page))

/-- The fields of a paddock entry of the boot policy (R384). -/
def entBad (e : Nat) : Bool :=
  bits e 127 80 ≠ 0 || bits e 31 24 ≠ 0 || bits e 20 20 ≠ 0 || bits e 15 14 ≠ 0 || bits e 7 6 ≠ 0 || bits e 19 16 = 0 ||
  (bits e 79 64 ≠ 0 && !(10 ≤ bits e 79 64 && bits e 79 64 ≤ 10000)) || 1048576 < bits e 63 32

/-- The virtual functions that tenant slots are assigned to (R368). -/
def usedVfs (s : State) : List Nat := s.ten.paddocks.flatMap (fun p => (p.tenants.toList.filter (·.enabled)).map (·.vf))

/-- An entry that root firmware skips (R384): a reserved or non-zero zero field, a run past strip 63, an overlap, an excluded
strip or one of a die that has stopped (R387), pens larger than the edge tile's memory, more slots than the 64 functions serve (R368). -/
def entSkipped (s : State) (e : Nat) : Bool :=
  let first := bits e 5 0
  let count := bits e 13 8 + 1
  entBad e || 64 < first + count || tileBytes < bits e 63 32 * 1024 ||
  s.ten.paddocks.any (fun p => first < p.first + p.count && p.first < first + count) ||
  s.hub.excluded.any (fun k => first ≤ k && k < first + count) || s.hub.dead.any (fun d => dieOfStrip first ≤ d && d ≤ dieOfStrip (first + count - 1)) ||
  64 ≤ s.ten.paddocks.length || 64 < (usedVfs s).length + ((List.range 4).filter (fun t => bits e 19 16 / 2 ^ t % 2 = 1)).length

/-- The least number that a list does not hold. -/
def leastFree (l : List Nat) (start : Nat) : Nat :=
  (((List.range (l.length + 1)).map (fun i => start + i)).find? (fun i => !l.contains i)).getD start

/-- A tenant slot as root firmware enables it: its root table at an intermediate address of its own (log 20), a fresh key
(R373) with its number, its scope policy (R375). -/
def newTenant (slot : Nat) (key : BitVec 256) (keyNo : Nat) (limited : Bool) (now vf : Nat) : Tenant :=
  { Tenant.reset with enabled := true, root := slot * 2 ^ 16, sysScope := !limited, key := some key, keyNo := keyNo, idleSince := now, vf := vf }

/-- A function that has been assigned before goes on from the generation and the stale responses that it was left with (R369). -/
def Tenant.takeUp (s : State) (t : Tenant) : Tenant :=
  match s.ten.vfs.find? (fun x => x.1 = t.vf) with
  | some x => { t with fgen := (x.2.1 + 1) % 2 ^ 16, stalepr := x.2.2 }
  | none => t

/-- The four tenant slots of a new paddock, those of the mask enabled: each takes the lowest function that is free, whose generation
is one higher and whose count of stale responses goes on when it was assigned before (R368, R369). -/
def newTenants (s : State) (mask : Nat) (limited : List Nat) : List Tenant :=
  (List.range 4).foldl (fun (l : List Tenant) i =>
    if mask / 2 ^ i % 2 = 0 then l ++ [Tenant.reset]
    else
      let vf := leastFree (usedVfs s ++ (l.filter (·.enabled)).map (·.vf)) 0
      l ++ [(newTenant i (Config.freshKey (s.ctl.fresh + i)) (s.ctl.ids + i) (limited.contains i) s.ctl.now vf).takeUp s]) []

/-- The range entries of a list that root firmware enters beside others: aligned, and never two that overlap for one tenant (R338). -/
def enterRanges (l : List RangeEnt) : List RangeEnt → List RangeEnt
  | [] => l
  | e :: es =>
    enterRanges (if l.any (RangeEnt.clash e) || e.base.toNat % 2 ^ 16 ≠ 0 || e.limit.toNat % 2 ^ 16 ≠ 0 then l else l ++ [e]) es

/-- The paddock of an entry (R373, R384), with the range entry of its own memory (log 20) and those that root firmware adds. -/
def makePaddock (s : State) (e : Nat) (ranges : List RangeEnt) (limited : List Nat) : State :=
  let first := bits e 5 0
  let count := bits e 13 8 + 1
  let mask := bits e 19 16
  let id := leastFree (s.ten.paddocks.map (·.id)) 1
  let place := leastFree (s.ten.paddocks.map (·.place)) 0
  let ts := newTenants s mask limited
  let tens : Vector Tenant 4 := Vector.ofFn (fun i => ts.getD i.val Tenant.reset)
  let own : RangeEnt := { base := 0, limit := BitVec.ofNat 64 (count * 4 * tileBytes), offset := BitVec.ofNat 64 (first * 4 * tileBytes)
                          attr := BitVec.ofNat 64 (7 + mask * 256) }
  let p : Paddock := { id := id, first := first, count := count, mode := bits e 23 22, addressBound := bits e 21 21 = 1
                       drlim := if bits e 79 64 = 0 then 100 else bits e 79 64, pen := bits e 63 32, mask := mask
                       active := ((List.range 4).find? (fun t => mask / 2 ^ t % 2 = 1)).getD 0, leaving := false, restoring := false, seq := 0, place := place
                       ranges := (enterRanges [own] ranges).take 48, tenants := tens, tracing := false, cap := 0, trace := [], traceDrops := 0
                       foldLoss := 0, pdrop := 0, ended := false }
  let tiles := (List.range count).flatMap (fun k => (List.range 4).map (fun q => edgePos (first + k) q))
  { s with
    ctl := { s.ctl with fresh := s.ctl.fresh + 4, ids := s.ctl.ids + 4 }
    ten := { s.ten with paddocks := s.ten.paddocks ++ [p]
                        vfs := s.ten.vfs.filter (fun (x : Nat × Nat × Nat) => !ts.any (fun t => t.enabled && t.vf = x.1)) }
    eng := { s.eng with pens := s.eng.pens ++ tiles.map (fun pos => { pad := id, pos := pos, size := bits e 63 32 }) } }

/-- A range table entry of 32 bytes (R338). -/
def rangeOf (r : BitVec 256) : RangeEnt :=
  { base := r.extractLsb' 0 64, limit := r.extractLsb' 64 64, offset := r.extractLsb' 128 64, attr := r.extractLsb' 192 64 }

/-- An entry of the window export table that names nothing (R365). -/
def Export.none : Export := { pad := 0, base := 0, len := 0, importers := [], write := false }

/-- New entries take the places of the export table that name nothing, then places at its end; every window keeps its number (R365). -/
def addExports (l : List Export) : List Export → List Export
  | [] => l
  | e :: es =>
    match l.findIdx? (fun x => x = Export.none) with
    | some k => addExports (l.set k e) es
    | none => addExports (if l.length < 32 then l ++ [e] else l) es

/-- PADDOCK_CREATE (R384): after READY, at PF0's request, under the rules of a boot policy entry; with the range entries, the
tenant slots limited to tenant scope (R375) and the windows that root firmware exports for it (R365). -/
def execPaddockCreate (ent : BitVec 128) (ranges : List (BitVec 256)) (limited : List Nat)
    (exports : List (Nat × Nat × List (Nat × Nat) × Bool)) (s : State) : Out :=
  if !s.hub.ready || entSkipped s ent.toNat then .next s
  else
    let s' := makePaddock s ent.toNat (ranges.map rangeOf) limited
    let id := leastFree (s.ten.paddocks.map (·.id)) 1
    let es := exports.map (fun e => ({ pad := id, base := e.1, len := e.2.1, importers := e.2.2.1, write := e.2.2.2 } : Export))
    .next { s' with ten := { s'.ten with exports := addExports s'.ten.exports es } }

/-- The bytes of a paddock's strips. -/
def padCell (p : Paddock) (c : Host.Cell) : Bool :=
  regionOf c.1 = 0 && p.first * 4 * tileBytes ≤ offsetOf c.1 && offsetOf c.1 < (p.first + p.count) * 4 * tileBytes

/-- PADDOCK_TEARDOWN (R322, R373, R384): refused while a TDI holds the paddock frozen (R374); else its work ends, its nodes are
cancelled, its memory is filled with zeros and its strips are free; the release is measured (R380). -/
def execPaddockTeardown (p : Nat) (s : State) : Out :=
  match s.pad? p with
  | none => .next s
  | some x =>
    if x.frozen then .next (s.mapPad p Paddock.refuse)
    else
      let s := { s with drv := { s.drv with launches := s.drv.launches.filter (fun l => l.pad ≠ p)
                                            notes := s.drv.notes.filter (fun n => n.pad ≠ p)
                                            texts := s.drv.texts.filter (fun t => t.pad ≠ p) } }
      let s := endWork s p none 0 (fun _ => 0)
      let keep (k : Nat) : Bool := !padCell x (k, 0)
      .next <| remeasure { s with
        ten := { s.ten with paddocks := s.ten.paddocks.filter (fun y => y.id ≠ p), exports := s.ten.exports.map (fun e => if e.pad = p then Export.none else e)
                            vfs := s.ten.vfs ++ (x.tenants.toList.filter (·.enabled)).map (fun t => (t.vf, t.fgen, t.stalepr))
                            lag := s.ten.lag.filter (fun l => l.1 ≠ p), posted := s.ten.posted.filter (fun l => l.1 ≠ p) }
        eng := { s.eng with pens := s.eng.pens.filter (fun y => y.pad ≠ p), fibres := s.eng.fibres.filter (fun f => f.pad ≠ p)
                            deliveries := s.eng.deliveries.filter (fun d => d.pad ≠ p) }
        mem := { s.mem with
          bytes := s.mem.bytes.filter (fun c => !padCell x c), poison := s.mem.poison.filter (fun w => keep (8 * w))
          l2 := s.mem.l2.filter (fun x => keep (64 * x.line)), under := s.mem.under.filter (fun u => keep (64 * u.1))
          tlb := s.mem.tlb.filter (fun e => e.pad ≠ p), pages := (s.mem.pages.filter (fun q => q.pad ≠ p || q.asked)).map (fun q =>
            if q.pad = p then { q with pad := 2 ^ 16, stale := true } else q)
          sealed := s.mem.sealed.filter (fun x => keep (64 * x.1)), retired := s.mem.retired.filter (fun x => x.task.part.toNat ≠ p)
          outside := s.mem.outside.filter (fun x => x.keys.all (fun k => keep k.1))
          partials := s.mem.partials.filter (fun q => q.pad ≠ p), tables := s.mem.tables.filter (fun q => q.pad ≠ p)
          samples := s.mem.samples.filter (fun q => q.pad ≠ p), packed := s.mem.packed.filter (fun q => q.2 ≠ p)
          packMeta := s.mem.packMeta.filter (fun q => keep (256 * q.1)), moved := s.mem.moved.filter (fun m => keep (64 * m.1))
          ats := s.mem.ats.filter (fun a => a.pad ≠ p) } }

/-- The pages of a tenant are filled with zeros (R373). -/
def wipePages (s : State) (pad ten : Nat) : State :=
  match s.pad? pad with
  | none => s
  | some p =>
    (tenantLeaves s pad ten).foldl (fun s l =>
      match stage2 s p ten (bits l.2.2.2 55 8 * 256) false false with
      | .ok k _ => if regionOf k = 0 then wipe s k (2 ^ (16 + (if l.2.1 = 3 then 0 else if l.2.1 = 2 then 5 else 14))) else s
      | _ => s) s

/-- VF_REASSIGNMENT (R369, R373): refused while the slot is frozen (R374) or its tenant still has work; else the old key is
erased, the old tenant's pages are zeros, and the function starts anew with FGEN one higher; the release is measured (R380). A slot that
is not enabled takes the lowest function that is free, and releases nothing. -/
def execVfReassignment (p t : Nat) (s : State) : Out :=
  match s.pad? p with
  | none => .next s
  | some x =>
    let v := x.tenant t
    let busy := s.drv.launches.any (fun l => l.pad = p && l.ten = t) || s.fab.confs.any (fun c => c.pad = p && c.ten = t) ||
      s.drv.ckpts.any (fun k => k.conf.pad = p && k.conf.ten = t)
    if x.frozen then .next (s.mapPad p Paddock.refuse)
    else if busy || 4 ≤ t || (!v.enabled && 64 ≤ (usedVfs s).length) then .next s
    else
      let s := wipePages s p t
      let (n, s) := s.draw
      let (no, s) := s.newId
      let s := { s with mem := { s.mem with tlb := s.mem.tlb.filter (fun e => !(e.pad = p && e.ten = t)) } }
      let fresh (vf : Nat) : Tenant := { newTenant t (Config.freshKey n) no (!v.sysScope) s.ctl.now vf with pdropAt := x.pdrop }
      if v.enabled then
        .next (remeasure (s.mapTenant p t (fun _ => { fresh v.vf with fgen := (v.fgen + 1) % 2 ^ 16, stalepr := v.stalepr })))
      else
        let new := (fresh (leastFree (usedVfs s) 0)).takeUp s
        let s := { s with ten := { s.ten with vfs := s.ten.vfs.filter (fun (x : Nat × Nat × Nat) => x.1 ≠ new.vf) } }
        .next ((s.mapPad p (fun x => { x with mask := x.mask ||| 2 ^ t })).mapTenant p t (fun _ => new))

/-- SERVICE_MODE_CHANGE (R371): only while no configuration, NNODE or checkpoint of the paddock exists; no mode but 0 while a
TDI is locked or running. -/
def execServiceModeChange (p mode : Nat) (s : State) : Out :=
  match s.pad? p with
  | none => .next s
  | some x =>
    let work := s.fab.confs.any (fun c => c.pad = p) || s.eng.units.any (fun u => u.pad = p) || s.drv.ckpts.any (fun k => k.conf.pad = p)
    if work || 4 ≤ mode || (x.frozen && mode ≠ 0) then .next s else .next (s.mapPad p (fun x => { x with mode := mode }))

/-- TRACE_ENABLE (R112): on with a buffer of a capacity, or off. Either way the buffer and its count of drops start empty: the spec is
silent, log 46. -/
def execTraceEnable (p : Nat) (on : Bool) (cap : Nat) (s : State) : Out :=
  .next (s.mapPad p (fun x => { x with tracing := on, cap := cap, trace := [], traceDrops := 0 }))

/-! ### Other devices, moving pages, PACKED tables -/

/-- The bytes that a request covers, and whether it writes. -/
def opBytes (op : RemoteOp) : Nat :=
  match op with
  | .read n => n
  | .write bs => bs.length
  | .amo _ size _ _ | .red _ size _ => size
  | .merge _ _ => 64
def opWrites (op : RemoteOp) : Bool := match op with | .read _ => false | _ => true

/-- Firmware assigns the device its number, 0 to 2,047 (R364). -/
def numberDevice (s : State) (n : Nat) : State := if n < 2048 then { s with ten := { s.ten with device := n } } else s

/-- REMOTE_REQUEST (R365): a request of paddock `pad`, tenant slot `ten`, of device `dev` at an offset of an exported window; refused
unless the export allows it, else served at the home in the exporting paddock. A window is another device's to import (R364): a request
in this device's own number is refused, log 40. -/
def execRemoteRequest (dev pad ten win off : Nat) (op : RemoteOp) (s : State) : Out :=
  let refuse := s.say (.remoteData dev none 0)
  match s.ten.exports[win]? with
  | none => .next refuse
  | some e =>
    match s.pad? e.pad with
    | none => .next refuse
    | some p =>
      let a := p.first * 4 * tileBytes + e.base + off
      let n := opBytes op
      if dev = s.ten.device || !e.importers.contains (dev, pad) || (opWrites op && !e.write) || e.len < off + n || (p.first + p.count) * 4 * tileBytes < a + n then
        .next refuse
      else .next (arriveOutside s (.device dev) (whoOf e.pad ten) op ((lineCuts (n / 64 + 2) a n).map (fun c => (regionKey 0 c.1, c.2))))

/-- The accesses to a device that a request still has in flight, lane by lane (R143, R366). -/
def Req.toDevice (dev : Nat) (r : Req) : Nat :=
  (r.keys.filter (fun k => match k with | some k => regionOf k = 3 && remoteDevice k = dev | none => false)).length

/-- One record for the accesses of each ended configuration that the loss of a device has completed (R366). -/
def recordRetired (dev : Nat) (l : List Retired) (s : State) : State :=
  ((l.map (·.task.cid)).eraseDups).foldl (fun s cid =>
    match l.filter (fun x => x.task.cid = cid) with
    | [] => s
    | x :: xs => (writeRecord s x.task.part.toNat x.task.ten.toNat
        { code := 0x15, sub := 2, cfg := x.task.cfg.toNat, extra := BitVec.ofNat 64 ((x :: xs).map (fun y => y.req.toDevice dev)).sum }).1) s

/-- LINK_DOWN (R366): translations of the device go, its accesses in flight complete with REMOTE subcode 2 and end their
configurations, and later accesses are refused. Those of a configuration that has ended are dropped and recorded, log 40. -/
def execLinkDown (dev : Nat) (s : State) : Out :=
  let s := { s with mem := { s.mem with rtc := s.mem.rtc.filter (fun r => r.dev ≠ dev) }
                    ten := { s.ten with downRoutes := if s.ten.downRoutes.contains dev then s.ten.downRoutes else s.ten.downRoutes ++ [dev] } }
  let gone (d : Delivery) : Bool := bits d.word.toNat 63 62 = 2 && regionOf d.key = 3 && remoteDevice d.key = dev
  let count (c : Conf) : Nat := ((s.cores.tasks.filter (fun t => t.cid = c.cid)).map (fun t =>
    ((t.queue ++ t.reds).map (Req.toDevice dev)).sum)).sum + (s.eng.deliveries.filter (fun d => gone d && d.cid = c.cid)).length
  let cs := s.fab.confs.filter (fun c => count c ≠ 0)
  let s := recordRetired dev (s.mem.retired.filter (fun x => x.req.toDevice dev ≠ 0))
    { s with eng := { s.eng with deliveries := s.eng.deliveries.filter (fun d => !gone d) } }
  let s := cs.foldl (fun s c => confFault s c.cid { code := 0x15, sub := 2, extra := BitVec.ofNat 64 (count c) }) s
  .next { s with mem := { s.mem with retired := s.mem.retired.filter (fun x => x.req.toDevice dev = 0) } }

/-- ROUTE_RESTORE (R366). -/
def execRouteRestore (dev : Nat) (s : State) : Out :=
  .next { s with ten := { s.ten with downRoutes := s.ten.downRoutes.filter (fun d => d ≠ dev) } }

/-- The units of a list in the order of another list's. -/
def movedUnits (olds news l : List Nat) : List Nat := l.map (fun u => ((olds.zip news).lookup u).getD u)

/-- The engine storage of a live fibre header moves with its line: its units come from the new home's pen (log 14), and its scans
go on there (R155, R367). None when that pen has too few. -/
def moveFibre (s : State) (old new : Nat) : Option State :=
  match s.eng.fibres.find? (fun f => lineOf f.key = old) with
  | none => some s
  | some f =>
    let k := new * 64
    let stays := fibHome f.key = fibHome k
    let need := if stays || regionOf k ≠ 0 then 0 else f.units.length
    if penFree s f.pad (fibHome k) < need then none
    else
      let (news, s) := drawUnits (penSize s f.pad (fibHome k)) need (penTaken s f.pad (fibHome k)) s
      let mv := movedUnits f.units news
      let g := { f with key := k, root := (mv [f.root]).getD 0 0, segUnits := mv f.segUnits, dirUnits := mv f.dirUnits
                        spareSegs := mv f.spareSegs, spareDirs := mv f.spareDirs, bad := mv f.bad }
      let s := { s with eng := { s.eng with
        fibres := replaceFirst (fun x => x.key = f.key) g s.eng.fibres
        scans := s.eng.scans.map (fun (c : Scan) => if lineOf c.key = old then { c with key := k } else c) }
                        drv := { s.drv with ckpts := s.drv.ckpts.map (fun (x : Ckpt) => { x with
        scans := x.scans.map (fun (c : Scan) => if lineOf c.key = old then { c with key := k } else c) }) } }
      some (s.packWrite (k + 32) (toBytes 8 g.root))

/-- The slot that uses a line (`whoOf`): whose key has encrypted it, else that of its set in its slice (R372, R373). -/
def lineUser (s : State) (line : Nat) : Nat :=
  let slots := s.ten.paddocks.flatMap (fun p => (List.range 4).map (whoOf p.id))
  match s.mem.sealed.lookup line, homeOf (line * 64) with
  | some n, _ => (slots.find? (fun w => s.keyOf w = n)).getD 0
  | none, some tile => whoOf ((s.ownerOf tile).elim 0 (·.id)) ((s.mem.l2.find? (fun x => x.line = line)).elim 0 (fun x => x.set / 2 ^ 10 % 4))
  | none, none => 0

/-- PAGE_MIGRATE (R367): one line, with its partial folded, its timestamps, its poison and its fibre, moves to a new home and is
marked moved at the old one. -/
def execPageMigrate (old new : Nat) (s : State) : Out :=
  if (movedTo s (old * 64)).isSome || old = new || parked s (old * 64) || parked s (new * 64) || (moveFibre s old new).isNone then .next s
  else
    let s := foldLine s old
    let bs := readBytes s.mem.bytes (old * 64) 64
    let bad := (List.range 8).filter (fun i => s.mem.poison.contains (old * 8 + i))
    let t := s.line old
    let s := (touchL2 s (lineUser s old) new true).homeWrite (new * 64) bs
    let s := bad.foldl (fun s i => s.taint (new * 64 + 8 * i) 8) s
    let s := { s with mem := { s.mem with sealed := (s.mem.sealed.filter (fun (x : Nat × Nat) => x.1 ≠ new)) ++
      (match s.mem.sealed.lookup old with | some t => [(new, t)] | none => []) } }
    let s := s.setLine { t with line := new }
    let s := (moveFibre s old new).getD s
    .next { s with mem := { s.mem with moved := s.mem.moved ++ [(old, new)] } }

/-- DIE_CROSSING_LOST (R349): FATAL subcode 2 in every paddock that spans the boundary between dies b and b + 1. -/
def execDieCrossingLost (b : Nat) (s : State) : Out :=
  .next ((s.ten.paddocks.filter (fun p => dieOfStrip p.first ≤ b && b < dieOfStrip (p.first + p.count - 1))).foldl
    (fun s p => paddockFault s p.id 0x3F 2) s)

/-- The blocks of a paddock on a die that a table slot codes (R223). -/
def codedWith (s : State) (p die num : Nat) : List Nat :=
  (s.mem.packMeta.filter (fun m => m.2 / 8 = num && dieOf (homeTile (m.1 * 256)) = die &&
    s.mem.packed.any (fun g => g.1 = m.1 * 256 / 2 ^ 16 && g.2 = p))).map (·.1)

/-- The `n` most frequent values of a sampling, ties to the lower value (R226). -/
def topValues : Nat → List Sample → List Nat
  | 0, _ => []
  | n + 1, l =>
    match l.foldl (fun (m : Option Sample) x => match m with
      | none => some x
      | some y => if y.n < x.n || (y.n = x.n && x.val < y.val) then some x else some y) none with
    | none => []
    | some y => y.val :: topValues n (l.filter (fun x => x.val ≠ y.val))

/-- The 255 symbols of a new table: sampled values, then the lowest values not sampled. -/
def tableSymbols (s : State) (p die : Nat) : List Nat :=
  let top := topValues 255 (s.mem.samples.filter (fun x => x.pad = p && x.die = die))
  top ++ ((List.range 512).filter (fun v => !top.contains v)).take (255 - top.length)

/-- Lengths from 1 to 15 that keep the prefix property (R224, R226). -/
def lengthsOk (ls : List Nat) : Bool :=
  ls.length = 256 && ls.all (fun l => 1 ≤ l && l ≤ 15) && (ls.foldl (fun n l => n + 2 ^ (15 - l)) 0) ≤ 2 ^ 15

/-- Firmware starts a sampling phase when no block of the paddock on the die uses the slot that is not current any more (R226); its
resampling interval is the time that it lets pass between phases. -/
def startSampling (s : State) (p die : Nat) : State :=
  let left := match currentTable s p die with | some t => codedWith s p die (1 - t.num) | none => []
  if s.mem.phases.contains (p, die) || !left.isEmpty then s
  else { s with mem := { s.mem with phases := s.mem.phases ++ [(p, die)] } }

/-- PACKED_TABLE_UPDATE (R226): at the end of a sampling phase the new table goes into the slot that is not current and becomes current; refused when its
lengths break the prefix property; not before the sweep of that slot is done. -/
def execPackedTableUpdate (p die : Nat) (lengths : List Nat) (s : State) : Out :=
  let cur := currentTable s p die
  let num := match cur with | some t => 1 - t.num | none => 0
  if !lengthsOk lengths || !s.mem.phases.contains (p, die) || (cur.isSome && !(codedWith s p die num).isEmpty) then .next s
  else
    let t : CodeTable := { pad := p, die := die, num := num, current := true
                           lens := (tableSymbols s p die ++ [65536]).zip lengths }
    let others := (s.mem.tables.filter (fun x => !(x.pad = p && x.die = die && x.num = num))).map (fun x =>
      if x.pad = p ∧ x.die = die then { x with current := false } else x)
    .next { s with mem := { s.mem with tables := others ++ [t]
                                       phases := s.mem.phases.filter (fun x => x ≠ (p, die))
                                       samples := s.mem.samples.filter (fun x => !(x.pad = p && x.die = die)) } }

/-- PACKED_SWEEP (R226): blocks that still use the slot that is not current are coded with the current table. -/
def execPackedSweep (p die : Nat) (s : State) : Out :=
  match currentTable s p die with
  | none => .next s
  | some t =>
    .next ((codedWith s p die (1 - t.num)).foldl (fun s b => setMeta s b (blockMeta (some t) (blockEls s b))) s)

end Sys2Proof.Machine
end

