-- ==== Sys2Proof/Machine/Image.lean ====
section
/-! DEFINITION. Loading an image: the Dorip Object Format (R83 to R85), what the loader rejects (R87), and what it places. -/

namespace Sys2Proof.Machine

/-! ### The file -/

/-- A little-endian field of a file (R83). -/
def fileField (f : List Byte) (off n : Nat) : Nat := ofBytes ((f.drop off).take n)

/-- A section entry (R84). -/
structure DofSection where
  type : Nat
  align : Nat
  flags : Nat
  aux : Nat
  offset : Nat
  len : Nat
  deriving DecidableEq, Repr

/-- A symbol entry (R84). -/
structure DofSymbol where
  kind : Nat
  sect : Nat
  value : Nat
  len : Nat
  deriving DecidableEq, Repr

/-- A relocation (R85) with the section it patches. -/
structure DofReloc where
  sect : Nat
  off : Nat
  sym : Nat
  type : Nat
  shift : Nat
  pos : Nat
  zero : Nat
  addend : Nat
  deriving DecidableEq, Repr

def dofSectionAt (f : List Byte) (a : Nat) : DofSection :=
  { type := fileField f (a + 8) 1, align := fileField f (a + 9) 1, flags := fileField f (a + 10) 2, aux := fileField f (a + 12) 4
    offset := fileField f (a + 16) 8, len := fileField f (a + 24) 8 }

/-- The section table. -/
def dofSections (f : List Byte) : List DofSection :=
  (List.range (fileField f 10 2)).map (fun i => dofSectionAt f (fileField f 16 8 + 32 * i))

/-- The symbols of the `.sym` section that the header names: the entries before its string area. -/
def dofSymbols (f : List Byte) : List DofSymbol :=
  match (dofSections f)[fileField f 28 2]? with
  | none => []
  | some c => (List.range (min c.aux c.len / 24)).map (fun i =>
      let a := c.offset + 24 * i
      { kind := fileField f (a + 4) 1, sect := fileField f (a + 6) 2, value := fileField f (a + 8) 8, len := fileField f (a + 16) 8 })

/-- Every relocation of the file, section by section. -/
def dofRelocs (f : List Byte) : List DofReloc :=
  ((dofSections f).filter (fun c => c.type = 10)).flatMap (fun c => (List.range (c.len / 24)).map (fun i =>
    let a := c.offset + 24 * i
    { sect := c.aux, off := fileField f a 8, sym := fileField f (a + 8) 4, type := fileField f (a + 12) 1
      shift := fileField f (a + 13) 1, pos := fileField f (a + 14) 1, zero := fileField f (a + 15) 1, addend := fileField f (a + 16) 8 }))

/-- A section without file bytes (R84). -/
def DofSection.zeroFill (c : DofSection) : Bool := bits c.flags 0 0 = 1

/-- A section that the loader maps: TYPE 1 to 8, not the `.sym` and `.rel` sections. Log 56. -/
def DofSection.mapped (c : DofSection) : Bool := 1 ≤ c.type && c.type ≤ 8

/-- What R87 rejects of the header. -/
def dofHeaderBad (f : List Byte) : Bool :=
  fileField f 0 4 ≠ 0x00464F44 || fileField f 4 2 ≠ 1 || fileField f 6 2 ≠ 2 || fileField f 8 2 ≠ 1 || fileField f 12 2 ≠ 32 ||
  fileField f 14 2 / 2 ≠ 0 || fileField f 30 2 ≠ 0 || fileField f 40 24 ≠ 0

/-- What R87 rejects of a section: a non-zero zero field, an unallocated TYPE, contents beyond SIZE. -/
def DofSection.bad (size : Nat) (c : DofSection) : Bool :=
  c.type = 0 || 11 < c.type || c.flags / 2 ≠ 0 || (c.type ≠ 9 && c.type ≠ 10 && c.aux ≠ 0) || (!c.zeroFill && size < c.offset + c.len)

/-- What R87 rejects of a relocation: another type, or a non-zero zero field. -/
def DofReloc.bad (r : DofReloc) : Bool :=
  !([1, 3, 4, 5].contains r.type) || r.zero ≠ 0 || (r.type ≠ 4 && r.shift ≠ 0) || r.pos ≠ 0

/-- A file that cannot be read as R83 to R85 describe: shorter than its SIZE or its section table, a relocation of a missing
section, of a place beyond its section, or of a symbol that the file does not define. Log 44. -/
def dofUnreadable (f : List Byte) : Bool :=
  let cs := dofSections f
  let ys := dofSymbols f
  let size := fileField f 32 8
  f.length < size || size < 64 || size < fileField f 16 8 + 32 * cs.length ||
  (dofRelocs f).any (fun r =>
    match cs[r.sect]?, ys[r.sym]? with
    | some c, some y => c.len < r.off + (if r.type = 1 ∨ r.type = 5 then 8 else 4) ||
        (c.mapped && !(y.sect = 0xFFFE || (match cs[y.sect]? with | some d => d.mapped | none => false)))
    | _, _ => true)

/-- The loader rejects the image (R87). -/
def dofRejected (f : List Byte) : Bool :=
  dofHeaderBad f || (dofSections f).any (DofSection.bad (fileField f 32 8)) || (dofRelocs f).any DofReloc.bad || dofUnreadable f

/-! ### Placing -/

/-- A relocation patched into its 64-bit or 32-bit word (R85): S + A, or 16 bits of it into IMM [24:9]. -/
def DofReloc.patch (r : DofReloc) (s old : Nat) : List Byte :=
  let v := (s + r.addend) % 2 ^ 64
  let imm (x : Nat) : List Byte := toBytes 4 (old % 2 ^ 9 + x * 2 ^ 9 + bits old 31 25 * 2 ^ 25)
  if r.type = 3 then imm (v % 2 ^ 16)
  else if r.type = 4 then imm (v / 2 ^ (16 * r.shift) % 2 ^ 16)
  else toBytes 8 v

/-- Contents of a list of bytes with some replaced. -/
def spliceBytes (bs : List Byte) (off : Nat) (new : List Byte) : List Byte := bs.take off ++ new ++ bs.drop (off + new.length)

/-- A task range as the linker gives it: the section and the offset of a task's MAIN word, the section and the offset of its first
header, its words, its first word address (R390). -/
abbrev LinkRange := Nat × Nat × Nat × Nat × Nat × Nat

/-- The word address of a block at an offset of a section, in the range of its task (R390). -/
def blockWord (ranges : List LinkRange) (sect off : Nat) : Option Nat :=
  (ranges.find? (fun (r : LinkRange) => r.2.2.1 = sect && r.2.2.2.1 ≤ off && off < r.2.2.2.1 + 4 * r.2.2.2.2.1)).map
    (fun (r : LinkRange) => r.2.2.2.2.2 + (off - r.2.2.2.1) / 4)

/-- The S of a relocation (R85): a symbol's address; for a BLOCK symbol the word address of its block (R390). -/
def DofSymbol.addr (y : DofSymbol) (bases : List Nat) (ranges : List LinkRange) : Nat :=
  if y.sect = 0xFFFE then y.value
  else
    match (if y.kind = 1 then blockWord ranges y.sect y.value else none) with
    | some w => w
    | none => bases.getD y.sect 0 + y.value

/-- The bytes of section `i` as they are placed: the file's or zeros, with its relocations applied. -/
def sectionBytes (f : List Byte) (bases : List Nat) (ranges : List LinkRange) (i : Nat) (c : DofSection) : List Byte :=
  let raw := if c.zeroFill then List.replicate c.len 0 else (f.drop c.offset).take c.len
  ((dofRelocs f).filter (fun r => r.sect = i)).foldl (fun bs r =>
    let y := (dofSymbols f).getD r.sym { kind := 0, sect := 0xFFFE, value := 0, len := 0 }
    spliceBytes bs r.off (r.patch (y.addr bases ranges) (ofBytes ((bs.drop r.off).take 4)))) raw

/-- The memory keys of a section, line by line, under the tenant's tables; none when a page is not there, is an NM page (R326),
or is writable under `.rodata` (R87). -/
def sectionKeys (s : State) (p t va n : Nat) (readOnly : Bool) : Option (List (Nat × Nat)) :=
  let ks := (lineCuts (n / 64 + 2) va n).map (fun c =>
    let writable := match (translate s p t none none c.1 false true).2 with | .ok _ _ => true | _ => false
    match (translate s p t none none c.1 false false).2 with
    | .ok k a => if a % 2 = 1 || (readOnly && writable) then none else (followMoves s 8 k).map (fun k => (k, c.2))
    | _ => none)
  if ks.any (·.isNone) then none else some (ks.filterMap id)

/-- The packets of a section that a hurdle drops (R370), one for each line. -/
def sectionDrops (s : State) (p t va n : Nat) : Nat :=
  ((lineCuts (n / 64 + 2) va n).filter (fun c => (translate s p t none none c.1 false false).2 = .dropped)).length

/-- Pairs of a `.fibre` entry after its header record: coordinate and value, 4 bytes each. Log 43. -/
def pairsOf (bs : List Byte) : Nat → List (Nat × Nat)
  | 0 => []
  | n + 1 => (ofBytes (bs.take 4), ofBytes ((bs.drop 4).take 4)) :: pairsOf (bs.drop 8) n

/-- Lists of at most eight. -/
def batches {α : Type} : Nat → List α → List (List α)
  | 0, _ => []
  | n + 1, l => if l.isEmpty then [] else l.take 8 :: batches n (l.drop 8)

/-- The key of a fibre's header, where its line now is (R367). -/
def headerKey (s : State) (p t va : Nat) : Option Nat :=
  match (translate s p t none none va false false).2 with
  | .ok k _ => followMoves s 8 k
  | _ => none

/-- Creates a fibre from its header record by the rules of FNEW (R87 step 3). A refusal leaves the record as it is. Log 43. -/
def placeFibre (s : State) (p t va : Nat) : State × Bool :=
  match headerKey s p t va with
  | some k =>
    let b : Word := BitVec.ofNat 64 (s.read (k + 0x10) 4 + s.read (k + 0x16) 2 * 2 ^ 32)
    match fibNew s p k va b with
    | (s, .error _) => (s, false)
    | (s, .ok _) => (s, true)
  | none => (s, false)

/-- Merges the pairs of a fibre just created, in batches of eight, by the rules of VFMRG in mode combine at its home (R87 step 3). Log
43. -/
def placePairs (s : State) (p t va : Nat) (pairs : List (Nat × Nat)) : State :=
  match headerKey s p t va with
  | some k => (batches (pairs.length + 1) pairs).foldl (fun s l => (fibMerge s k (dieOf (fibHome k)) 0 l).1) s
  | none => s

/-- Every header is created, then the pairs of those that were are merged (R87 step 3). -/
def placeFibres (s : State) (p t : Nat) (fibres : List (Nat × List (Nat × Nat))) : State :=
  let r := fibres.foldl (fun (r : State × List (Nat × List (Nat × Nat))) f =>
    let q := placeFibre r.1 p t f.1
    (q.1, if q.2 then r.2 ++ [f] else r.2)) (s, [])
  r.2.foldl (fun s f => placePairs s p t f.1 f.2) r.1

/-- The sections that the loader maps, with their numbers. -/
def mappedSections (f : List Byte) : List (DofSection × Nat) := (dofSections f).zipIdx.filter (fun c => c.1.mapped)

/-- The leaves that map a section (R335), each by the key at which its page starts and the log2 of its bytes. -/
def sectionLeaves (s : State) (p t va n : Nat) : List (Nat × Nat) :=
  match s.pad? p with
  | none => []
  | some x => ((pagesOf va n).filterMap (fun g =>
      match walkFrom s x t (g * 2 ^ 16) (x.tenant t).root walkLevels, (translate s p t none none (g * 2 ^ 16) false false).2 with
      | .leaf _ _ size, .ok k _ => some (k - g * 2 ^ 16 % 2 ^ size, size)
      | _, _ => none)).eraseDups

/-- Two sections share a page, a larger leaf's or one physical page that two leaves map (R87 step 1). -/
def sharePages (s : State) (p t : Nat) (bases : List Nat) (x y : DofSection × Nat) : Bool :=
  let leaves (c : DofSection × Nat) : List (Nat × Nat) := if c.1.len = 0 then [] else sectionLeaves s p t (bases.getD c.2 0) c.1.len
  x.2 ≠ y.2 && (leaves x).any (fun a => (leaves y).any (fun b => a.1 < b.1 + 2 ^ b.2 && b.1 < a.1 + 2 ^ a.2))

/-- IMAGE_LOAD (R87, R390): the pages that host and root firmware provide are entered, every section is placed at its base, on
pages of its own and `.rodata` read-only, with its relocations applied, and every fibre is created; `ranges` names the task ranges
that the linker gave. A rejected image, or one that cannot be mapped, or of which a line waits (R320, R321) or holds a live fibre header,
places nothing; packets that a hurdle drops are counted (R370). Logs 6, 43, 44, 56. -/
def execImageLoad (p t : Nat) (file : List (BitVec 8)) (bases : List Nat) (entries : List (Nat × BitVec 64))
    (ranges : List (Nat × Nat × Nat × Nat × Nat × Nat)) (s : State) : Out :=
  if !(s.tenant p t).enabled || dofRejected file then .next s
  else
    let s' := writeEntries s p t entries
    let cs := mappedSections file
    let keys := cs.map (fun c => sectionKeys s' p t (bases.getD c.2 0) c.1.len (c.1.type = 6))
    let misplaced := cs.any (fun c => bases.getD c.2 0 % 2 ^ c.1.align ≠ 0 || cs.any (sharePages s' p t bases c))
    let waits := keys.any (fun k => match k with | some l => l.any (fun x => !mayPass s' x.1 7 0 || liveHeader s' x.1) | none => true)
    if misplaced || waits then .next (s.countDrops p ((cs.map (fun c => sectionDrops s' p t (bases.getD c.2 0) c.1.len)).sum))
    else
      let s := (cs.zip keys).foldl (fun s x => (writeKeys s (whoOf p t) 0 (x.2.getD []) (sectionBytes file bases ranges x.1.2 x.1.1)).1) s'
      let fibres := (dofSymbols file).filter (fun y => y.kind = 6 && y.sect < (dofSections file).length)
      let s := placeFibres s p t (fibres.map (fun y =>
        let c := (dofSections file).getD y.sect { type := 0, align := 0, flags := 0, aux := 0, offset := 0, len := 0 }
        let bs := (sectionBytes file bases ranges y.sect c).drop (y.value + 64)
        (bases.getD y.sect 0 + y.value, pairsOf bs ((y.len - 64) / 8))))
      let texts := ranges.map (fun r =>
        ({ pad := p, ten := t, word := bases.getD r.1 0 + r.2.1, va := bases.getD r.2.2.1 0 + r.2.2.2.1, words := r.2.2.2.2.1
           first := r.2.2.2.2.2 } : TextRange))
      let old := s.drv.texts.filter (fun x => !(x.pad = p && x.ten = t && texts.any (fun y => y.word = x.word)))
      .next { s with drv := { s.drv with texts := old ++ texts } }

end Sys2Proof.Machine
end

