-- ==== Sys2Proof/Machine/Area.lean ====
section
/-! DEFINITION. The bytes of a checkpoint in its paddock's area, which lies outside every address space (R355, R356, R361). R356 gives
the parts of a record and their order; where it gives no width, a number takes 8 bytes (log 38). -/

namespace Sys2Proof.Machine

def w8 (n : Nat) : List Byte := toBytes 8 n
def words8 (l : List Word) : List Byte := l.flatMap (fun x => w8 x.toNat)

/-- A record (R356): KIND, SLOT, column offset, ROW, length, AUX, and its body, filled to a multiple of 8 bytes. -/
def areaRecord (c : Conf) (kind slot pos aux : Nat) (body : List Byte) : List Byte :=
  let body := body ++ List.replicate ((8 - body.length % 8) % 8) 0
  toBytes 1 kind ++ toBytes 1 slot ++ toBytes 1 (colOf pos - 2 * c.strip0) ++ toBytes 1 (rowOf pos) ++ toBytes 4 body.length ++ w8 aux ++ body

/-- A saved token (R356): 8 bytes of port or link number and plane, with the marks of a null and of a poisoned one, then the token. -/
def areaToken (num : Nat) (t : Tok) : List Byte :=
  let data := match t with | .data _ _ => true | _ => false
  toBytes 4 num ++ toBytes 2 (if data then 1 else 0) ++ toBytes 2 ((if t.isNull then 1 else 0) + (if t.poisoned then 2 else 0)) ++
    (if data then toBytes 64 t.vec.toNat else w8 t.word.toNat)

def areaOperand (t : Option Tok) : List Byte := match t with | none => w8 0 | some t => w8 1 ++ areaToken 0 t

/-- The state of R14 in a TASK record. -/
def TaskSt.code : TaskSt → Nat
  | .idle => 0
  | .ready => 1
  | .running => 2
  | .yielded => 3
  | .faulted => 4

/-- A held frame: the block address, the fired mask, the outputs, the chain's links and the held operands. -/
def areaFrame (f : Frame) : List Byte :=
  w8 f.hdr ++ w8 (f.ins.zipIdx.foldl (fun n x => if x.1.fired = .notYet then n else n + 2 ^ x.2) 0) ++ w8 f.outs ++
  f.chain.flatMap (fun o => w8 (o.q + 32 * o.p + 128 * o.d + 512 * o.idx)) ++
  f.ins.flatMap (fun x => areaOperand x.a ++ areaOperand x.b ++ areaOperand x.c)

def Ckpt.input? (k : Ckpt) (e : Ep) : Option Input := k.inputs.find? (fun i => i.ep = e)

/-- The ports of a task that hold tokens. -/
def areaPorts (k : Ckpt) (t : Task) : List Byte :=
  t.ports.flatMap (fun p => match k.input? (portEp t.pos p.num) with
    | some i => i.toks.flatMap (fun x => areaToken p.num x.1)
    | none => [])

def areaTask (k : Ckpt) (t : Task) : List Byte :=
  areaRecord k.conf 0x01 t.slot t.pos (t.st.code + 16 * t.pass)
    (words8 [t.lnk, t.flg, t.rm, t.pts] ++ w8 t.bound ++ words8 [t.rnglo, t.rnghi, t.steal, t.scope] ++ words8 t.shp.toList ++
      words8 t.perf.toList ++ words8 t.g.toList ++ t.v.toList.flatMap (fun x => toBytes 64 x.toNat) ++
      (match t.frame with | some f => areaFrame f | none => []) ++ areaPorts k t)

/-- The KIND of R69. -/
def ElemKind.code : ElemKind → Nat
  | .cnt => 1
  | .steer => 2
  | .merge => 3
  | .repl => 4
  | .win => 5
  | .maxr => 6
  | .dly => 7
  | .cvt => 8
  | .xfm => 9
  | .mem => 10
  | .join => 11

/-- An element: counters, pass position, delay lines, FIFO tokens, partial block. -/
def areaElem (k : Ckpt) (e : Elem) : List Byte :=
  areaRecord k.conf 0x02 e.slot e.pos e.kind.code
    (w8 e.passes ++ w8 e.i ++ w8 e.j ++ w8 (if e.inner then 1 else 0) ++ w8 (if e.own then 1 else 0) ++ e.toks.flatMap (areaToken 0) ++
      e.out.flatMap (fun x => areaToken x.1 x.2) ++ e.lanes.flatMap w8 ++ areaOperand e.pat ++ w8 (match e.sel with | some n => n + 1 | none => 0) ++
      e.buf.flatMap (fun b => w8 b.off ++ toBytes 64 b.val.toNat))

/-- A matrix tile (R285, R361): accumulators, claimed slots in rising order, poison marks, SEQN, the running command's word and step,
its place, the stream tokens it holds. -/
def areaTile (k : Ckpt) (t : Tile) : List Byte :=
  let r := t.run.getD { word := 0, step := 0, tokens := [], byte := 0, row := 0, entry := 0, addr := none, lag := [] }
  areaRecord k.conf 0x03 0 t.pos t.claimed
    (readBytes k.cells (cellKey t.pos 0 0 0) 65536 ++
      ((List.range 32).filter (fun q => t.claimed / 2 ^ q % 2 = 1)).flatMap (fun q => readBytes k.cells (slotKey t.pos q 0) 4096) ++
      toBytes 256 (t.badRows.foldl (fun n x => n ||| 2 ^ x) 0) ++ toBytes 2048 (t.badCells.foldl (fun n x => n ||| 2 ^ x) 0) ++
      w8 t.seqn ++ w8 r.word.toNat ++ w8 r.step ++ w8 r.row ++ w8 r.byte ++ w8 r.entry ++ w8 (match r.addr with | some a => a.toNat | none => 0) ++
      r.tokens.flatMap (fun v => toBytes 64 v.toNat))

/-- The channel of an input (R351, R361): a task's port tokens stand in its TASK record. -/
def areaChan (k : Ckpt) (i : Input) : List Byte :=
  let held := if i.ep.cls = .pe then [] else i.toks.map (·.1)
  match held ++ i.chan, k.links.findIdx? (fun l => l.dst = i.ep) with
  | t :: ts, some n => areaRecord k.conf 0x04 (i.ep.idx / 8 % 256) i.ep.pos n ((t :: ts).flatMap (areaToken n))
  | _, _ => []

/-- The handle of an open ring, with the first PE of its cluster (R294). -/
def Ring.handle (r : Ring) : Nat := 0xFE * 2 ^ 56 + 2 ^ 55 + clusterTile (r.key / 2 ^ 20) * 2 ^ 32 + r.key % 2 ^ 20

def areaBank (k : Ckpt) (b : Bank) : List Byte :=
  let base := windowKey b.cluster (b.num * 2 ^ 15)
  let rings := k.rings.filter (fun r => r.inBank b.cluster b.num)
  let bound (b : RingBind) : Nat := match b with | .none => 0 | .copies _ => 1 | .stream _ => 2 | .scan _ => 3
  areaRecord k.conf 0x05 (b.cluster % 10) (clusterTile b.cluster) b.num
    (readBytes k.cells base (2 ^ 15) ++ (if b.mode = 2 then
      rings.flatMap (fun r => w8 r.handle ++ w8 (r.slots + 256 * (r.size / 64)) ++ w8 r.w ++ w8 r.c ++ w8 r.r ++ w8 (bound r.bind)) else []))

/-- The withheld accesses of a frame. -/
def areaPend (k : Ckpt) (t : Task) : List (List Byte) :=
  match t.frame with
  | none => []
  | some f => f.chain.filterMap (fun o => match o.st with
    | .withheld _ _ _ => some (areaRecord k.conf 0x06 t.slot t.pos o.q
        (w8 (readNat k.cells (storeKey t.pos (f.hdr + 1 + o.idx)) 4) ++ areaOperand o.a ++ areaOperand o.b ++ areaOperand o.c))
    | _ => none)

/-- The 128 barriers of a PE, each with the phase records of its 16 slots. -/
def areaBars (k : Ckpt) (pos : Nat) : List Byte :=
  areaRecord k.conf 0x07 0 pos pos ((List.range 128).flatMap (fun n =>
    let b := (k.bars.find? (fun b => b.pos = pos && b.num = n)).getD
      { pos := pos, num := n, count := 1, arr := 0, phase := 0, rem := false, recs := [], touched := 0, turn := 0
        pts := 0, past := 0 }
    toBytes 4 b.count ++ toBytes 4 b.arr ++ toBytes 4 b.phase ++ toBytes 4 (if b.rem then 1 else 0) ++
      (List.range 16).flatMap (fun q => w8 (match b.recs.find? (fun r => r.1 = q) with | some r => r.2 + 2 ^ 32 | none => 0))))

/-- An AG program: its address, the index of the word that it has reached, its loop counters and bases, and where it stands in a tile. -/
def areaProg (k : Ckpt) (g : AgProg) : List Byte :=
  areaRecord k.conf 0x08 0 g.pos g.place (w8 g.start.toNat ++ w8 ((g.pc - g.start).toNat / 8) ++
    g.loops.toList.flatMap (fun l => w8 (match l with | some n => n + 1 | none => 0)) ++
    g.adv.flatMap (fun x => w8 x.1.toNat ++ w8 x.2.1.toNat ++ w8 x.2.2.toNat) ++ w8 g.tile ++ g.left.flatMap (fun v => toBytes 64 v.toNat))

def areaScan (k : Ckpt) (c : Scan) : List Byte := areaRecord k.conf 0x08 c.slot c.pos 0 (w8 c.next ++ w8 c.hi ++ w8 c.ring ++ w8 c.key)

def areaCopy (k : Ckpt) (c : CopyOp) : List Byte :=
  areaRecord k.conf 0x08 c.slot c.pos c.g (words8 [c.src, c.dst, c.shape])

/-- The records of a checkpoint, kind after kind (R356). -/
def Ckpt.records (k : Ckpt) : List (List Byte) :=
  k.tasks.map (areaTask k) ++ k.elems.map (areaElem k) ++ k.tiles.map (areaTile k) ++
  (k.inputs.map (areaChan k)).filter (fun r => !r.isEmpty) ++ (k.banks.filter (fun b => b.mode ≠ 0)).map (areaBank k) ++
  k.tasks.flatMap (areaPend k) ++ ((k.tasks.map (·.pos) ++ k.bars.map (·.pos)).eraseDups).map (areaBars k) ++
  k.progs.map (areaProg k) ++ k.scans.map (areaScan k) ++ k.copies.map (areaCopy k) ++
  (k.inputs.filter (fun i => i.plane = .pulse)).map (fun i => areaRecord k.conf 0x09 0 i.ep.pos i.ep.idx (w8 i.pulses))

/-- The header of a checkpoint (R355); the area holds `graph`, the handle of its launch's graph. -/
def Ckpt.header (k : Ckpt) (graph : Word) (rs : List (List Byte)) : List Byte :=
  [0x51, 0x43, 0x4B, 0x50] ++ toBytes 2 1 ++ toBytes 1 k.why ++ toBytes 1 0 ++ toBytes 2 k.conf.ident ++ toBytes 1 k.conf.strip0 ++
  toBytes 1 k.conf.strips ++ toBytes 4 rs.length ++ w8 (64 + rs.flatten.length) ++ w8 graph.toNat ++ toBytes 2 k.conf.node ++
  toBytes 1 k.conf.ten ++ toBytes 1 0 ++ toBytes 4 k.conf.flags ++ toBytes 4 (k.tasks.flatMap (areaPend k)).length ++ toBytes 4 0 ++
  w8 k.cycles ++ w8 0

/-- The bytes of a checkpoint (R355, R356). -/
def Ckpt.image (k : Ckpt) (graph : Word) : List Byte := k.header graph k.records ++ k.records.flatten

/-- The checkpoint areas of a paddock (R355): the image of every checkpoint of its configurations, in their order. -/
def checkpointArea (s : State) (pad : Nat) : List (List Byte) :=
  (s.drv.ckpts.filter (fun k => k.conf.pad = pad)).map (fun k =>
    k.image (match s.launch? k.conf.launch with | some l => l.graph | none => 0))

end Sys2Proof.Machine
end

