-- ==== Sys2Proof/Machine/Bringup.lean ====
section
/-! DEFINITION. Bring-up from power-on to READY (R381 to R384), resets after it (R385), power and heat (R386, R387), and the
side-band port (R380, R388). -/

namespace Sys2Proof.Machine

/-! ### Images and measurements -/

/-- Whether a die accepts an image (R382); whether the signature verifies is a fact of the image. Log 17. -/
def DieBoot.accepts (b : DieBoot) (f : Firmware) : Bool := f.keyHash = b.keyHash && f.sigOk && b.version ≤ f.version

/-- The image that a reset verifies for an index: the one that came by PLDM firmware update, else the one of before; whether
its fuse is to rise (R382, R388). -/
def DieBoot.candidate (b : DieBoot) (index : Nat) : Option (Firmware × Bool) :=
  match b.pending.find? (fun p => p.1 = index) with
  | some p => some p.2
  | none => (b.images.find? (fun p => p.1 = index)).map (fun p => (p.2, false))

def State.mapBoot (s : State) (die : Nat) (f : DieBoot → DieBoot) : State :=
  { s with hub := { s.hub with boots := s.hub.boots.modify die f } }

/-- The boot policy record of R384 in a root firmware body: whether AUTO holds, and the entries. Log 45. -/
def policyOf (body : List Byte) : Bool × List (BitVec 128) :=
  if fileField body 0 4 ≠ 0x4C504251 ∨ fileField body 4 2 ≠ 1 then (true, [])
  else (fileField body 8 4 % 2 = 1,
    (List.range (min 64 (fileField body 6 2))).map (fun e => BitVec.ofNat 128 (fileField body (16 + 16 * e) 16)))

/-- Verifies and measures the image of an index on a die (R382): none when the die rejects it. A die without an image of its own
runs the factory's, which it accepts. Log 17. -/
def verifyImage (s : State) (die index : Nat) : Option State :=
  match s.hub.boots[die]? with
  | none => none
  | some b =>
    match b.candidate index with
    | none => some (measure s die index [])
    | some (f, fuse) =>
      if !b.accepts f then none
      else
        let s := s.mapBoot die (fun b => { b with
          images := upsert (fun p => p.1 = index) (index, f) b.images
          pending := b.pending.filter (fun p => p.1 ≠ index)
          version := if fuse then max b.version f.version else b.version })
        let s := measure s die index f.body
        if die = 0 ∧ index = 2 then
          let p := policyOf f.body
          some { s with hub := { s.hub with auto := p.1, policy := p.2 } }
        else some s

/-! ### The steps of R381 -/

/-- Bring-up ends (R382): BOOTERR names the die and the step, and the die stays in its boot ROM. -/
def bootFail (s : State) (die step : Nat) : State :=
  let s := s.mapBoot die (fun b => { b with inRom := true })
  { s with hub := { s.hub with bootDie := die + 1, bootStep := step } }

/-- A step has ended on every die. -/
def stageDone (s : State) (n : Nat) : State := { s with hub := { s.hub with stage := n } }

/-- Verifies the images of an index on dies in turn; the first that rejects ends bring-up. -/
def verifyOn (index step : Nat) : List Nat → State → State
  | [], s => stageDone s step
  | d :: ds, s =>
    match verifyImage s d index with
    | some s => verifyOn index step ds s
    | none => bootFail s d step

/-- Strips excluded because they own a failed pseudo-channel (R383). -/
def excludedBy (failed : List Nat) : List Nat := ((failed.map (· / 16)).filter (fun k => k < 64)).eraseDups

/-- Maximal runs of strips not excluded: first strip and count (R384). -/
def stripRuns (excluded : List Nat) : List (Nat × Nat) :=
  (List.range 64).foldl (fun l k =>
    if excluded.contains k then l
    else
      match l.getLast? with
      | some (a, n) => if a + n = k then l.dropLast ++ [(a, n + 1)] else l ++ [(k, 1)]
      | none => [(k, 1)]) []

/-- The entry that AUTO makes of a run (R384): slot 0 only, clone-capable tweak, normal service, the default limit, pens of
262,144 units. -/
def autoEntry (r : Nat × Nat) : Nat := r.1 + (r.2 - 1) * 2 ^ 8 + 2 ^ 16 + 262144 * 2 ^ 32

/-- Creates the paddocks of a list of entries, and notes the skipped ones (R384). -/
def createPaddocks : List Nat → Nat → State → State
  | [], _, s => s
  | e :: es, i, s =>
    if entSkipped s e then createPaddocks es (i + 1) { s with hub := { s.hub with skipMask := s.hub.skipMask ||| 2 ^ i } }
    else createPaddocks es (i + 1) (makePaddock s e [] [])

/-- Step 6 (R381): the paddock table is built, the pseudo-channels are filled with zeros, READY is set. -/
def finishBoot (s : State) : State :=
  let es := if s.hub.auto then (stripRuns s.hub.excluded).map autoEntry else s.hub.policy.map (·.toNat)
  let s := createPaddocks es 0 s
  let s := s.zero (regionKey 0 0) (256 * tileBytes)
  let s := remeasure s
  { s with hub := { s.hub with ready := true, stage := 6 } }

/-- The boot ROM of every compute die measures itself as it starts (R380, R382). -/
def startDies (s : State) : State := [1, 2, 3, 4].foldl (fun s d => measure s d 1 []) s

/-- A step of R381, on a state whose steps before it have all ended. -/
def bootStep (n : Nat) (s : State) : State :=
  if s.hub.stage + 1 ≠ n ∨ s.hub.bootDie ≠ 0 then s
  else
    match n with
    | 1 => stageDone (measure s 0 1 []) 1
    | 2 => verifyOn 2 2 [0] s
    | 3 => verifyOn 2 3 [1, 2, 3, 4] (startDies s)
    | 4 => stageDone { s with hub := { s.hub with excluded := excludedBy s.hub.failed } } 4
    | 5 => verifyOn 3 5 [0] s
    | _ => finishBoot s

/-- POWER_ON_RESET (R381 to R384): step 1 of bring-up; the steps after it follow one by one, to READY or to the step that fails.
`failed` names the pseudo-channels that fail training, counted over the device. -/
def execPowerOnReset (failed : List Nat) (s : State) : Out :=
  if s.hub.stage ≠ 0 then .next s else .next (bootStep 1 { s with hub := { s.hub with failed := failed } })

/-- The next step of a bring-up that has begun and has not reached READY (R381). -/
def bootNext (s : State) : State := if s.hub.stage = 0 ∨ 6 ≤ s.hub.stage then s else bootStep (s.hub.stage + 1) s

/-- BOOT_STEP_TIMEOUT (R381): the steps before `stage` have ended, and `stage` passes its limit on a die that does it. Step 1 has
no limit; the compute dies do step 3, the hub the others. -/
def execBootStepTimeout (die stage : Nat) (s : State) : Out :=
  if stage < 2 ∨ 6 < stage ∨ (stage = 3 ∧ (die = 0 ∨ 4 < die)) ∨ (stage ≠ 3 ∧ die ≠ 0) ∨ stage ≠ s.hub.stage + 1 ∨ s.hub.bootDie ≠ 0 then .next s
  else .next (bootFail (if stage = 3 then startDies s else s) die stage)

/-- A PCIe configuration request (R381, R382): to be asked again until step 6 has ended; where bring-up has failed PF0 answers. -/
def configRequest (s : State) : State := s.say (.configAnswer (s.hub.stage < 6 && s.hub.bootDie = 0))

/-! ### The side-band port -/

/-- The side-band port answers (R381): from step 1 onward. -/
def Hub.answers (h : Hub) : Bool := 1 ≤ h.stage || h.bootDie ≠ 0

/-- SPDM_REQUEST (R380, R382): a die answers for itself, in its own identity, with a measurement; a die in its boot ROM with index 1 only. -/
def execSpdmRequest (die index : Nat) (s : State) : Out :=
  match s.hub.boots[die]? with
  | none => .next s
  | some b =>
    if !s.hub.answers then .next s
    else
      let v := if b.inRom ∧ index ≠ 1 then none else (b.measured.find? (fun m => m.1 = index)).map (·.2)
      .next (s.say (.spdm die index v b.identity))

/-- The temperature byte of a die lies within bounds (R387, R389). -/
def senseDie (s : State) (die lo hi : Nat) : State :=
  let s := sense s
  let t := s.hub.temp.toNat
  let b := t / 256 ^ die % 256
  { s with hub := { s.hub with temp := BitVec.ofNat 32 (t - b * 256 ^ die + max lo (min hi b) * 256 ^ die) } }

/-- The junction thresholds of a die (R387). -/
def Hub.limits (h : Hub) (die : Nat) : Nat × Nat := h.thresholds.getD die (105, 115)

/-- Firmware sets a die's thresholds, up to 105 and 115 °C (R387). -/
def setThresholds (s : State) (die first second : Nat) : State :=
  if 105 < first ∨ 115 < second then s
  else { s with hub := { s.hub with thresholds := s.hub.thresholds.modify die (fun _ => (first, second)) } }

/-- PLDM_MONITOR (R388): temperatures, rail currents, package power, HSTAT, the skip mask (R384) and the paddock states. -/
def execPldmMonitor (s : State) : Out :=
  if !s.hub.answers then .next s
  else
    let (n, s) := (sense s).draw
    let h := s.hub
    .next (s.say (.monitor h.hstat h.pwr.toNat (Config.sensor n).toNat h.temp.toNat h.skipMask (s.ten.paddocks.map (fun p => BitVec.ofNat 64 p.pstat))))

/-- PLDM_FIRMWARE_UPDATE (R382, R388): the image waits for the next reset; `fuse` asks for its version to be fused then. -/
def execPldmFirmwareUpdate (die index keyHash version : Nat) (sigOk : Bool) (body : List (BitVec 8)) (fuse : Bool) (s : State) : Out :=
  if !s.hub.answers ∨ (index ≠ 2 ∧ !(die = 0 ∧ index = 3)) then .next s
  else
    let f : Firmware := { keyHash := keyHash, version := version, sigOk := sigOk, body := body }
    .next (s.mapBoot die (fun b => { b with pending := upsert (fun p => p.1 = index) (index, f, fuse) b.pending }))

/-! ### Resets -/

/-- The enabled tenants of the device. -/
def allTenants (s : State) : List (Nat × Nat) :=
  s.ten.paddocks.flatMap (fun p => ((List.range 4).filter (fun t => (p.tenant t).enabled)).map (fun t => (p.id, t)))

/-- The device as it restarts at step 1 (R385): fuses and images stay, and what lies outside the device. -/
def restart (s : State) : State :=
  { State.reset with
    ctl := s.ctl
    mem := { State.reset.mem with
      bytes := s.mem.bytes.filter (fun c => regionOf c.1 = 1 || regionOf c.1 = 3)
      poison := s.mem.poison.filter (fun w => regionOf (8 * w) = 1 || regionOf (8 * w) = 3) }
    ten := { State.reset.ten with device := s.ten.device }
    hub := { State.reset.hub with
      policy := s.hub.policy, auto := s.hub.auto, out := s.hub.out ++ [.linkDown]
      boots := s.hub.boots.map (fun b => { b with measured := [], inRom := false }) } }

/-- PF_RESET (R385): every tenant of the device is stopped by R378, all at once, and the reset goes on by itself (log 1); then every link reports link-down and the device
restarts. -/
def execPfReset (s : State) : Out :=
  let left := (allTenants s).filter (fun x => (s.tenant x.1 x.2).tdi ≠ .stopped)
  if left.isEmpty then .next (restart s)
  else .next (left.foldl (fun s x => stopTenant s x.1 x.2) { s with hub := { s.hub with resetting := true } })

/-! ### Power and heat -/

/-- Throttling begins, or goes on for one more reason; it skips up to 15 of every 16 cycles (R386). Log 19. -/
def throttle (s : State) : State :=
  let (n, s) := s.draw
  { s with hub := { s.hub with skip := (Config.skips n).val + 1 } }

/-- Throttling ends when nothing asks for it. -/
def unthrottle (s : State) : State := if s.hub.throttled then s else { s with hub := { s.hub with skip := 0 } }

/-- The package power reaches 3,600 W, or the core-rail current averaged over 1 ms reaches 6,000 A, and throttling begins; or both are
below again (R386). -/
def powerLimit (on : Bool) (s : State) : State :=
  let s := { sense s with hub := { (sense s).hub with atLimit := on } }
  if on then throttle s else unthrottle s

/-- POWER_SURGE_LIMIT (R386): a surge above 6,000 A has lasted 10 µs. -/
def execPowerSurgeLimit (s : State) : Out :=
  let s := sense s
  .next (throttle { s with hub := { s.hub with surge := true } })

/-- CURRENT_BELOW_LIMIT (R386). -/
def execCurrentBelowLimit (s : State) : Out :=
  let s := sense s
  .next (unthrottle { s with hub := { s.hub with surge := false } })

/-- THERMAL_THRESHOLD_1 (R387): a die's junction is above its first threshold. -/
def execThermalThreshold1 (die : Nat) (s : State) : Out :=
  if 4 ≤ die then .next s
  else
    let s := senseDie s die ((s.hub.limits die).1 + 1) 255
    .next (throttle { s with hub := { s.hub with hot := if s.hub.hot.contains die then s.hub.hot else s.hub.hot ++ [die] } })

/-- JUNCTION_BELOW_THRESHOLD (R387): the die is 5 °C below its first threshold. -/
def execJunctionBelowThreshold (die : Nat) (s : State) : Out :=
  let s := senseDie s die 0 ((s.hub.limits die).1 - 5)
  .next (unthrottle { s with hub := { s.hub with hot := s.hub.hot.filter (fun d => d ≠ die) } })

/-- The row units of a die spill (R324). -/
def spillDie (s : State) (die : Nat) : State :=
  (List.range s.eng.units.length).foldl (fun s k =>
    if (s.eng.units[k]?).any (fun u => dieOfStrip (u.pch / 16) = die) then
      (match execNmSpill k s with | .next s => s | _ => s)
    else s) s

/-- THERMAL_THRESHOLD_2 (R387): every paddock that holds a strip of the die ends with FATAL subcode 3; then its channels enter
self-refresh until a reset, and THERM is set. -/
def execThermalThreshold2 (die : Nat) (s : State) : Out :=
  if 4 ≤ die then .next s
  else
    let s := senseDie s die ((s.hub.limits die).2 + 1) 255
    let ps := s.ten.paddocks.filter (fun p => dieOfStrip p.first ≤ die && die ≤ dieOfStrip (p.first + p.count - 1))
    let s := ps.foldl (fun s p => (paddockFault s p.id 0x3F 3).mapPad p.id (fun p => { p with ended := true })) s
    let s := spillDie s die
    .next { s with hub := { s.hub with therm := true, dead := if s.hub.dead.contains die then s.hub.dead else s.hub.dead ++ [die] } }

end Sys2Proof.Machine
end

