-- ==== Sys2Proof/Machine/Dispatch.lean ====
section
/-! DEFINITION. The dispatch of every instruction and step to its meaning: one arm per constructor of `Instr`. -/

namespace Sys2Proof.Machine

/-- What an instruction does at the site in `ctl.focus`, or what an event of the device does. -/
def exec (i : Instr) (s : State) : Host.Outcome State Fault Refusal :=
  match i with
  | .br o => Sys2Proof.Machine.execBr o s
  | .call o => Sys2Proof.Machine.execCall o s
  | .ybr o => Sys2Proof.Machine.execYbr o s
  | .brx => Sys2Proof.Machine.execBrx s
  | .callx => Sys2Proof.Machine.execCallx s
  | .ret => Sys2Proof.Machine.execRet s
  | .tend => Sys2Proof.Machine.execTend s
  | .trap => Sys2Proof.Machine.execTrap s
  | .bkpt => Sys2Proof.Machine.execBkpt s
  | .get g t u => Sys2Proof.Machine.execGet g t u s
  | .movi n u => Sys2Proof.Machine.execMovi n u s
  | .movhi n u => Sys2Proof.Machine.execMovhi n u s
  | .flowMov t u => Sys2Proof.Machine.execFlowMov t u s
  | .steerD t u => Sys2Proof.Machine.execSteerD t u s
  | .steerN t u => Sys2Proof.Machine.execSteerN t u s
  | .flowMerge t u => Sys2Proof.Machine.execFlowMerge t u s
  | .flowNull t u => Sys2Proof.Machine.execFlowNull t u s
  | .flowJoin t u => Sys2Proof.Machine.execFlowJoin t u s
  | .sel t u => Sys2Proof.Machine.execSel t u s
  | .recv p e t u => Sys2Proof.Machine.execRecv p e t u s
  | .arrive b t u => Sys2Proof.Machine.execArrive b t u s
  | .arriveRlx b t u => Sys2Proof.Machine.execArriveRlx b t u s
  | .wait b t u => Sys2Proof.Machine.execWait b t u s
  | .barcfg b t u => Sys2Proof.Machine.execBarcfg b t u s
  | .rarrive e t u => Sys2Proof.Machine.execRarrive e t u s
  | .remoteArrivalApply k => Sys2Proof.Machine.execRemoteArrivalApply k s
  | .rnext t u => Sys2Proof.Machine.execRnext t u s
  | .stealRequest k => Sys2Proof.Machine.execStealRequest k s
  | .stealReply k => Sys2Proof.Machine.execStealReply k s
  | .getx x t u => Sys2Proof.Machine.execGetx x t u s
  | .putx x t u => Sys2Proof.Machine.execPutx x t u s
  | .ialu w c t u => Sys2Proof.Machine.execIalu w c t u s
  | .addi n u => Sys2Proof.Machine.execAddi n u s
  | .andi n u => Sys2Proof.Machine.execAndi n u s
  | .ori n u => Sys2Proof.Machine.execOri n u s
  | .xori n u => Sys2Proof.Machine.execXori n u s
  | .shli n u => Sys2Proof.Machine.execShli n u s
  | .shri n u => Sys2Proof.Machine.execShri n u s
  | .sari n u => Sys2Proof.Machine.execSari n u s
  | .cmpeqi n u => Sys2Proof.Machine.execCmpeqi n u s
  | .cmplti n u => Sys2Proof.Machine.execCmplti n u s
  | .cmpltui n u => Sys2Proof.Machine.execCmpltui n u s
  | .muli n u => Sys2Proof.Machine.execMuli n u s
  | .falu f c t u => Sys2Proof.Machine.execFalu f c t u s
  | .faluDyn c t u => Sys2Proof.Machine.execFaluDyn c t u s
  | .cvt d src h a m u => Sys2Proof.Machine.execCvt d src h a m u s
  | .cvtx d src u => Sys2Proof.Machine.execCvtx d src u s
  | .bmode t u => Sys2Proof.Machine.execBmode t u s
  | .mshape n f t u => Sys2Proof.Machine.execMshape n f t u s
  | .acopy g t u => Sys2Proof.Machine.execAcopy g t u s
  | .copyStart k => Sys2Proof.Machine.execCopyStart k s
  | .ringReserve k => Sys2Proof.Machine.execRingReserve k s
  | .copyComplete k => Sys2Proof.Machine.execCopyComplete k s
  | .rbwait src t u => Sys2Proof.Machine.execRbwait src t u s
  | .rbrel t u => Sys2Proof.Machine.execRbrel t u s
  | .rbopen t u => Sys2Proof.Machine.execRbopen t u s
  | .rbclose t u => Sys2Proof.Machine.execRbclose t u s
  | .ldb q p d o u => Sys2Proof.Machine.execLdb q p d o u s
  | .ldbz q p d o u => Sys2Proof.Machine.execLdbz q p d o u s
  | .ldh q p d o u => Sys2Proof.Machine.execLdh q p d o u s
  | .ldhz q p d o u => Sys2Proof.Machine.execLdhz q p d o u s
  | .ldw q p d o u => Sys2Proof.Machine.execLdw q p d o u s
  | .ldwz q p d o u => Sys2Proof.Machine.execLdwz q p d o u s
  | .ldd q p d o u => Sys2Proof.Machine.execLdd q p d o u s
  | .stb q p d o => Sys2Proof.Machine.execStb q p d o s
  | .sth q p d o => Sys2Proof.Machine.execSth q p d o s
  | .stw q p d o => Sys2Proof.Machine.execStw q p d o s
  | .std q p d o => Sys2Proof.Machine.execStd q p d o s
  | .memoryIssue pe slot => Sys2Proof.Machine.execMemoryIssue pe slot s
  | .loadResponse pe slot cached => Sys2Proof.Machine.execLoadResponse pe slot cached s
  | .amo q p d c z e u => Sys2Proof.Machine.execAmo q p d c z e u s
  | .amoCas q p d z e u => Sys2Proof.Machine.execAmoCas q p d z e u s
  | .amod q p d c z => Sys2Proof.Machine.execAmod q p d c z s
  | .amodDelivery k => Sys2Proof.Machine.execAmodDelivery k s
  | .red q p d c z e => Sys2Proof.Machine.execRed q p d c z e s
  | .partialLineEvict k => Sys2Proof.Machine.execPartialLineEvict k s
  | .fence q p d e j u => Sys2Proof.Machine.execFence q p d e j u s
  | .fprb q p d u => Sys2Proof.Machine.execFprb q p d u s
  | .fins q p d m => Sys2Proof.Machine.execFins q p d m s
  | .fnew q p d u => Sys2Proof.Machine.execFnew q p d u s
  | .fdel q p d u => Sys2Proof.Machine.execFdel q p d u s
  | .fclr q p d u => Sys2Proof.Machine.execFclr q p d u s
  | .fcnt q p d u => Sys2Proof.Machine.execFcnt q p d u s
  | .fseal q p d u => Sys2Proof.Machine.execFseal q p d u s
  | .funseal q p d u => Sys2Proof.Machine.execFunseal q p d u s
  | .fstat q p d u => Sys2Proof.Machine.execFstat q p d u s
  | .glaunch t u => Sys2Proof.Machine.execGlaunch t u s
  | .note t u => Sys2Proof.Machine.execNote t u s
  | .perf t u => Sys2Proof.Machine.execPerf t u s
  | .waitt t u => Sys2Proof.Machine.execWaitt t u s
  | .waittExpire pe slot idx => Sys2Proof.Machine.execWaittExpire pe slot idx s
  | .fscan t u => Sys2Proof.Machine.execFscan t u s
  | .fscanSlot k => Sys2Proof.Machine.execFscanSlot k s
  | .vget v t u => Sys2Proof.Machine.execVget v t u s
  | .splat w t u => Sys2Proof.Machine.execSplat w t u s
  | .vext w l t u => Sys2Proof.Machine.execVext w l t u s
  | .vflowMov t u => Sys2Proof.Machine.execVflowMov t u s
  | .vflowSteerD t u => Sys2Proof.Machine.execVflowSteerD t u s
  | .vflowSteerN t u => Sys2Proof.Machine.execVflowSteerN t u s
  | .vflowMerge t u => Sys2Proof.Machine.execVflowMerge t u s
  | .vflowNull t u => Sys2Proof.Machine.execVflowNull t u s
  | .vflowJoin t u => Sys2Proof.Machine.execVflowJoin t u s
  | .vsel t u => Sys2Proof.Machine.execVsel t u s
  | .vrecv p e t u => Sys2Proof.Machine.execVrecv p e t u s
  | .vins w l t u => Sys2Proof.Machine.execVins w l t u s
  | .vialu w c t u => Sys2Proof.Machine.execVialu w c t u s
  | .vfalu f c t u => Sys2Proof.Machine.execVfalu f c t u s
  | .vcvt d src h a m u => Sys2Proof.Machine.execVcvt d src h a m u s
  | .vqnt d g src u => Sys2Proof.Machine.execVqnt d g src u s
  | .vdqnt d g src u => Sys2Proof.Machine.execVdqnt d g src u s
  | .vscacc k t u => Sys2Proof.Machine.execVscacc k t u s
  | .vperm w c t u => Sys2Proof.Machine.execVperm w c t u s
  | .vred f c t u => Sys2Proof.Machine.execVred f c t u s
  | .vld q p d o u => Sys2Proof.Machine.execVld q p d o u s
  | .vst q p d o => Sys2Proof.Machine.execVst q p d o s
  | .vlds q p d w u => Sys2Proof.Machine.execVlds q p d w u s
  | .vsts q p d w => Sys2Proof.Machine.execVsts q p d w s
  | .vgath q p d u => Sys2Proof.Machine.execVgath q p d u s
  | .vscat q p d => Sys2Proof.Machine.execVscat q p d s
  | .vfrd q p d u => Sys2Proof.Machine.execVfrd q p d u s
  | .vfmrg q p d m => Sys2Proof.Machine.execVfmrg q p d m s
  | .vfprb q p d u => Sys2Proof.Machine.execVfprb q p d u s
  | .vfhit q p d u => Sys2Proof.Machine.execVfhit q p d u s
  | .vmatch u => Sys2Proof.Machine.execVmatch u s
  | .wakeTask pe slot => Sys2Proof.Machine.execWakeTask pe slot s
  | .blockDispatch pe => Sys2Proof.Machine.execBlockDispatch pe s
  | .blockComplete pe slot => Sys2Proof.Machine.execBlockComplete pe slot s
  | .blockWatchdog pe slot => Sys2Proof.Machine.execBlockWatchdog pe slot s
  | .ptsTick => Sys2Proof.Machine.execPtsTick s
  | .linkSendAccept pe slot k => Sys2Proof.Machine.execLinkSendAccept pe slot k s
  | .tokenArrive l => Sys2Proof.Machine.execTokenArrive l s
  | .creditReturn l => Sys2Proof.Machine.execCreditReturn l s
  | .pulseArrive l => Sys2Proof.Machine.execPulseArrive l s
  | .linkFlitError l => Sys2Proof.Machine.execLinkFlitError l s
  | .elemCnt pos slot => Sys2Proof.Machine.execElemCnt pos slot s
  | .elemSteer pos slot => Sys2Proof.Machine.execElemSteer pos slot s
  | .elemMerge pos slot => Sys2Proof.Machine.execElemMerge pos slot s
  | .elemJoin pos slot => Sys2Proof.Machine.execElemJoin pos slot s
  | .elemRepl pos slot => Sys2Proof.Machine.execElemRepl pos slot s
  | .elemWin pos slot => Sys2Proof.Machine.execElemWin pos slot s
  | .elemWinFrame pos slot => Sys2Proof.Machine.execElemWinFrame pos slot s
  | .elemMaxr pos slot => Sys2Proof.Machine.execElemMaxr pos slot s
  | .elemDly pos slot => Sys2Proof.Machine.execElemDly pos slot s
  | .elemCvt pos slot => Sys2Proof.Machine.execElemCvt pos slot s
  | .elemXfm pos slot => Sys2Proof.Machine.execElemXfm pos slot s
  | .memStreamReadPass pos slot => Sys2Proof.Machine.execMemStreamReadPass pos slot s
  | .memStreamWrite pos slot => Sys2Proof.Machine.execMemStreamWrite pos slot s
  | .memRandomLoad pos slot => Sys2Proof.Machine.execMemRandomLoad pos slot s
  | .memRandomStore pos slot => Sys2Proof.Machine.execMemRandomStore pos slot s
  | .memOrderedUpdate pos slot => Sys2Proof.Machine.execMemOrderedUpdate pos slot s
  | .memHandover pos slot => Sys2Proof.Machine.execMemHandover pos slot s
  | .memRegionReceive pos slot => Sys2Proof.Machine.execMemRegionReceive pos slot s
  | .mma c => Sys2Proof.Machine.execMma c s
  | .mmai c => Sys2Proof.Machine.execMmai c s
  | .mgv c => Sys2Proof.Machine.execMgv c s
  | .mgat c => Sys2Proof.Machine.execMgat c s
  | .msca c => Sys2Proof.Machine.execMsca c s
  | .mdrn c => Sys2Proof.Machine.execMdrn c s
  | .mstt c => Sys2Proof.Machine.execMstt c s
  | .mldt c => Sys2Proof.Machine.execMldt c s
  | .mldp c => Sys2Proof.Machine.execMldp c s
  | .mclm c => Sys2Proof.Machine.execMclm c s
  | .mrel c => Sys2Proof.Machine.execMrel c s
  | .mzro c => Sys2Proof.Machine.execMzro c s
  | .mtrn c => Sys2Proof.Machine.execMtrn c s
  | .matrixReservedCommand w => Sys2Proof.Machine.execMatrixReservedCommand w s
  | .agstrm kind count adv tstr => Sys2Proof.Machine.execAgstrm kind count adv tstr s
  | .agsink kind count adv tstr => Sys2Proof.Machine.execAgsink kind count adv tstr s
  | .agcopy count adv => Sys2Proof.Machine.execAgcopy count adv s
  | .agfill count adv tstr => Sys2Proof.Machine.execAgfill count adv tstr s
  | .agloop lid n back => Sys2Proof.Machine.execAgloop lid n back s
  | .agwait k port => Sys2Proof.Machine.execAgwait k port s
  | .agend => Sys2Proof.Machine.execAgend s
  | .agUnallocatedWord w => Sys2Proof.Machine.execAgUnallocatedWord w s
  | .lgo p t tag => Sys2Proof.Machine.execLgo p t tag s
  | .knodeDispatch l n => Sys2Proof.Machine.execKnodeDispatch l n s
  | .cnodeDispatch l n => Sys2Proof.Machine.execCnodeDispatch l n s
  | .nnodeDispatch l n => Sys2Proof.Machine.execNnodeDispatch l n s
  | .hnodeNotify l n => Sys2Proof.Machine.execHnodeNotify l n s
  | .enode l n => Sys2Proof.Machine.execEnode l n s
  | .nodeDone l n => Sys2Proof.Machine.execNodeDone l n s
  | .nodeAgeing l n => Sys2Proof.Machine.execNodeAgeing l n s
  | .configComplete c => Sys2Proof.Machine.execConfigComplete c s
  | .configWatchdog c => Sys2Proof.Machine.execConfigWatchdog c s
  | .nmdot u => Sys2Proof.Machine.execNmdot u s
  | .nmaxpy u => Sys2Proof.Machine.execNmaxpy u s
  | .nmfill u => Sys2Proof.Machine.execNmfill u s
  | .nmcopy u => Sys2Proof.Machine.execNmcopy u s
  | .nmRowStep u => Sys2Proof.Machine.execNmRowStep u s
  | .nmBoundary u => Sys2Proof.Machine.execNmBoundary u s
  | .nmCancel u => Sys2Proof.Machine.execNmCancel u s
  | .nmSpill u => Sys2Proof.Machine.execNmSpill u s
  | .nmRestore u => Sys2Proof.Machine.execNmRestore u s
  | .pageResponse k ok entries => Sys2Proof.Machine.execPageResponse k ok entries s
  | .drainLimit k => Sys2Proof.Machine.execDrainLimit k s
  | .drainStart c why => Sys2Proof.Machine.execDrainStart c why s
  | .bellwetherArrive e => Sys2Proof.Machine.execBellwetherArrive e s
  | .drainComplete c => Sys2Proof.Machine.execDrainComplete c s
  | .drainWatchdog c => Sys2Proof.Machine.execDrainWatchdog c s
  | .restore k => Sys2Proof.Machine.execRestore k s
  | .tenantSliceEnd p => Sys2Proof.Machine.execTenantSliceEnd p s
  | .tlbInvalidate p page tenant entries => Sys2Proof.Machine.execTlbInvalidate p page tenant entries s
  | .tctlResume p t w => Sys2Proof.Machine.execTctlResume p t w s
  | .tctlAbort p t w => Sys2Proof.Machine.execTctlAbort p t w s
  | .stop p t => Sys2Proof.Machine.execStop p t s
  | .report p t => Sys2Proof.Machine.execReport p t s
  | .registerWrite fn off size v => Sys2Proof.Machine.execRegisterWrite fn off size v s
  | .hostMemoryRead p t va n => Sys2Proof.Machine.execHostMemoryRead p t va n s
  | .hostMemoryWrite p t va bytes => Sys2Proof.Machine.execHostMemoryWrite p t va bytes s
  | .tdispLock p t => Sys2Proof.Machine.execTdispLock p t s
  | .tdispStart p t => Sys2Proof.Machine.execTdispStart p t s
  | .atsInvalidate p t page => Sys2Proof.Machine.execAtsInvalidate p t page s
  | .vfFlr p t => Sys2Proof.Machine.execVfFlr p t s
  | .pfReset => Sys2Proof.Machine.execPfReset s
  | .powerOnReset failed => Sys2Proof.Machine.execPowerOnReset failed s
  | .bootStepTimeout die stage => Sys2Proof.Machine.execBootStepTimeout die stage s
  | .spdmRequest die index => Sys2Proof.Machine.execSpdmRequest die index s
  | .pldmMonitor => Sys2Proof.Machine.execPldmMonitor s
  | .pldmFirmwareUpdate die index keyHash version sigOk body fuse => Sys2Proof.Machine.execPldmFirmwareUpdate die index keyHash version sigOk body fuse s
  | .remoteRequest dev pad ten win off op => Sys2Proof.Machine.execRemoteRequest dev pad ten win off op s
  | .linkDown dev => Sys2Proof.Machine.execLinkDown dev s
  | .pageMigrate old new => Sys2Proof.Machine.execPageMigrate old new s
  | .redirect pe slot => Sys2Proof.Machine.execRedirect pe slot s
  | .dieCrossingLost b => Sys2Proof.Machine.execDieCrossingLost b s
  | .packedTableUpdate p die lengths => Sys2Proof.Machine.execPackedTableUpdate p die lengths s
  | .packedSweep p die => Sys2Proof.Machine.execPackedSweep p die s
  | .imageLoad p t file bases entries ranges => Sys2Proof.Machine.execImageLoad p t file bases entries ranges s
  | .paddockCreate ent ranges limited exports => Sys2Proof.Machine.execPaddockCreate ent ranges limited exports s
  | .powerSurgeLimit => Sys2Proof.Machine.execPowerSurgeLimit s
  | .thermalThreshold1 die => Sys2Proof.Machine.execThermalThreshold1 die s
  | .thermalThreshold2 die => Sys2Proof.Machine.execThermalThreshold2 die s
  | .storePerformed pe slot k => Sys2Proof.Machine.execStorePerformed pe slot k s
  | .leaseExpiry line => Sys2Proof.Machine.execLeaseExpiry line s
  | .routeRestore dev => Sys2Proof.Machine.execRouteRestore dev s
  | .paddockTeardown p => Sys2Proof.Machine.execPaddockTeardown p s
  | .vfReassignment p t => Sys2Proof.Machine.execVfReassignment p t s
  | .serviceModeChange p mode => Sys2Proof.Machine.execServiceModeChange p mode s
  | .traceEnable p on cap => Sys2Proof.Machine.execTraceEnable p on cap s
  | .currentBelowLimit => Sys2Proof.Machine.execCurrentBelowLimit s
  | .junctionBelowThreshold die => Sys2Proof.Machine.execJunctionBelowThreshold die s

end Sys2Proof.Machine
end

