-- ==== Sys2Proof/Machine/Schedule.lean ====
section
/-! DEFINITION. What one step does: time passes, then one activity of the device happens, the next of the schedule or, without
one, the first that can (log 1); how an activity of a frame, a tile or a program finds its instruction. -/

namespace Sys2Proof.Machine

/-! ### Time -/

/-- `x.pts` rises once for each 256-cycle boundary that time crosses (R244). -/
def riseTimes : Nat → State → State
  | 0, s => s
  | n + 1, s => riseTimes n (risePts s)

/-- What has arrived at a task's block by a cycle reaches its targets, and skipped slots take nothing more (R18, R32, R115, R134). -/
def Task.landed (now : Nat) (t : Task) : Task := { t with frame := t.frame.map (fun f => (f.shutBy now).landAll now) }

/-- How many cycles below `n` throttling skips, `skip` of every 16 (R386). -/
def skippedBelow (skip n : Nat) : Nat := n / 16 * skip + min (n % 16) skip

/-- Time passes (R1, R115, R244, R386): tokens in flight arrive, and each throttled cycle is counted among the skipped. -/
def advance (s : State) (dt : Nat) : State :=
  let now := s.ctl.now + dt
  let h := s.hub
  let s := { s with ctl := { s.ctl with now := now }
                    cores := { s.cores with tasks := s.cores.tasks.map (Task.landed now) }
                    hub := { h with skipped := if h.throttled
                      then h.skipped + (skippedBelow h.skip (now + 1) - skippedBelow h.skip (now - dt + 1)) else h.skipped } }
  riseTimes (now / 256 - (now - dt) / 256) s

/-! ### One activity -/

def State.focusOn (s : State) (f : Focus) : State := { s with ctl := { s.ctl with focus := f } }

/-- Maps the next state of an outcome. -/
def thenDo (f : State → State) : Out → Out
  | .next s => .next (f s)
  | .fault e => .fault e
  | .refused r => .refused r

/-- A word that is no instruction raises ILLEGAL when it may fire (R63); it is counted among those fired non-null. Log 46. -/
def fireUndecoded (s : State) (pos slot idx : Nat) : Out :=
  match s.task? pos slot with
  | none => .next s
  | some t =>
    match t.frame with
    | none => .next s
    | some f =>
      if t.st = .running && !t.saved && idx < f.n && readyAt s t f idx then
        .next (blockFault s (t.count 1) f { code := 0x01, sub := illegalSub (s.insWord pos f.hdr idx), idx := idx })
      else .next s

/-- The latency of an instruction (R115, R134), or the run's (R391). -/
def takeLatency (s : State) (i : Instr) : Nat × State :=
  match i.latency with
  | some l => (l, s)
  | none => s.nextLat

/-- The frame of a block in which an instruction issues or goes on: what it sends arrives after its latency (R115, R134), a null result as any
other. Log 51. -/
def State.sending (s : State) (t : Task) (f : Frame) (i : Instr) : State :=
  s.setFrame t { f with till := s.ctl.now + (takeLatency s i).1 }

/-- After an instruction has gone on: what its block sends next arrives at once, a latency of the run's is used up unless it only
waits, and its turn at its barrier is noted (R205). -/
def wentOn (pos slot idx : Nat) (i : Instr) (bar : Option Nat) (turn : Nat) (s : State) : State :=
  let s := s.mapTask pos slot (fun t => { t with frame := t.frame.map (fun f => { f with till := s.ctl.now }) })
  let waits : Bool := match s.task? pos slot with
    | some t => (match t.frame with | some f => f.waits.any (fun w => w.idx = idx) | none => false)
    | none => false
  if waits then s
  else
    let s := (takeLatency s i).2
    match bar with
    | some n => s.touchBar pos n turn
    | none => s

/-- The barrier that a waiting instruction touches when it goes on in a later activity: ARRIVE is counted then (R207); a WAIT only leaves
(R208). -/
def lateBar : Instr → Option Nat
  | .arrive b _ _ => some b.toNat
  | _ => none

/-- A send of a lower index, one output too many, that the links take in this cycle: its fault comes first (R65). -/
def sendFaultFirst (s : State) (pos slot : Nat) (f : Frame) (idx : Nat) : Bool :=
  f.w ≤ f.outs && (List.range f.sends.length).any (fun k => (f.sends[k]?).any (fun p => p.idx < idx) && (acceptSend s pos slot k).isSome)

/-- After an instruction has issued: its place in the mix of its PE (R19, R115, R134). -/
def issued (pos : Nat) (i : Instr) (null : Bool) (m : Mix) (l : Nat) (s : State) : State :=
  if i.badSub.isSome then s
  else { s with cores := { s.cores with mixes := upsert (fun x => x.pos = pos) (m.issue i null l) s.cores.mixes } }

/-- FETCHES instruction `idx` of the block that a slot runs and executes it (R11, R16, R18), when it is the next to issue of its PE
(R19, R178), or when it has fired and waits. -/
def fireAt (s : State) (pos slot idx : Nat) : Out :=
  match s.task? pos slot with
  | none => if isPe pos then .next s else .fault .absentUnit
  | some t =>
    match t.frame with
    | none => .next s
    | some f =>
      let go : Bool := (issueOrder s pos).head? = some (slot, idx)
      match decodeWord (s.insWord pos f.hdr idx) with
      | some i =>
        let x := f.ins.getD idx Ins.empty
        let null := x.firesNull i
        let run := exec i ((s.sending t f i).focusOn (.fire pos slot idx))
        if sendFaultFirst s pos slot f idx then .next s
        else if f.waits.any (fun w => w.idx = idx) then
          if f.raised.all (fun r => idx < r.idx) && (lateBar i).all (fun n => s.barOpen pos n (turnOf t f idx)) then
            thenDo (wentOn pos slot idx i (lateBar i) (turnOf t f idx)) run
          else .next s
        else if go && !clusterFirst s pos i x then
          thenDo (fun s' => wentOn pos slot idx i (barrierOf i) (turnOf t f idx) (issued pos i null (s.mix pos) (takeLatency s i).1 s')) run
        else .next s
      | none => if go && !sendFaultFirst s pos slot f idx then fireUndecoded s pos slot idx else .next s

/-- Does one activity. -/
def runAct (a : Act) (s : State) : Out :=
  match a with
  | .fire pos slot idx => fireAt s pos slot idx
  | .tile pos =>
    match tileWord s pos with
    | (s, some i) => exec i (s.focusOn (.tile pos))
    | (s, none) => if isMatrix pos then .next s else .fault .absentUnit
  | .ag k =>
    match agWord s k with
    | (s, some i) => exec i (s.focusOn (.ag k))
    | (s, none) => if k < s.eng.progs.length then .next s else .fault .absentUnit
  | .event i => exec i (s.focusOn .none)
  | .bankSwitch c n => .next (bankSwitch s c n)
  | .evict line => .next (evictL2 s line)
  | .writeBack line => .next (writeBack s line)
  | .samplePhase p die => .next (startSampling s p die)
  | .mailbox p t => .next (mailboxStep s p t)
  | .rangeWrite p i base limit offset attr => .next (writeRange s p i { base := base, limit := limit, offset := offset, attr := attr })
  | .wordError k => .next (wordError s k)
  | .copyError cluster line word => .next (copyError s cluster line word)
  | .unitError p pos u => .next (unitError s p pos u)
  | .stateError p => .next (paddockFault s p 0x3F 1)
  | .windowRefusal p dev win reads writes first => .next (refuseWindow s { pad := p, dev := dev, win := win, reads := reads, writes := writes, first := first })
  | .scopePolicy p t limited => .next (setScope s p t limited)
  | .thresholds die a b => .next (setThresholds s die a b)
  | .serveOutside k => .next (serveOutside s k)
  | .retire k => .next ((performRetired s k).getD s)
  | .bootNext => .next (bootNext s)
  | .configRequest => .next (configRequest s)
  | .powerLimit on => .next (powerLimit on s)
  | .arrivalFault pos slot => .next (arrivalFault s pos slot)
  | .deviceNumber n => .next (numberDevice s n)

/-! ### Choosing an activity (log 1) -/

def eventsAt (n : Nat) (f : Nat → Instr) : List Act := (List.range n).map (fun k => .event (f k))

/-- Watchdogs and limits that are due (R28, R182, R343, R354). -/
def limitActs (s : State) : List Act :=
  (s.cores.tasks.filter (blockDue s)).map (fun t => .event (.blockWatchdog t.pos t.slot)) ++
  ((List.range s.fab.confs.length).filter (fun c => (s.fab.confs[c]?).any (confDue s))).map (fun c => .event (.configWatchdog c)) ++
  ((List.range s.fab.confs.length).filter (fun c => (s.fab.confs[c]?).any (drainDue s))).map (fun c => .event (.drainWatchdog c)) ++
  ((List.range s.mem.pages.length).filter (fun k => (s.mem.pages[k]?).any (pageDue s))).map (fun k => .event (.drainLimit k))

/-- Blocks that are quiescent, tokens, pulses, markers and credits in flight. -/
def flowActs (s : State) : List Act :=
  (s.cores.tasks.filter (fun t => t.frame.isSome)).map (fun t => .event (.blockComplete t.pos t.slot)) ++
  eventsAt s.fab.links.length .tokenArrive ++ eventsAt s.fab.links.length .pulseArrive ++
  eventsAt s.fab.links.length .bellwetherArrive ++ eventsAt s.fab.links.length .creditReturn

/-- Counts of WAITT that have run out (R114). -/
def timerActs (s : State) : List Act :=
  s.cores.tasks.flatMap (fun t =>
    match t.frame with
    | some f => (f.waits.filter (fun w => match w.kind with | .timer till => till ≤ s.ctl.now | _ => false)).map
        (fun w => Act.event (.waittExpire t.pos t.slot w.idx))
    | none => [])

/-- Fired instructions that wait. -/
def waitActs (s : State) : List Act :=
  (blockOrder s).flatMap (fun x => x.2.waits.map (fun w => .fire x.1.pos x.1.slot w.idx))

/-- A BMODE or RBWAIT at a site has to let one of another PE of its cluster go first (R219, R296). -/
def clusterWaits (s : State) (pos slot idx : Nat) : Bool :=
  match s.task? pos slot with
  | some t => (match t.frame with
    | some f => (match decodeWord (s.insWord pos f.hdr idx) with
      | some i => clusterFirst s pos i (f.ins.getD idx Ins.empty)
      | none => false)
    | none => false)
  | none => false

/-- The next to issue of each PE (R178, R219, R296). -/
def fireActs (s : State) : List Act :=
  (s.cores.tasks.map (·.pos)).eraseDups.filterMap (fun p => match (issueOrder s p).head? with
    | some x => if clusterWaits s p x.1 x.2 then none else some (.fire p x.1 x.2)
    | none => none)

/-- The sends that links take in this cycle (R163). -/
def sendActs (s : State) : List Act :=
  s.cores.tasks.flatMap (fun t => match t.frame with
    | some f => ((List.range f.sends.length).filter (fun k => (acceptSend s t.pos t.slot k).isSome)).map
        (fun k => Act.event (.linkSendAccept t.pos t.slot k))
    | none => [])

/-- Requests for work of an earlier cycle, which the range hardware serves before anything of this cycle (R102, R211). -/
def stealActs (s : State) : List Act :=
  ((List.range s.cores.tasks.length).filter (fun k => (s.cores.tasks[k]?).any (fun t => (serveSteal s t).isSome))).map
    (fun k => .event (.stealRequest k))

/-- What comes before anything else of a cycle. -/
def firstActs (s : State) : List Act := limitActs s ++ stealActs s

/-- Waiting instructions that the rules let go in this cycle (R208, R210). -/
def dueWaits (s : State) : List Act :=
  (blockOrder s).flatMap (fun x => (x.2.waits.filter (waitDue s x.1 x.2)).map (fun w => .fire x.1.pos x.1.slot w.idx))

/-- What the rules tie to this cycle, in the order within a cycle: limits (R28, R182, R343), requests for work (R211), WAITTs that have
run out (R114), sends that have credit (R163), instructions that go on (R208, R210), instructions that issue (R19, R178), faults that
blocks have raised (R65), blocks that complete (R25), tasks that wake (R15) and blocks that are dispatched (R177). -/
def dueActs (s : State) : List Act :=
  firstActs s ++ timerActs s ++ sendActs s ++ dueWaits s ++ fireActs s ++
  (s.cores.tasks.filter (fun t => t.frame.any (s.faultDue t))).map (fun t => .arrivalFault t.pos t.slot) ++
  (s.cores.tasks.filter (fun t => t.frame.any (s.endsNow t))).map (fun t => .event (.blockComplete t.pos t.slot)) ++
  (s.cores.tasks.filter (Task.mayWake s)).map (fun t => .event (.wakeTask t.pos t.slot)) ++
  (((s.cores.tasks.map (·.pos)).eraseDups).filter (fun p => s.frameFree p && (nextReady s p).isSome)).map (fun p => .event (.blockDispatch p))

/-- The least of a list, if it is not empty. -/
def least : List Nat → Option Nat
  | [] => none
  | x :: xs => match least xs with | some y => some (min x y) | none => some x

/-- The next cycle to which the rules tie something of a task (R15, R18, R19, R114, R177): a token arrives, a count runs out, what is
ready issues, what is READY is dispatched, what has just become IDLE wakes. -/
def Task.dues (s : State) (t : Task) : List Nat :=
  let soon (b : Bool) : List Nat := if b then [s.ctl.now + 1] else []
  (match t.frame with
  | some f => f.flying.map (·.at_) ++
      f.waits.filterMap (fun w => match w.kind with | .timer till => some till | _ => none) ++
      soon (f.waits.any (waitDue s t f)) ++
      soon (!t.saved && f.met.isNone && (List.range f.n).any (fun k => Sys2Proof.Machine.readyAt s t f k))
  | none => []) ++
  soon (t.steal.toNat % 2 ^ 32 ≠ 0 && !t.saved && (match s.input? (portEp t.pos t.vreq) with | some i => !i.toks.isEmpty | none => false)) ++
  soon (s.ctl.now ≤ t.readyAt && ((t.st = .ready && s.frameFree t.pos) || t.st = .idle || t.st = .yielded))

/-- A matrix tile or a row unit may wait for the next cycle that throttling does not skip (R386). -/
def skipDues (s : State) : List Nat :=
  if s.hub.skips s.ctl.now && !(s.eng.tiles.isEmpty && s.eng.units.isEmpty) then [s.ctl.now + 1] else []

/-- How many of `dt` cycles may pass before something is due. -/
def span (s : State) (dt : Nat) : Nat :=
  match least ((s.cores.tasks.flatMap (Task.dues s) ++ skipDues s).filter (fun c => s.ctl.now < c)) with
  | some c => min dt (c - s.ctl.now)
  | none => dt

/-- Memory operations, arrivals and steals of tasks. -/
def taskActs (s : State) : List Act :=
  s.cores.tasks.flatMap (fun t =>
    [.event (.redirect t.pos t.slot), .event (.loadResponse t.pos t.slot false), .event (.storePerformed t.pos t.slot 0)] ++
    (List.range t.reds.length).map (fun k => .event (.storePerformed t.pos t.slot (k + 1))) ++
    [.event (.memoryIssue t.pos t.slot)]) ++
  eventsAt s.eng.deliveries.length .amodDelivery ++ eventsAt s.cores.arrivals.length .remoteArrivalApply ++
  eventsAt s.cores.tasks.length .stealReply

/-- Copies and scans. -/
def copyActs (s : State) : List Act :=
  eventsAt s.eng.copies.length .copyStart ++ eventsAt s.eng.copies.length .ringReserve ++
  eventsAt s.eng.copies.length .copyComplete ++ eventsAt s.eng.scans.length .fscanSlot

/-- What an element may do (R188 to R197). -/
def elemActs (e : Elem) : List Act :=
  let p := e.pos
  let k := e.slot
  ((match e.kind with
    | .cnt => [.elemCnt p k]
    | .steer => [.elemSteer p k]
    | .merge => [.elemMerge p k]
    | .repl => [.elemRepl p k]
    | .win => [.elemWinFrame p k, .elemWin p k]
    | .maxr => [.elemMaxr p k]
    | .dly => [.elemDly p k]
    | .cvt => [.elemCvt p k]
    | .xfm => [.elemXfm p k]
    | .mem => [.memRegionReceive p k, .memHandover p k, .memStreamReadPass p k, .memStreamWrite p k, .memRandomLoad p k,
               .memRandomStore p k, .memOrderedUpdate p k]
    | .join => [.elemJoin p k]) : List Instr).map .event

/-- Elements, matrix tiles and row units. -/
def engineActs (s : State) : List Act :=
  s.fab.elems.flatMap elemActs ++ s.eng.tiles.map (fun t => .tile t.pos) ++
  (List.range s.eng.units.length).flatMap (fun u => [.event (.nmCancel u), .event (.nmBoundary u), .event (.nmRowStep u)])

/-- One event for each node of each launch. -/
def nodeActs (s : State) (f : Nat → Nat → List Instr) : List Act :=
  s.drv.launches.zipIdx.flatMap (fun l => (List.range l.1.nodes.length).flatMap (fun n => (f l.2 n).map .event))

/-- Configurations that may complete, and the nodes of launches: those that end first. -/
def droverActs (s : State) : List Act :=
  s.ten.paddocks.flatMap (fun p => ((List.range 4).filter (fun t => !(p.tenant t).goes.isEmpty)).map (fun t => .mailbox p.id t)) ++
  eventsAt s.fab.confs.length .configComplete ++ nodeActs s (fun l n => [.nodeDone l n]) ++
  nodeActs s (fun l n => [.hnodeNotify l n]) ++
  nodeActs s (fun l n => [.nodeAgeing l n, .knodeDispatch l n, .cnodeDispatch l n, .nnodeDispatch l n, .enode l n])

/-- Drains, restores, slices, stops and resets under way. -/
def drainActs (s : State) : List Act :=
  let parts := ((s.fab.confs.filter (fun c => c.drain.isSome)).map (fun c => (confParts s c.cid).length)).sum
  (List.range parts).map (fun k => .event (.bellwetherArrive (s.fab.links.length + k))) ++
  eventsAt s.fab.confs.length .drainComplete ++ eventsAt s.drv.ckpts.length .restore ++
  (s.ten.paddocks.filter (·.leaving)).map (fun p => .event (.tenantSliceEnd p.id)) ++
  s.ten.paddocks.flatMap (fun p => ((List.range 4).filter (fun t => (p.tenant t).tdi = .stopping)).map (fun t => .event (.stop p.id t))) ++
  s.ten.paddocks.flatMap (fun p => ((List.range 4).filter (fun t => (p.tenant t).resetting)).map (fun t => .event (.vfFlr p.id t))) ++
  (if s.hub.resetting then [.event .pfReset] else [])

/-- Bank switches whose block is gone, lines of ended work and host lines to write back, accesses from outside that wait. -/
def cacheActs (s : State) : List Act :=
  (s.mem.banks.filter (fun b => b.switching.isSome)).map (fun b => .bankSwitch b.cluster b.num) ++
  (List.range s.mem.retired.length).map .retire ++ (List.range s.mem.outside.length).map .serveOutside ++
  ((s.mem.hostOld.map (fun c => lineOf c.1)).eraseDups).map .writeBack

/-- What the passing of time lets go; partial lines. -/
def lateActs (s : State) : List Act :=
  ((s.mem.copies.filter (fun c => c.granted + 4096 ≤ s.ctl.now)).map (·.line)).eraseDups.map (fun l => .event (.leaseExpiry l)) ++
  eventsAt s.mem.partials.length .partialLineEvict

/-- Every activity that the device may do of its own accord beside what is due, in the order in which an unscheduled step looks at
them. -/
def candidates (s : State) : List Act :=
  (if s.hub.bootDie ≠ 0 then [] else if s.hub.stage = 0 then [.event (.powerOnReset [])] else if s.hub.stage < 6 then [.bootNext] else []) ++ flowActs s ++
  (List.range s.eng.progs.length).map .ag ++ engineActs s ++ copyActs s ++ droverActs s ++ drainActs s ++ cacheActs s ++ taskActs s ++
  waitActs s ++ lateActs s

/-- An activity changes something of the device. -/
def moves (s : State) (a : Act) : Bool :=
  match runAct a s with
  | .next s' => s'.focusOn .none ≠ s.focusOn .none
  | _ => false

/-- One step without a schedule: what is due in this cycle; else the first activity that changes something, after `ctl.pace` cycles or as
many as pass before something is due; with none, up to 256 cycles pass. -/
def unscheduled (s : State) : Out :=
  match (dueActs s).head? with
  | some d => runAct d s
  | none =>
    let s' := advance s (span s s.ctl.pace)
    match (firstActs s').head? with
    | some d => runAct d s'
    | none =>
      match (candidates s').find? (moves s') with
      | some a => runAct a s'
      | none => .next (advance s (span s 256))

/-- One step, once tokens that arrive in this cycle have reached their targets: before time passes, what is due in this cycle; then as
many cycles of those before the next of the schedule as pass before something is due; when all have passed, what comes first in that
cycle, else that activity. Without a schedule, one that the device chooses. A jump of time past a limit meets it at the jump's end. Log 2. -/
def oneStep (s₀ : State) : Out :=
  let s := advance s₀ 0
  match s.ctl.sched with
  | (dt, a) :: rest =>
    match (if dt = 0 then none else (dueActs s).head?) with
    | some d => runAct d s
    | none =>
      let k := span s dt
      if k < dt then .next (advance { s with ctl := { s.ctl with sched := (dt - k, a) :: rest } } k)
      else
        match (firstActs (advance s dt)).head? with
        | some d => runAct d (advance { s with ctl := { s.ctl with sched := (0, a) :: rest } } dt)
        | none => runAct a (advance { s with ctl := { s.ctl with sched := rest } } dt)
  | [] => unscheduled s

/-! ### Placing one instruction -/

/-- A token of zeros of a plane. -/
def zeroTok : Plane → Tok
  | .ctl => .ctl 0 false
  | .data => .data 0 false

/-- An idle task slot as binding leaves it (R11, R13), at a position. -/
def freshTask (pos slot cid : Nat) : Task :=
  { pos := pos, slot := slot, cid := cid, st := .idle, g := Vector.replicate 64 0, v := Vector.replicate 32 0, pending := [], cur := 0
    entry := 0, prio := 0, pass := 0, since := 0, readyAt := 0, clu := 0, part := 0, cfg := 0, ten := 0, lnk := 0, flg := 0, rm := 0
    pts := 0, bound := 0, args := 0, rnglo := 0, rnghi := 0, steal := 0, shp := Vector.replicate 8 0, fault := 0, scope := 0
    perf := Vector.replicate 8 0, ports := [], sport := none, frame := none, queue := [], reds := [], lag := [], owed := [], joins := [], redPts := 0, fenced := 0, steals := [], replies := [], served := 0
    held := false, code := 0, saved := false }

/-- A configuration of one strip that holds only that task. -/
def freshConf (cid : Nat) : Conf :=
  { cid := cid, ident := 0, pad := 0, ten := 0, strip0 := 0, strips := 1, words := [], args := 0, launch := 0, node := 0, flags := 0
    start := 0, moved := 0, drain := none, lag := [], pts := 0 }

/-- The header of the block that holds the placed instruction: N = 1, M = 31, W = 31 (R16). -/
def placedHeader : Nat := 0x03FF00B7

/-- The frame of a dispatched block of one instruction, its operands zeros. -/
def placedFrame (s : State) (t : Task) (w : Nat) : Frame :=
  let f := newFrame s t s.ctl.ids
  let slots := match decodeWord w with | some i => i.slots | none => [.ctl]
  let tok (k : Nat) : Option Tok := slots[k]?.map zeroTok
  { f with ins := [{ a := tok 0, b := tok 1, c := tok 2, fired := .notYet }] }

/-- The bytes of one instruction stored as the only one of a block of the task in slot 0 of the PE at column 0, row 0, that block
dispatched with its operands at hand, and its firing the next activity. Log 6. -/
def placeInstr (s : State) (bytes : List Byte) : State :=
  let cid := s.ctl.ids
  let mem := (toBytes 4 placedHeader ++ bytes).zipIdx.foldl (fun m b => writeByte m (storeKey 0 0 + b.2) b.1) s.mem.bytes
  let t := { freshTask 0 0 cid with st := .running }
  let s := { s with
    ctl := { s.ctl with ids := cid + 1, sched := (0, .fire 0 0 0) :: s.ctl.sched }
    fab := { s.fab with confs := s.fab.confs ++ [freshConf cid] }
    mem := { s.mem with bytes := mem } }
  { s with cores := { s.cores with
      tasks := { t with frame := some (placedFrame s t (ofBytes bytes)) } :: s.cores.tasks.filter (fun x => !(x.pos = 0 && x.slot = 0)) } }

end Sys2Proof.Machine
end

