-- ==== Sys2Proof/Machine/Step.lean ====
section
/-! DEFINITION. The step of the device, and the state in which a given instruction is the next to run. -/

namespace Sys2Proof.Machine

/-- One step of the device (log 1). -/
def step (s : State) : Host.Outcome State Fault Refusal := oneStep s

/-- `s` with the instruction whose bits are `w` as the one that the next step runs (R11, R16, R36). Log 6. -/
def State.withFetchWord (s : State) (_nbits w : Nat) : State := placeInstr s (toBytes 4 w)

end Sys2Proof.Machine
end

