-- ==== Sys2Proof/Safety.lean ====
section
/-! DEFINITION. The terms in which claims speak: when an instruction of a block fires normally, what it then answers, and the
invariant of memory. -/

namespace Sys2Proof.Machine

/-! ### Firing -/

/-- The frame of an instruction that has just fired normally (R18). -/
def Frame.fired (f : Frame) (idx : Nat) (x : Ins) : Frame := { f with ins := f.ins.set idx { x with fired := .normal } }

/-- `i` fires normally at the site that the step names (R18, R22, R64): it may fire there as instruction `idx` of the frame
`f` of the task `t` with operands `x`, no operand is null or poisoned, the word and its targets are legal, and the planes of
the targets `dest` fit. -/
abbrev FiresTo (s : State) (i : Instr) (t : Task) (f : Frame) (idx : Nat) (x : Ins) (dest : List Tgt) : Prop :=
  firing? s i = some (t, f, idx, x) ∧ i.badSub = none ∧ x.firesNull i = false ∧
  firingFault s (t.count 1) (f.fired idx x) idx i dest = none ∧ x.poisoned i = false

/-- `i` fires normally with all its targets. -/
abbrev Fires (s : State) (i : Instr) (t : Task) (f : Frame) (idx : Nat) (x : Ins) : Prop := FiresTo s i t f idx x i.targets

/-- The state that a firing leaves: its task counts one firing (R113) and holds the frame `f`; nothing else changes. -/
def left (s : State) (t : Task) (f : Frame) : State := s.setFrame (t.count 1) f

/-- `i`, firing normally, sends the token `val` to its targets and raises the flags that go with it, whenever the targets take
the token. -/
def Sends (i : Instr) (val : State → Task → Frame → Ins → Tok × Nat) : Prop :=
  ∀ (s : State) (t : Task) (f : Frame) (idx : Nat) (x : Ins) (f' : Frame), Fires s i t f idx x →
    Frame.putAll { f.fired idx x with flags := f.flags ||| (val s (t.count 1) f x).2 } idx (val s (t.count 1) f x).1 i.targets = .ok f' →
    exec i s = .next (left s t f')

/-- `i` sends a scalar that depends on its operands only, and raises no flag. -/
def SendsScalar (i : Instr) (val : Ins → Word) : Prop := Sends i (fun _ _ _ x => (scalar (val x), 0))

/-- `i` sends a vector that depends on its operands only, and raises no flag. -/
def SendsVector (i : Instr) (val : Ins → Vec) : Prop := Sends i (fun _ _ _ x => (vector (val x), 0))

/-- `i` sends a result that depends on its operands only, with flags. -/
def SendsResult (i : Instr) (val : Ins → Tok × Nat) : Prop := Sends i (fun _ _ _ x => val x)

/-! ### Rounding -/

/-- `r` is `v`, the magnitude of a number of a sign, rounded to an integer by a mode (R45): to nearest with ties to even, towards zero, down,
up. -/
def RoundsAt (mode : Nat) (neg : Bool) (v : ℝ) (r : Nat) : Prop :=
  |(r : ℝ) - v| < 1 ∧
  (mode = 0 → |(r : ℝ) - v| ≤ 1 / 2 ∧ (|(r : ℝ) - v| = 1 / 2 → r % 2 = 0)) ∧
  (mode = 1 → (r : ℝ) ≤ v) ∧
  (mode = 2 → if neg then v ≤ (r : ℝ) else (r : ℝ) ≤ v) ∧
  (mode = 3 → if neg then (r : ℝ) ≤ v else v ≤ (r : ℝ))

/-- A result is the exact non-zero value `v` rounded once to a format by a mode (R45, R46). With the exponent unbounded, `ru` units of 2^qu
test overflow and tininess; what is delivered is `r` units of 2^q, subnormals among the values. NX says that it differs from `v`, UF that it
is tiny as well, and an overflow gives OF and NX with the result of its mode. -/
def RoundsTo (F mode : Nat) (sat : Bool) (v : ℝ) (R : Res) : Prop :=
  ∀ (neg : Bool) (E : ℤ), (neg = true ↔ v < 0) → (2 : ℝ) ^ E ≤ |v| → |v| < (2 : ℝ) ^ (E + 1) →
    let qu : ℤ := E - mantBits F
    let q : ℤ := max qu (expMin F)
    ∃ (ru r M : Nat) (K : ℤ), RoundsAt mode neg (|v| / (2 : ℝ) ^ qu) ru ∧ RoundsAt mode neg (|v| / (2 : ℝ) ^ q) r ∧
      readNum F (maxFinite F false) = .fin false M K ∧
      ((M : ℝ) * (2 : ℝ) ^ K < (ru : ℝ) * (2 : ℝ) ^ qu → R = (overflowBits F mode sat neg, fOF ||| fNX)) ∧
      ((ru : ℝ) * (2 : ℝ) ^ qu ≤ (M : ℝ) * (2 : ℝ) ^ K →
        (∃ (n : Nat) (k : ℤ), readNum F R.1 = .fin neg n k ∧ (n : ℝ) * (2 : ℝ) ^ k = (r : ℝ) * (2 : ℝ) ^ q) ∧
        R.2 < 4 ∧ (R.2 % 2 = 1 ↔ (r : ℝ) * (2 : ℝ) ^ q ≠ |v|) ∧
        (R.2 / 2 = 1 ↔ (ru : ℝ) * (2 : ℝ) ^ qu < (2 : ℝ) ^ ((mantBits F : ℤ) + expMin F) ∧ (r : ℝ) * (2 : ℝ) ^ q ≠ |v|))

/-- One number lies below another; a NaN is in no order (R48). -/
def Num.below : Num → Num → Prop
  | .inf true, .inf s => s = false
  | .inf true, .fin _ _ _ => True
  | .fin _ _ _, .inf s => s = false
  | .fin g m e, .fin h n k => (signed g m : ℝ) * (2 : ℝ) ^ e < (signed h n : ℝ) * (2 : ℝ) ^ k
  | _, _ => False

/-! ### Invariant -/

/-- The memory of a state is in its canonical form: addresses rise strictly and no entry equals what an unlisted byte reads. -/
abbrev State.memWf (s : State) : Prop := Memory.wf s.mem.bytes

/-- A task, and a state, beside the lines of host memory that are still owed to the host: a line that leaves the crossing cache is written
back, and then nobody owes it (R246, R261, R363). -/
def Task.sansOwed (t : Task) : Task := { t with owed := [], joins := t.joins.map (fun j => { j with lines := [] }) }
def State.sansOwed (s : State) : State :=
  { s with
    cores := { s.cores with tasks := s.cores.tasks.map Task.sansOwed }
    eng := { s.eng with copies := s.eng.copies.map (fun c => { c with owed := [] }) }
    drv := { s.drv with ckpts := s.drv.ckpts.map (fun k => { k with tasks := k.tasks.map Task.sansOwed }) } }

/-- Behind every value that DRAM holds in place of a line's own, a slice holds that line as dirty: no eviction of a line changes what
the memory's bytes show. A row unit that writes behind a clean copy breaks it (R323). -/
abbrev State.plainL2 (s : State) : Prop :=
  ∀ u ∈ s.mem.under, ∃ x, s.mem.l2.find? (fun x => x.line = u.1) = some x ∧ x.dirty = true

end Sys2Proof.Machine
end

