-- ==== Sys2Proof/WellFormed.lean ====
section
/-! DEFINITION. Which instructions are well formed: every field value allocated (R58 to R63), every target field one that R20
allows whatever the block holds, and a word of another frame (R66, R67) only where its own decoder gives it. -/

namespace Sys2Proof

/-- A well-formed instruction or step. -/
def Instr.wf (i : Instr) : Bool :=
  i.badSub.isNone && i.targets.all (fun t => !tgtBad t.toNat) &&
  match i with
  | .matrixReservedCommand w => decodeCmd w == .matrixReservedCommand w
  | .agUnallocatedWord w => decodeAg w == .agUnallocatedWord w
  | .agstrm k c _ _ => k.toNat < 2 && c != 0
  | .agsink k c _ _ => k.toNat < 2 && c != 0
  | .agcopy c _ => c != 0
  | .agfill c _ _ => c != 0
  | .agloop _ n b => n != 0 && b != 0
  | .agwait k _ => k != 0
  | _ => true

end Sys2Proof
end

