-- ==== Sys2Proof/Certificates/Slice0/Obligations.lean ====
section
/-! DEFINITION. The statements about the device, for the provers. -/

open Sys2Proof Sys2Proof.Machine

/-! ### Words and firing -/

/-- The word of a well-formed instruction decodes to that instruction, whatever its operand fields hold (R58 to R63, R66, R67, R89,
R116, R135, R184, R267, R298 give the encodings): 32-bit words of PEs, command words of matrix tiles, words of stream programs. No field
is dropped and no two rows of the opcode table share a word; every 64-bit word of a tile or of a stream program is the word of what it
decodes to. -/
def Obligations.EncodedWordDecodes : Prop :=
  (∀ (i : Instr) (w : Nat), i.wf = true → encode i = some w → w < 2 ^ 32 ∧ decodeWord w = some i) ∧
  (∀ (i : Instr) (w : Word), i.wf = true → encodeCmd i = some w → decodeCmd w = i) ∧
  (∀ w : Word, encodeCmd (decodeCmd w) = some w) ∧
  (∀ (i : Instr) (w : Word), i.wf = true → encodeAg i = some w → decodeAg w = i) ∧
  (∀ w : Word, encodeAg (decodeAg w) = some w)

/-- Words written out in the spec decode to the instructions they stand for (R109, R89, R110, R139 and the worked programs of the
spec): the encodings are read right, not only consistently. -/
def Obligations.SpecWordsDecode : Prop :=
  decodeWord 0x060B8005 = some (.get 1 448 5) ∧ decodeWord 0x30000003 = some (.cmpeqi 0 3) ∧
  decodeWord 0x0C0B8008 = some (.steerN 448 8) ∧ decodeWord 0x0C04160C = some (.steerD 11 12) ∧
  decodeWord 0x42034049 = some (.cvt 0 13 0 0 0 73) ∧ decodeWord 0x400F800A = some (.falu 0 3 448 10) ∧
  decodeWord 0x42200103 = some (.cvt 1 0 0 0 0 259) ∧ decodeWord 0x02000011 = some (.br 17) ∧
  decodeWord 0x58040805 = some (.ldw 0 1 0 4 5) ∧ decodeWord 0x64160000 = some (.stw 1 1 2 0) ∧
  decodeWord 0x58310104 = some (.ldw 3 0 1 0 260) ∧ decodeWord 0x45600600 = some (.cvtx 11 0 0)

/-- A step runs the instruction that the site of the schedule's next activity holds, once its cycles have passed, nothing that the rules tie
to an earlier cycle being due (logs 1 and 2). A PE's word, decoded, is executed when it is the next to issue of its PE and no PE of its cluster
goes first (R19, R178, R219, R296); it then takes its place in the issue mix, and what it sends arrives after its latency (R18, R115, R134). An instruction that has fired
and waits is executed again, unless one of a lower index has raised a fault; one that is neither is not run, nor one before whose index the
links take a send too many (R65). A matrix tile runs the command of its oldest token on port 0, or goes on
with the command it runs, in a cycle that throttling does not skip (R266, R386); a stream program runs the word at its address, or goes on with the word it has reached (R298). -/
def Obligations.StepRunsDecodedInstruction : Prop :=
  ∀ (s : State) (dt : Nat) (a : Act) (rest : List (Nat × Act)), s.ctl.sched = (dt, a) :: rest →
    let s1 := advance s 0
    let u := advance { s1 with ctl := { s1.ctl with sched := rest } } dt
    (dt = 0 ∨ dueActs s1 = []) → span s1 dt = dt → firstActs (advance s1 dt) = [] →
    (∀ (pos slot idx : Nat) (t : Task) (f : Frame) (i : Instr), a = .fire pos slot idx → u.task? pos slot = some t → t.frame = some f →
      decodeWord (u.insWord pos f.hdr idx) = some i →
      let x := f.ins.getD idx Ins.empty
      let run := exec i ((u.sending t f i).focusOn (.fire pos slot idx))
      (sendFaultFirst u pos slot f idx = true → step s = .next u) ∧
      (sendFaultFirst u pos slot f idx = false → (∀ w ∈ f.waits, w.idx ≠ idx) → (issueOrder u pos).head? = some (slot, idx) →
        clusterFirst u pos i x = false →
        step s = (match run with
          | .next s' => .next (wentOn pos slot idx i (barrierOf i) (turnOf t f idx)
              (issued pos i (x.firesNull i) (u.mix pos) (takeLatency u i).1 s'))
          | r => r)) ∧
      (sendFaultFirst u pos slot f idx = false → (∃ w ∈ f.waits, w.idx = idx) → (∀ r, f.raised = some r → idx < r.idx) →
        (∀ n, lateBar i = some n → u.barOpen pos n (turnOf t f idx) = true) →
        step s = (match run with
          | .next s' => .next (wentOn pos slot idx i (lateBar i) (turnOf t f idx) s')
          | r => r)) ∧
      ((∀ w ∈ f.waits, w.idx ≠ idx) → (issueOrder u pos).head? ≠ some (slot, idx) → step s = .next u)) ∧
    (∀ (pos : Nat) (v : State) (i : Instr), a = .tile pos → tileWord u pos = (v, some i) → step s = exec i (v.focusOn (.tile pos))) ∧
    (∀ (pos : Nat) (t : Tile), u.tile? pos = some t → t.blocked = false → t.saved = false → t.done = none → dropNull u pos = none →
      u.hub.skips u.ctl.now = false →
      (∀ tok v, t.run = none → tileTake u pos 0 = some (tok, v) → tileWord u pos =
        (v.setTile { t with run := some ({ word := tok.word, step := 0, tokens := [], byte := 0, row := 0, entry := 0, addr := none, lag := [] } : Running) },
          some (decodeCmd tok.word))) ∧
      (∀ r, t.run = some r → tileMarked u pos = false → tileWord u pos = (u, some (decodeCmd r.word)))) ∧
    (∀ (k : Nat) (v : State) (i : Instr), a = .ag k → agWord u k = (v, some i) → step s = exec i (v.focusOn (.ag k))) ∧
    (∀ (k : Nat) (g : AgProg), u.eng.progs[k]? = some g → g.stopped = false → agHalted u g = false →
      (∀ w v, g.word = none → g.fetch u g.pc.toNat 1 = (some [w], v) → agWord u k = (v.setProg { g with word := some w }, some (decodeAg w))) ∧
      (∀ w, g.word = some w → agWord u k = (u, some (decodeAg w))))

/-- An event of the schedule is executed after its cycles have passed. What the rules tie to the cycle before goes first, time stops at
the next cycle in which something is due, and a watchdog, a limit or a request for work that is due by then goes before the event (R211;
logs 1 and 2). In that time
only time itself, the timestamps and the count of throttled cycles rise, skipped slots shut, and tokens in flight reach their targets: memory,
fabric, engines, Drover, tenancy and barriers stay (R1, R18, R32, R244, R386). -/
def Obligations.StepRunsScheduledEvent : Prop :=
  (∀ (s : State) (dt : Nat) (a : Act) (rest : List (Nat × Act)), s.ctl.sched = (dt, a) :: rest →
    let s1 := advance s 0
    (∀ d, dt ≠ 0 → (dueActs s1).head? = some d → step s = runAct d s1) ∧
    ((dt = 0 ∨ dueActs s1 = []) →
      (span s1 dt < dt → step s = .next (advance { s1 with ctl := { s1.ctl with sched := (dt - span s1 dt, a) :: rest } } (span s1 dt))) ∧
      (∀ d, span s1 dt = dt → (firstActs (advance s1 dt)).head? = some d →
        step s = runAct d (advance { s1 with ctl := { s1.ctl with sched := (0, a) :: rest } } dt)) ∧
      (∀ i, a = .event i → span s1 dt = dt → firstActs (advance s1 dt) = [] →
        step s = exec i ((advance { s1 with ctl := { s1.ctl with sched := rest } } dt).focusOn .none)))) ∧
  (∀ (s : State) (dt : Nat), span s dt ≤ dt ∧ ∀ t ∈ s.cores.tasks, ∀ f, t.frame = some f →
    (∀ e ∈ f.flying, s.ctl.now < e.at_ → s.ctl.now + span s dt ≤ e.at_) ∧
    (∀ w ∈ f.waits, ∀ till, w.kind = .timer till → s.ctl.now < till → s.ctl.now + span s dt ≤ till)) ∧
  (∀ (s : State) (dt : Nat),
    (advance s dt).ctl.now = s.ctl.now + dt ∧ (advance s dt).mem = s.mem ∧ (advance s dt).fab = s.fab ∧ (advance s dt).eng = s.eng ∧
    (advance s dt).drv = s.drv ∧ (advance s dt).ten = s.ten ∧ (advance s dt).cores.bars = s.cores.bars ∧
    (s.ctl.now / 256 = (s.ctl.now + dt) / 256 →
      (advance s dt).cores = { s.cores with tasks := s.cores.tasks.map (Task.landed (s.ctl.now + dt)) })) ∧
  (∀ (now : Nat) (t : Task), (t.frame = none → Task.landed now t = t) ∧
    (∀ f, t.frame = some f → Task.landed now t = { t with frame := some ((f.shutBy now).landAll now) }))

/-- Where an instruction may not fire and does not wait, its execution changes nothing; what one sends stays in flight until its latency is
over, and then fills its slot, or writes its register or is offered to its port (R18, R20, R24 to R27, R115, R134). At an instruction that
has not fired normally a token that finds its slot full raises OVERRUN, null or not, and one that finds it empty fills it; at one that has
fired normally a token that is not null raises OVERRUN and a null is absorbed (R18, R22; that null is log 12). The record names the
instruction at which the token arrives (log 32). One output more than W raises OUTPUTS subcode 1, a poisoned token POISON subcode 1 (R28, R348). -/
def Obligations.UnreadyInstructionWaits : Prop :=
  (∀ (s : State) (i : Instr), (encode i).isSome → firing? s i = none → waiting? s = none →
    (i.link = none ∨ s.ctl.eager = false) → exec i s = .next s) ∧
  (∀ (s : State) (t : Task) (f : Frame) (i : Instr) (l : Nat), i.latency = some l →
    s.sending t f i = s.setFrame t { f with till := s.ctl.now + l }) ∧
  (∀ (f : Frame) (idx : Nat) (tok : Tok) (x : Tgt), f.put idx tok x = .ok (if 448 ≤ x.toNat then f
    else { f with flying := f.flying ++ [{ at_ := f.till, idx := idx, tok := tok, tgt := x }] })) ∧
  (∀ (f : Frame) (now : Nat), (∀ e ∈ f.flying, now < e.at_) → f.landAll now = { f with till := now }) ∧
  (∀ (f : Frame) (now : Nat) (e : Flying), f.flying = [e] → e.at_ ≤ now →
    (∀ f', Frame.take { f with flying := [], till := now } e.idx e.tok e.tgt = .ok f' → f.landAll now = f') ∧
    (∀ r, Frame.take { f with flying := [], till := now } e.idx e.tok e.tgt = .error r →
      f.landAll now = { f with flying := [], till := now, raised := some (lowerRaise r f.raised) })) ∧
  (∀ (f : Frame) (idx : Nat) (tok : Tok) (x : Tgt),
    let v := x.toNat
    let y := f.ins.getD (v % 64) Ins.empty
    let overrun : Except Raise Frame := .error { code := 0x06, sub := 0, idx := v % 64 }
    (v < 256 → y.fired ≠ .normal → y.slot (v / 64) = none →
      f.take idx tok x = .ok { f with ins := f.ins.set (v % 64) (y.setSlot (v / 64) tok) }) ∧
    (v < 256 → y.fired ≠ .normal → (y.slot (v / 64)).isSome → f.take idx tok x = overrun) ∧
    (v < 256 → y.fired = .normal → f.take idx tok x = if tok = .null then .ok f else overrun) ∧
    (256 ≤ v → v < 448 → tok.poisoned = true → f.take idx tok x = .error { code := 0x16, sub := 1, idx := idx }) ∧
    (256 ≤ v → v < 384 → tok.poisoned = false → f.w ≤ f.outs → f.take idx tok x = .error { code := 0x05, sub := 1, idx := idx }) ∧
    (256 ≤ v → v < 320 → tok.poisoned = false → tok ≠ .null → f.outs < f.w →
      f.take idx tok x = .ok { f with outs := f.outs + 1, gw := f.gw ++ [(idx, v % 64, tok.word)] }) ∧
    (320 ≤ v → v < 384 → tok.poisoned = false → tok ≠ .null → f.outs < f.w →
      f.take idx tok x = .ok { f with outs := f.outs + 1, vw := f.vw ++ [(idx, v % 32, tok.vec)] }) ∧
    (256 ≤ v → v < 448 → tok = .null → f.outs < f.w → f.take idx tok x = .ok { f with outs := f.outs + 1 }) ∧
    (384 ≤ v → v < 448 → tok.poisoned = false → tok ≠ .null →
      f.take idx tok x = .ok { f with sends := f.sends ++ [{ idx := idx, port := v % 64, tok := tok }] }))

/-- An instruction with a null operand (a merge with two), the memory instructions apart, fires without computing and sends null to every
target; it raises none of its own faults, sets no flag and changes nothing else (R22, R113). -/
def Obligations.NullOperandPassesNull : Prop :=
  ∀ (s : State) (i : Instr) (t : Task) (f : Frame) (idx : Nat) (x : Ins) (f' : Frame),
    (encode i).isSome → i.link = none → i.badSub = none → waiting? s = none →
    firing? s i = some (t, f, idx, x) → x.firesNull i = true →
    firingFault s (t.count 2) { f with ins := f.ins.set idx { x with fired := .asNull } } idx i i.targets = none →
    Frame.putAll { f with ins := f.ins.set idx { x with fired := .asNull } } idx .null i.targets = .ok f' →
    exec i s = .next (s.setFrame (t.count 2) f')

/-! ### Control plane -/

/-- Exits (R91, R92, R94, R95): each fires with the target that its rule gives, a word offset from the current header, an unsigned
word address in slot a, or the committed `x.lnk`; TEND and TRAP have none, and TRAP keeps its code. The block goes on; the exit takes
effect at its completion. BKPT is noted with the lower index of the block's breakpoints (R96). A second exit that fires, of whatever
kind, raises DOUBLEEXIT (that it does so where its own target is bad too is the model's choice, log 46); a target that is no valid
header, or that lies below the store, raises BADBLOCK with the subcode of R28 (R25, R28, R91, R92). -/
def Obligations.ExitsFire : Prop :=
  (∀ (s : State) (t : Task) (f : Frame) (idx : Nat) (x : Ins) (o : BitVec 23), f.exit = none →
      (∀ T : Nat, (T : Int) = f.hdr + o.toInt → badBlock s t.pos T = none →
        (Fires s (.br o) t f idx x →
          exec (.br o) s = .next (left s t { f.fired idx x with exit := some { kind := .br, idx := idx, target := T, code := 0 } })) ∧
        (Fires s (.call o) t f idx x →
          exec (.call o) s = .next (left s t { f.fired idx x with exit := some { kind := .call, idx := idx, target := T, code := 0 } })) ∧
        (Fires s (.ybr o) t f idx x →
          exec (.ybr o) s = .next (left s t { f.fired idx x with exit := some { kind := .ybr, idx := idx, target := T, code := 0 } }))) ∧
      (badBlock s t.pos x.wa.toNat = none →
        (Fires s .brx t f idx x →
          exec .brx s = .next (left s t { f.fired idx x with exit := some { kind := .br, idx := idx, target := x.wa.toNat, code := 0 } })) ∧
        (Fires s .callx t f idx x →
          exec .callx s = .next (left s t { f.fired idx x with exit := some { kind := .call, idx := idx, target := x.wa.toNat, code := 0 } }))) ∧
      (badBlock s t.pos (f.spr.getD 0x08 0).toNat = none → Fires s .ret t f idx x →
        exec .ret s = .next (left s t { f.fired idx x with exit := some { kind := .ret, idx := idx, target := (f.spr.getD 0x08 0).toNat, code := 0 } })) ∧
      (Fires s .tend t f idx x →
        exec .tend s = .next (left s t { f.fired idx x with exit := some { kind := .tend, idx := idx, target := 0, code := 0 } })) ∧
      (Fires s .trap t f idx x →
        exec .trap s = .next (left s t { f.fired idx x with exit := some { kind := .trap, idx := idx, target := 0, code := x.wa } })) ∧
      (Fires s .bkpt t f idx x →
        exec .bkpt s = .next (left s t { f.fired idx x with bkpt := some (match f.bkpt with | some k => min k idx | none => idx) }))) ∧
  (∀ (s : State) (t : Task) (f : Frame) (idx : Nat) (x : Ins) (o : BitVec 23),
      let bad (sub : Nat) : State := blockFault s (t.count 1) (f.fired idx x) { code := 0x03, sub := sub, idx := idx }
      (∀ i ∈ [Instr.br o, .call o, .ybr o, .brx, .callx, .ret, .tend, .trap], Fires s i t f idx x → f.exit.isSome →
        exec i s = .next (blockFault s (t.count 1) (f.fired idx x) { code := 0x04, sub := 0, idx := idx })) ∧
      (∀ i ∈ [Instr.br o, .call o, .ybr o], Fires s i t f idx x → f.exit = none →
        ((f.hdr : Int) + o.toInt < 0 → exec i s = .next (bad 2)) ∧
        (∀ T sub : Nat, (T : Int) = f.hdr + o.toInt → badBlock s t.pos T = some sub → exec i s = .next (bad sub))) ∧
      (∀ i ∈ [Instr.brx, .callx], Fires s i t f idx x → f.exit = none → ∀ sub, badBlock s t.pos x.wa.toNat = some sub →
        exec i s = .next (bad sub)) ∧
      (Fires s .ret t f idx x → f.exit = none → ∀ sub, badBlock s t.pos (f.spr.getD 0x08 0).toNat = some sub →
        exec .ret s = .next (bad sub)))

/-- MOVI makes a sign-extended constant; MOVHI shifts the operand left by 16 and puts the immediate in (R98). GET sends the value of
its register committed before dispatch, and joins the copy that ended in it: the task's timestamp does not fall, and it owes the lines of host
memory that the copy wrote (R244, R251, R253). Of a register
that a copy had marked pending it is not ready, until the copy's end makes it so with the value that the copy leaves (R17, R97, R289;
that this is a refusal's code too, where those rules name 0, is the model's choice, log 46). GETX sends the value its register held at dispatch, VGET the committed vector register; PUTX passes its
operand on and keeps the write for the completion, and on a register marked RO raises PROT with the register's number. Of the
registers that a PUTX may write, `x.flg` keeps five bits of the value, `x.rm` two, `x.scope` one, `x.steal` bits 32 to 34 only; every
other register, and every register marked RO, stays (R13, R17, R100 to R102, R118, R199). -/
def Obligations.ValuesAndRegistersMove : Prop :=
  (∀ (imm : BitVec 16) (u : BitVec 9),
      SendsScalar (.movi imm u) (fun _ => imm.signExtend 64) ∧ SendsScalar (.movhi imm u) (fun x => (x.wa <<< 16) ||| imm.zeroExtend 64)) ∧
  ((∀ (g : BitVec 6) (t u : BitVec 9) (s : State) (k : Task) (f f' : Frame) (idx : Nat) (x : Ins), Fires s (.get g t u) k f idx x →
      Frame.putAll (f.fired idx x) idx (scalar f.g0[g.toNat]) [t, u] = .ok f' →
      exec (.get g t u) s = .next (s.setFrame ((k.count 1).joinReg g.toNat) f')) ∧
    (∀ (k : Task) (g : Nat), ∃ (p : Word) (o : List Nat), k.joinReg g = { k with pts := p, owed := o } ∧ k.pts.toNat ≤ p.toNat ∧
      (∀ l ∈ k.owed, l ∈ o) ∧ ∀ y, k.joins.find? (fun y => y.reg = g) = some y → min (2 ^ 64 - 1) y.pts ≤ p.toNat ∧ ∀ l ∈ y.lines, l ∈ o) ∧
    (∀ (g : BitVec 6) (t u : BitVec 9) (s : State) (pos slot idx : Nat) (k : Task) (f : Frame),
      s.ctl.focus = .fire pos slot idx → s.task? pos slot = some k → k.frame = some f → g.toNat ∈ f.gpend →
      exec (.get g t u) s = .next s) ∧
    (∀ (s : State) (c : CopyOp) (v : Word) (k : Task) (f : Frame), s.task? c.pos c.slot = some k → k.cid = c.cid → k.frame = some f → c.g < 64 →
      ∃ k' f', (endCopy s c v).task? c.pos c.slot = some k' ∧ k'.frame = some f' ∧ c.g ∉ f'.gpend ∧ f'.ins = f.ins ∧
        f'.g0.toList.getD c.g 0 = (if c.g ∈ f.gpend then v else f.g0.toList.getD c.g 0))) ∧
  ((∀ (n : BitVec 7) (t u : BitVec 9), Sends (.getx n t u) (fun _ _ f _ => (scalar (f.spr.getD n.toNat 0), 0))) ∧
    (∀ (n : BitVec 5) (t u : BitVec 9), Sends (.vget n t u) (fun _ k _ _ => (vector k.v[n.toNat], 0))) ∧
    (∀ (n : BitVec 7) (t u : BitVec 9) (s : State) (k : Task) (f f' : Frame) (idx : Nat) (x : Ins), Fires s (.putx n t u) k f idx x →
      (sprReadOnly n.toNat = false →
        Frame.putAll { f.fired idx x with xw := f.xw ++ [(idx, n.toNat, x.wa)] } idx (x.a.getD .null) [t, u] = .ok f' →
        exec (.putx n t u) s = .next (left s k f')) ∧
      (sprReadOnly n.toNat = true →
        exec (.putx n t u) s = .next (blockFault s (k.count 1) (f.fired idx x) { code := 0x08, sub := n.toNat, idx := idx }))) ∧
    (∀ (t : Task) (n : Nat) (v : Word),
       (sprWrite t n v).lnk = (if n = 0x08 then v else t.lnk) ∧
       (sprWrite t n v).flg = (if n = 0x09 then v &&& 0x1F else t.flg) ∧
       (sprWrite t n v).rm = (if n = 0x0A then v &&& 3 else t.rm) ∧
       (sprWrite t n v).rnglo = (if n = 0x10 then v else t.rnglo) ∧
       (sprWrite t n v).rnghi = (if n = 0x11 then v else t.rnghi) ∧
       (sprWrite t n v).steal = (if n = 0x12 then (t.steal &&& ~~~0x700000000) ||| (v &&& 0x700000000) else t.steal) ∧
       (sprWrite t n v).scope = (if n = 0x31 then v &&& 1 else t.scope) ∧
       (sprReadOnly n = true → sprWrite t n v = t) ∧
       (sprWrite t n v).g = t.g ∧ (sprWrite t n v).v = t.v ∧ (sprWrite t n v).shp = t.shp ∧ (sprWrite t n v).fault = t.fault ∧
       (sprWrite t n v).pts = t.pts ∧ (sprWrite t n v).perf = t.perf ∧ (sprWrite t n v).frame = t.frame))

/-- FLOW and VFLOW: MOV and JOIN pass operand a on, NULL sends null, SEL chooses by the whole condition, VSEL by bit 7 of each mask
byte (R99, R122). STEER.D sends the data to T1 when the condition is not 0, else to T0, and nothing to the other side; STEER.N sends
null to the other side (R23, R99, R122). A merge passes its one token that is not null; two such tokens raise OVERRUN and neither
passes (R22, R99, R122; that OVERRUN names the merge itself is log 13). -/
def Obligations.PlumbingPassesTokens : Prop :=
  (∀ (t u : BitVec 9),
      SendsResult (.flowMov t u) (fun x => (x.a.getD .null, 0)) ∧ SendsResult (.flowJoin t u) (fun x => (x.a.getD .null, 0)) ∧
      SendsResult (.flowNull t u) (fun _ => (.null, 0)) ∧
      SendsResult (.sel t u) (fun x => ((if x.wc ≠ 0 then x.a else x.b).getD .null, 0)) ∧
      SendsResult (.vflowMov t u) (fun x => (x.a.getD .null, 0)) ∧ SendsResult (.vflowJoin t u) (fun x => (x.a.getD .null, 0)) ∧
      SendsResult (.vflowNull t u) (fun _ => (.null, 0)) ∧
      SendsVector (.vsel t u) (fun x => pack 8 (mapLanes 8 x.va x.vb x.vc (fun a b c => if 128 ≤ c then a else b)))) ∧
  (∀ (t u : BitVec 9) (s : State) (k : Task) (f f' : Frame) (idx : Nat) (x : Ins),
      (∀ i ∈ [Instr.steerD t u, .vflowSteerD t u],
        (x.wb ≠ 0 → FiresTo s i k f idx x [t] → Frame.put (f.fired idx x) idx (x.a.getD .null) t = .ok f' →
          exec i s = .next (left s k f')) ∧
        (x.wb = 0 → FiresTo s i k f idx x [u] → Frame.put (f.fired idx x) idx (x.a.getD .null) u = .ok f' →
          exec i s = .next (left s k f'))) ∧
      (∀ i ∈ [Instr.steerN t u, .vflowSteerN t u], ∀ f1 : Frame,
        (x.wb ≠ 0 → FiresTo s i k f idx x [t, u] → Frame.put (f.fired idx x) idx (x.a.getD .null) t = .ok f1 →
          Frame.put f1 idx .null u = .ok f' → exec i s = .next (left s k f')) ∧
        (x.wb = 0 → FiresTo s i k f idx x [t, u] → Frame.put (f.fired idx x) idx .null t = .ok f1 →
          Frame.put f1 idx (x.a.getD .null) u = .ok f' → exec i s = .next (left s k f')))) ∧
  (∀ (t u : BitVec 9) (s : State) (k : Task) (f f' : Frame) (idx : Nat) (x : Ins), ∀ i ∈ [Instr.flowMerge t u, .vflowMerge t u],
      (∀ y : Tok, y ≠ .null → ((x.a = some y ∧ (x.b = none ∨ x.b = some .null)) ∨ (x.b = some y ∧ (x.a = none ∨ x.a = some .null))) →
        Fires s i k f idx x → Frame.putAll (f.fired idx x) idx y [t, u] = .ok f' → exec i s = .next (left s k f')) ∧
      (∀ y z : Tok, y ≠ .null → z ≠ .null → x.a = some y → x.b = some z → Fires s i k f idx x →
        exec i s = .next (blockFault s (k.count 1) (f.fired idx x) { code := 0x06, sub := 0, idx := idx })))

/-- The immediate forms of the integer instructions take operand a and the immediate at 64 bits, and have one target; their words; a shift
immediate of 64 or more is no instruction and raises ILLEGAL subcode 2 (R105). -/
def Obligations.IntegerImmediates : Prop :=
  (∀ (imm : BitVec 16) (k : BitVec 6) (u : BitVec 9),
    let word (op m : Nat) : Option Nat := some (op * 2 ^ 25 + m * 2 ^ 9 + u.toNat)
    let m := imm.toNat
    encode (.addi imm u) = word 0x11 m ∧ encode (.andi imm u) = word 0x12 m ∧ encode (.ori imm u) = word 0x13 m ∧
    encode (.xori imm u) = word 0x14 m ∧ encode (.shli k u) = word 0x15 k.toNat ∧ encode (.shri k u) = word 0x16 k.toNat ∧
    encode (.sari k u) = word 0x17 k.toNat ∧ encode (.cmpeqi imm u) = word 0x18 m ∧ encode (.cmplti imm u) = word 0x19 m ∧
    encode (.cmpltui imm u) = word 0x1A m ∧ encode (.muli imm u) = word 0x1B m ∧
    (∀ op ∈ [0x15, 0x16, 0x17], 64 ≤ m → decodeWord (op * 2 ^ 25 + m * 2 ^ 9 + u.toNat) = none ∧
      illegalSub (op * 2 ^ 25 + m * 2 ^ 9 + u.toNat) = 2) ∧
    (∀ i ∈ [Instr.addi imm u, .andi imm u, .ori imm u, .xori imm u, .shli k u, .shri k u, .sari k u, .cmpeqi imm u, .cmplti imm u,
      .cmpltui imm u, .muli imm u], i.targets = [u] ∧ i.slots.length = 1)) ∧
  ∀ (imm : BitVec 16) (k : BitVec 6) (u : BitVec 9),
    SendsScalar (.addi imm u) (fun x => x.wa + imm.signExtend 64) ∧
    SendsScalar (.andi imm u) (fun x => x.wa &&& imm.zeroExtend 64) ∧
    SendsScalar (.ori imm u) (fun x => x.wa ||| imm.zeroExtend 64) ∧
    SendsScalar (.xori imm u) (fun x => x.wa ^^^ imm.zeroExtend 64) ∧
    SendsScalar (.shli k u) (fun x => x.wa <<< k.toNat) ∧
    SendsScalar (.shri k u) (fun x => x.wa >>> k.toNat) ∧
    SendsScalar (.sari k u) (fun x => x.wa.sshiftRight k.toNat) ∧
    SendsScalar (.cmpeqi imm u) (fun x => if x.wa = imm.signExtend 64 then 1 else 0) ∧
    SendsScalar (.cmplti imm u) (fun x => if x.wa.toInt < (imm.signExtend 64).toInt then 1 else 0) ∧
    SendsScalar (.cmpltui imm u) (fun x => if x.wa.toNat < (imm.zeroExtend 64).toNat then 1 else 0) ∧
    SendsScalar (.muli imm u) (fun x => x.wa * imm.signExtend 64)

/-- IALU: its words, its arity, and its codes 43 to 63, which are no instructions and raise ILLEGAL subcode 2; it sends the result of its operation and raises nothing (R103). Every
operation of its table at both widths, on bit vectors of the width, the result sign-extended (R104). -/
def Obligations.IaluTable : Prop :=
  (∀ (w : BitVec 1) (c : BitVec 6) (t u : BitVec 9),
      let word := 0x10 * 2 ^ 25 + w.toNat * 2 ^ 24 + c.toNat * 2 ^ 18 + t.toNat * 2 ^ 9 + u.toNat
      (c.toNat < 43 → encode (.ialu w c t u) = some word ∧ (Instr.ialu w c t u).targets = [t, u] ∧ (Instr.ialu w c t u).slots.length =
        if 29 ≤ c.toNat ∧ c.toNat ≤ 37 ∨ 39 ≤ c.toNat then 1 else if c.toNat = 38 then 3 else 2) ∧
      (43 ≤ c.toNat → decodeWord word = some (.ialu w c t u) ∧ ∀ (s : State) (k : Task) (f : Frame) (idx : Nat) (x : Ins), waiting? s = none →
        firing? s (.ialu w c t u) = some (k, f, idx, x) → x.firesNull (.ialu w c t u) = false →
        exec (.ialu w c t u) s = .next (blockFault s (k.count 1) (f.fired idx x) { code := 0x01, sub := 2, idx := idx }))) ∧
  (∀ (W n : Nat) (a b c : Word), (W = 0 ∧ n = 64) ∨ (W = 1 ∧ n = 32) →
      let A : BitVec n := a.truncate n
      let B : BitVec n := b.truncate n
      let C : BitVec n := c.truncate n
      let k := B.toNat % n
      let r (code : Nat) : Word := ialuResult W code a b c
      let bool (p : Prop) [Decidable p] : Word := if p then 1 else 0
      r 0 = (A + B).signExtend 64 ∧ r 1 = (A - B).signExtend 64 ∧
      r 2 = (A &&& B).signExtend 64 ∧ r 3 = (A ||| B).signExtend 64 ∧ r 4 = (A ^^^ B).signExtend 64 ∧
      r 5 = (A &&& ~~~B).signExtend 64 ∧ r 6 = (A ||| ~~~B).signExtend 64 ∧
      r 7 = (A <<< k).signExtend 64 ∧ r 8 = (A >>> k).signExtend 64 ∧ r 9 = (A.sshiftRight k).signExtend 64 ∧
      r 10 = (A.rotateLeft k).signExtend 64 ∧ r 11 = (A.rotateRight k).signExtend 64 ∧
      r 12 = (if A.toInt ≤ B.toInt then A else B).signExtend 64 ∧ r 13 = (if A.toInt ≤ B.toInt then B else A).signExtend 64 ∧
      r 14 = (if A.toNat ≤ B.toNat then A else B).signExtend 64 ∧ r 15 = (if A.toNat ≤ B.toNat then B else A).signExtend 64 ∧
      r 16 = bool (A = B) ∧ r 17 = bool (A ≠ B) ∧ r 18 = bool (A.toInt < B.toInt) ∧ r 19 = bool (A.toInt ≤ B.toInt) ∧
      r 20 = bool (A.toNat < B.toNat) ∧ r 21 = bool (A.toNat ≤ B.toNat) ∧
      r 22 = (A * B).signExtend 64 ∧ r 23 = (BitVec.ofInt n (A.toInt * B.toInt / 2 ^ n)).signExtend 64 ∧
      r 24 = (BitVec.ofNat n (A.toNat * B.toNat / 2 ^ n)).signExtend 64 ∧
      r 25 = (if B = 0 then BitVec.allOnes n else A.sdiv B).signExtend 64 ∧
      r 26 = (if B = 0 then BitVec.allOnes n else A / B).signExtend 64 ∧
      r 27 = (if B = 0 then A else A.srem B).signExtend 64 ∧ r 28 = (if B = 0 then A else A % B).signExtend 64 ∧
      (∃ z : Nat, r 29 = BitVec.ofNat 64 z ∧ z ≤ n ∧ (∀ i, i < z → A.getMsbD i = false) ∧ (z < n → A.getMsbD z = true)) ∧
      (∃ z : Nat, r 30 = BitVec.ofNat 64 z ∧ z ≤ n ∧ (∀ i, i < z → A.getLsbD i = false) ∧ (z < n → A.getLsbD z = true)) ∧
      r 31 = BitVec.ofNat 64 ((List.range n).countP (fun i => A.getLsbD i)) ∧
      r 32 = ((A.truncate 8).signExtend n).signExtend 64 ∧ r 33 = ((A.truncate 16).signExtend n).signExtend 64 ∧
      r 34 = ((A.truncate 32).signExtend n).signExtend 64 ∧ r 35 = ((A.truncate 8).zeroExtend n).signExtend 64 ∧
      r 36 = ((A.truncate 16).zeroExtend n).signExtend 64 ∧ r 37 = ((A.truncate 32).zeroExtend n).signExtend 64 ∧
      r 38 = (A * B + C).signExtend 64 ∧
      (∃ R : BitVec n, r 39 = R.signExtend 64 ∧ ∀ i, i < n → R.getLsbD i = A.getLsbD (n - 8 * (i / 8 + 1) + i % 8)) ∧
      (∃ R : BitVec n, r 40 = R.signExtend 64 ∧ ∀ i, i < n → R.getLsbD i = A.getLsbD (n - 1 - i)) ∧
      r 41 = (if A.toInt < 0 then -A else A).signExtend 64 ∧ r 42 = (-A).signExtend 64) ∧
  (∀ (w : BitVec 1) (c : BitVec 6) (t u : BitVec 9), c.toNat < 43 →
      SendsScalar (.ialu w c t u) (fun x => ialuResult w.toNat c.toNat x.wa x.wb x.wc))

/-- FALU and FALU.DYN send the once-rounded result of their operation, RNE or the mode of `x.rm` as it was at dispatch, placed low in
the token, and raise its flags (R106, R107). Rounding by mode: to nearest with ties to even, towards zero, down, up; the result is the exact
value rounded once to its format, NX says that they differ, UF that it is tiny as well, and a value that overflows gives OF and NX with the
result of its mode (`RoundsTo`; R45, R46, R48). FADD, FSUB, FMUL, FDIV, FSQRT and FMA of finite numbers are the exact ones so rounded, with
their zeros, DZ and NV; so are infinities. FMIN, FMAX and the comparisons order the numbers; FABS, FNEG and FCLASS; and the canonical NaN
that a NaN operand gives (R40, R107, R108). -/
def Obligations.ScalarFloatSendsResult : Prop :=
  ((∀ (F : BitVec 3) (c : BitVec 4) (t u : BitVec 9),
      SendsResult (.falu F c t u) (fun x =>
        let r := faluOp F.toNat 0 c.toNat x.wa.toNat x.wb.toNat x.wc.toNat
        (scalar (BitVec.ofNat 64 r.1), r.2))) ∧
    (∀ (c : BitVec 4) (t u : BitVec 9),
      Sends (.faluDyn c t u) (fun _ _ f x =>
        let r := faluOp 0 ((f.spr.getD 0x0A 0).toNat % 4) c.toNat x.wa.toNat x.wb.toNat x.wc.toNat
        (scalar (BitVec.ofNat 64 r.1), r.2)))) ∧
  (∀ (mode : Nat) (neg : Bool) (m : Nat) (e q : Int),
      let r := roundAt mode neg m e false q
      (q ≤ e → r = (m * 2 ^ (e - q).toNat, false)) ∧
      (e < q →
        let d := 2 ^ (q - e).toNat
        (r.2 = true ↔ m % d ≠ 0) ∧ m / d ≤ r.1 ∧ r.1 ≤ (m + d - 1) / d ∧
        (mode = 0 → 2 * (m - m / d * d) < d → r.1 = m / d) ∧ (mode = 0 → d < 2 * (m - m / d * d) → r.1 = m / d + 1) ∧
        (mode = 0 → 2 * (m - m / d * d) = d → r.1 % 2 = 0) ∧
        (mode = 1 → r.1 = m / d) ∧
        (mode = 2 → r.1 = if neg then (m + d - 1) / d else m / d) ∧
        (mode = 3 → r.1 = if neg then m / d else (m + d - 1) / d))) ∧
  (∀ (F mode : Nat) (sat neg : Bool) (m : Nat) (e : Int), F < 5 → mode < 4 → 0 < m →
      RoundsTo F mode sat ((signed neg m : ℝ) * (2 : ℝ) ^ e) (roundNum F mode sat neg m e false)) ∧
  (∀ (F mode a b c : Nat) (g h i : Bool) (m n o : Nat) (e k l : Int), F < 3 → mode < 4 →
      readNum F a = .fin g m e → readNum F b = .fin h n k → readNum F c = .fin i o l →
      let A : ℝ := (signed g m : ℝ) * (2 : ℝ) ^ e
      let B : ℝ := (signed h n : ℝ) * (2 : ℝ) ^ k
      let C : ℝ := (signed i o : ℝ) * (2 : ℝ) ^ l
      let op (x : Nat) : Res := faluOp F mode x a b c
      let rounds (v : ℝ) (R : Res) : Prop := RoundsTo F mode false v R
      let zero (z : Bool) : Res := (signBit F z, 0)
      (A + B ≠ 0 → rounds (A + B) (op 0)) ∧ (A + B = 0 → op 0 = zero (if m = 0 ∧ n = 0 ∧ g = h then g else decide (mode = 2))) ∧
      (A - B ≠ 0 → rounds (A - B) (op 1)) ∧ (A - B = 0 → op 1 = zero (if m = 0 ∧ n = 0 ∧ g ≠ h then g else decide (mode = 2))) ∧
      (m * n ≠ 0 → rounds (A * B) (op 2)) ∧ (m * n = 0 → op 2 = zero (g ^^ h)) ∧
      (m ≠ 0 → n ≠ 0 → rounds (A / B) (op 3)) ∧ (m = 0 → n ≠ 0 → op 3 = zero (g ^^ h)) ∧
      (m ≠ 0 → n = 0 → op 3 = (infBits F (g ^^ h), fDZ)) ∧ (m = 0 → n = 0 → op 3 = (canonNaN F, fNV)) ∧
      (m ≠ 0 → g = false → rounds (Real.sqrt A) (op 4)) ∧ (m = 0 → op 4 = zero g) ∧ (m ≠ 0 → g = true → op 4 = (canonNaN F, fNV)) ∧
      (A * B + C ≠ 0 → rounds (A * B + C) (op 5)) ∧
      (A * B + C = 0 → op 5 = zero (if m * n = 0 ∧ o = 0 ∧ (g ^^ h) = i then i else decide (mode = 2)))) ∧
  (∀ (F mode a b c : Nat) (s t h : Bool) (n : Nat) (k : Int), F < 3 →
      let x := readNum F a
      let y := readNum F b
      let op (z : Nat) : Res := faluOp F mode z a b c
      let inf (z : Bool) : Res := (infBits F z, 0)
      let invalid : Res := (canonNaN F, fNV)
      (x = .inf s → y = .inf t → op 0 = (if s = t then inf s else invalid) ∧ op 1 = (if s = t then invalid else inf s) ∧
        op 2 = inf (s ^^ t) ∧ op 3 = invalid) ∧
      (x = .inf s → y = .fin h n k → op 0 = inf s ∧ op 1 = inf s ∧ op 2 = (if n = 0 then invalid else inf (s ^^ h)) ∧ op 3 = inf (s ^^ h) ∧
        (n = 0 → op 5 = invalid)) ∧
      (x = .fin h n k → y = .inf t → op 0 = inf t ∧ op 1 = inf (!t) ∧ op 2 = (if n = 0 then invalid else inf (h ^^ t)) ∧
        op 3 = (signBit F (h ^^ t), 0) ∧ (n = 0 → op 5 = invalid)) ∧
      (x = .inf s → op 4 = if s then invalid else inf false) ∧
      (mulExact x y = (.inf s, 0) → readNum F c = .inf t → op 5 = if s = t then inf s else invalid) ∧
      (mulExact x y = (.inf s, 0) → readNum F c = .fin h n k → op 5 = inf s) ∧
      (∀ z v w, mulExact x y = (.fin z v w, 0) → readNum F c = .inf t → op 5 = inf t) ∧
      (mulExact x y ≠ (.nan, fNV) → readNum F c = .nan → op 5 = (canonNaN F, 0))) ∧
  (∀ (F mode a b c : Nat), F < 3 →
      let x := readNum F a
      let y := readNum F b
      let A : Res := (a % 2 ^ fmtWidth F, 0)
      let B : Res := (b % 2 ^ fmtWidth F, 0)
      let op (z : Nat) : Res := faluOp F mode z a b c
      x ≠ .nan → y ≠ .nan →
      (x.below y → op 6 = A ∧ op 7 = B ∧ op 10 = (0, 0) ∧ op 11 = (1, 0) ∧ op 12 = (1, 0)) ∧
      (y.below x → op 6 = B ∧ op 7 = A ∧ op 10 = (0, 0) ∧ op 11 = (0, 0) ∧ op 12 = (0, 0)) ∧
      (¬ x.below y → ¬ y.below x → op 10 = (1, 0) ∧ op 11 = (0, 0) ∧ op 12 = (1, 0) ∧
        (y.isNeg = false ∨ x.isNeg = true → op 6 = A ∧ op 7 = B) ∧ (x.isNeg = false ∨ y.isNeg = true → op 6 = B ∧ op 7 = A))) ∧
  (∀ (F mode a b c : Nat), F < 3 →
      let w := fmtWidth F
      let A := a % 2 ^ w
      let nan (x : Nat) : Prop := readNum F (x % 2 ^ w) = .nan
      (¬ nan a → (faluOp F mode 8 a b c).1 % 2 ^ w = A % 2 ^ (w - 1) ∧ (faluOp F mode 8 a b c).2 = 0) ∧
      (¬ nan a → (faluOp F mode 9 a b c).1 % 2 ^ w = (A + 2 ^ (w - 1)) % 2 ^ w ∧ (faluOp F mode 9 a b c).2 = 0) ∧
      (faluOp F mode 13 a b c = (if nan a ∨ nan b then 1 else 0, 0)) ∧
      (nan a ∨ nan b → (faluOp F mode 10 a b c) = (0, 0) ∧ faluOp F mode 11 a b c = (0, fNV) ∧ faluOp F mode 12 a b c = (0, fNV)) ∧
      (∀ op ∈ [0, 1, 2, 3, 5, 6, 7], nan a ∨ nan b → faluOp F mode op a b c = (canonNaN F, 0)) ∧
      (∀ op ∈ [4, 8, 9], nan a → faluOp F mode op a b c = (canonNaN F, 0)) ∧
      (nan a → faluOp F mode 14 a b c = (2 ^ 8, 0)) ∧
      (∃ k, k < 9 ∧ faluOp F mode 14 a b c = (2 ^ k, 0)))

/-- CVT and CVTX send the converted value placed by R37 and raise its flags; CVT reads its mode from the word, CVTX from `x.rm` as it
was at dispatch (R109, R110). Conversions between integer formats clamp to the destination's range or keep its low bits, by SAT; a NaN
gives 0 and NV as an integer, an infinity the end of the range and NV; a finite number rounds by the mode to an integer, clamps with NV
beyond the range and raises NX where it is inexact; an integer rounds once to the format (R45, R47). Between floating-point formats a finite
number rounds once by the mode, a NaN gives the canonical one, and an infinity an infinity, in E4M3 the NaN with NV; SAT gives the largest
number of E4M3 and E5M2 for an infinity and for an overflow (R45, R46; an infinity from E5M2 to E5M2 with SAT is log 46). -/
def Obligations.ScalarConversionSendsResult : Prop :=
  ((∀ (D S : BitVec 4) (h : BitVec 2) (a : BitVec 1) (m : BitVec 2) (u : BitVec 9),
      SendsResult (.cvt D S h a m u) (fun x =>
        let r := convert D.toNat S.toNat m.toNat (a = 1) ((if h = 1 then x.wa.toNat / 2 ^ 32 else x.wa.toNat) % 2 ^ fmtWidth S.toNat)
        (scalar (placeScalar D.toNat r.1), r.2))) ∧
    (∀ (D S : BitVec 4) (u : BitVec 9),
      Sends (.cvtx D S u) (fun _ _ f x =>
        let r := convert D.toNat S.toNat ((f.spr.getD 0x0A 0).toNat % 4) false (x.wa.toNat % 2 ^ fmtWidth S.toNat)
        (scalar (placeScalar D.toNat r.1), r.2)))) ∧
  (∀ (D S mode x : Nat) (sat : Bool), isFloat D = false →
      (isFloat S = false → convert D S mode sat x =
        (wrap (fmtWidth D) (if sat then max (intMin D) (min (intMax D) (readInt S x)) else readInt S x), 0)) ∧
      (isFloat S = true → readNum S x = .nan → convert D S mode sat x = (0, fNV)) ∧
      (∀ g, isFloat S = true → readNum S x = .inf g → convert D S mode sat x = (wrap (fmtWidth D) (if g then intMin D else intMax D), fNV)) ∧
      (∀ g m e, isFloat S = true → D < 15 → readNum S x = .fin g m e →
        let r := roundAt mode g m e false 0
        (signed g r.1 < intMin D → convert D S mode sat x = (wrap (fmtWidth D) (intMin D), fNV)) ∧
        (intMax D < signed g r.1 → convert D S mode sat x = (wrap (fmtWidth D) (intMax D), fNV)) ∧
        (intMin D ≤ signed g r.1 → signed g r.1 ≤ intMax D →
          convert D S mode sat x = (wrap (fmtWidth D) (signed g r.1), if r.2 then fNX else 0)))) ∧
  (∀ (D S mode x : Nat) (sat : Bool), isFloat D = true → isFloat S = false → convert D S mode sat x =
      if readInt S x = 0 then (0, 0) else roundNum D mode sat (decide (readInt S x < 0)) (readInt S x).natAbs 0 false) ∧
  (∀ (D S mode x : Nat) (sat g : Bool), D < 5 → S < 5 → mode < 4 →
      (readNum S x = .nan → convert D S mode sat x = (canonNaN D, 0)) ∧
      (readNum S x = .inf g →
        (sat = true → D = 3 ∨ D = 4 → convert D S mode sat x = (maxFinite D g, 0)) ∧
        (sat = false → D = 3 → convert D S mode sat x = (0x7F, fNV)) ∧
        (D ≠ 3 → D ≠ 4 ∨ sat = false → convert D S mode sat x = (infBits D g, 0))) ∧
      (∀ m e, readNum S x = .fin g m e →
        (m = 0 → convert D S mode sat x = (signBit D g, 0)) ∧
        (m ≠ 0 → RoundsTo D mode sat ((signed g m : ℝ) * (2 : ℝ) ^ e) (convert D S mode sat x))) ∧
      (sat = true → D = 3 ∨ D = 4 → overflowBits D mode sat g = maxFinite D g) ∧
      (sat = false ∨ D < 3 → overflowBits D mode sat g =
        if mode = 0 ∨ (mode = 2 ∧ g = true) ∨ (mode = 3 ∧ g = false) then infBits D g else maxFinite D g))

/-- WAITT waits its count, and at least one cycle, before its trigger; PERF sends the counter it names, or 0 above 7; NOTE makes a
trace record when tracing is on and there is room, and sends its trigger in every case (R112 to R114). That PERF reads counters in which its
own firing has been counted is the model's choice, log 31. -/
def Obligations.TimersCountersAndNotes : Prop :=
  (∀ (t u : BitVec 9) (s : State) (k : Task) (f : Frame) (idx : Nat) (x : Ins), Fires s (.waitt t u) k f idx x →
    exec (.waitt t u) s = .next (left s k ((f.fired idx x).wait idx (.timer (s.ctl.now + max 1 x.wa.toNat))))) ∧
  (∀ (s : State) (pe slot idx till : Nat) (k : Task) (f f' : Frame) (i : Instr), s.task? pe slot = some k → k.frame = some f →
    ({ idx := idx, kind := .timer till } : Wait) ∈ f.waits → till ≤ s.ctl.now → decodeWord (s.insWord k.pos f.hdr idx) = some i →
    Frame.putAll (f.unwait idx) idx trigger i.targets = .ok f' →
    exec (.waittExpire pe slot idx) s = .next (s.setFrame k f')) ∧
  (∀ (t u : BitVec 9), Sends (.perf t u) (fun _ k _ x => (scalar (if x.wa.toNat < 8 then k.perf.toList.getD x.wa.toNat 0 else 0), 0))) ∧
  (∀ (t u : BitVec 9) (s : State) (k : Task) (f f' : Frame) (idx : Nat) (x : Ins), Fires s (.note t u) k f idx x →
    Frame.putAll (f.fired idx x) idx trigger [t, u] = .ok f' →
    exec (.note t u) s = .next (left (s.mapPad k.part.toNat (fun p =>
      if p.tracing = false then p
      else if p.trace.length < p.cap then
        { p with trace := p.trace ++ [[k.cfg, BitVec.ofNat 64 k.pos, BitVec.ofNat 64 k.slot, BitVec.ofNat 64 (s.ctl.now - k.bound), x.wa]] }
      else { p with traceDrops := p.traceDrops + 1 })) k f'))

/-! ### Data plane -/

/-- Lanes between the planes and rearranged (R119 to R121, R132, R154): SPLAT copies the operand's low bits into every lane, VEXT
zero-extends one lane, VINS replaces one, VPERM rearranges them with the count in its control operand, VMATCH finds partners. The
reductions of lanes (R133). Floating-point lanes, conversions of vectors, quantising and dequantising, and scale-
and-accumulate send their lanes and raise the flags of all of them (R126 to R131). A finite value that quantises within the range is the
nearest integer of its quotient by the scale, ties to even, plus the zero point; a dequantised value and a scaled accumulation are
the exact ones, rounded once (R43, R45, R53). -/
def Obligations.LanesSendResult : Prop :=
  (∀ (w : BitVec 2) (l : BitVec 5) (c : BitVec 5) (t u : BitVec 9),
      let n := laneWidth w.toNat
      SendsVector (.splat w t u) (fun x => pack n (List.replicate (512 / n) x.wa.toNat)) ∧
      SendsScalar (.vext w l t u) (fun x => BitVec.ofNat 64 (lane n x.va l.toNat)) ∧
      SendsVector (.vins w l t u) (fun x => pack n ((lanes n x.va).set l.toNat x.wb.toNat)) ∧
      SendsVector (.vperm w c t u)
        (fun x => pack n (vpermOp n c.toNat (lanes n x.va) (lanes n x.vb) (if c.toNat = 5 then x.wb else x.wc).toNat)) ∧
      SendsVector (.vmatch u) (fun x => packPairs ((pairs x.va).map (fun p =>
        if p.1 = sentinel then (sentinel, 0)
        else match (pairs x.vb).find? (fun q => q.1 = p.1) with
          | some q => (p.1, q.2)
          | none => (sentinel, 0))))) ∧
  (∀ (f : BitVec 3) (c : BitVec 4) (t u : BitVec 9),
      SendsResult (.vred f c t u) (fun x => (scalar (vredOp f.toNat c.toNat x.va).1, (vredOp f.toNat c.toNat x.va).2))) ∧
  ((∀ (F : BitVec 3) (c : BitVec 4) (t u : BitVec 9),
      SendsResult (.vfalu F c t u) (fun x =>
        packRes (fmtWidth F.toNat) (mapLanes (fmtWidth F.toNat) x.va x.vb x.vc (fun a b d => vfaluOp F.toNat c.toNat a b d)))) ∧
    (∀ (D S : BitVec 4) (h : BitVec 2) (a : BitVec 1) (m : BitVec 2) (u : BitVec 9),
      SendsResult (.vcvt D S h a m u) (fun x =>
        packRes (fmtWidth D.toNat) (vcvtLanes D.toNat S.toNat h.toNat m.toNat (a = 1) x.va x.vb))) ∧
    (∀ (D S : BitVec 4) (g : BitVec 2) (u : BitVec 9),
      SendsResult (.vqnt D g S u) (fun x =>
        let w := fmtWidth D.toNat
        let zp := x.wc.toNat % 2 ^ w
        let q := (lanes (fmtWidth S.toNat) x.va).map (fun v => quantise S.toNat v (x.wb.toNat % 2 ^ 16) zp w)
        packRes w (q ++ List.replicate (512 / w - q.length) (zp, 0))) ∧
      SendsResult (.vdqnt D g S u) (fun x =>
        let w := fmtWidth S.toNat
        packRes (fmtWidth D.toNat) (((lanes w x.va).take (512 / fmtWidth D.toNat)).map (fun q =>
          dequantise D.toNat q (x.wb.toNat % 2 ^ 16) (x.wc.toNat % 2 ^ w))))) ∧
    (∀ (k : BitVec 1) (t u : BitVec 9),
      SendsResult (.vscacc k t u) (fun x => packRes 32 ((List.range 16).map (fun i =>
        scaleAcc (lane 32 x.va i) (sgn 32 (lane 32 x.vb i)) (if k = 0 then x.wc.toNat % 2 ^ 16 else lane 16 x.vc i)))))) ∧
  (∀ (F x scale zp w m n : Nat) (g h : Bool) (e k : Int), F < 3 → w = 4 ∨ w = 8 → zp < 2 ^ w → readNum F x = .fin g m e →
      readNum 1 scale = .fin h n k → n ≠ 0 → 0 < (quantise F x scale zp w).1 → (quantise F x scale zp w).1 + 1 < 2 ^ w →
      let y : Int := ((quantise F x scale zp w).1 : Int) - zp
      let exact : ℚ := ((signed g m : ℚ) * (2 : ℚ) ^ e) / ((signed h n : ℚ) * (2 : ℚ) ^ k)
      |(y : ℚ) - exact| ≤ 1 / 2 ∧ (|(y : ℚ) - exact| = 1 / 2 → y % 2 = 0)) ∧
  (∀ (F q scale zp m : Nat) (g : Bool) (e : Int), readNum 1 scale = .fin g m e →
      ∃ z, dequantise F q scale zp = roundInt F 0 false z (signed g m * ((q : Int) - zp)) e) ∧
  (∀ (acc scale m n : Nat) (part : Int) (g h : Bool) (e k : Int), readNum 0 acc = .fin g m e → readNum 1 scale = .fin h n k →
      ∃ (z : Bool) (x : Int) (y : Int), scaleAcc acc part scale = roundInt 0 0 false z x y ∧
        (x : ℚ) * (2 : ℚ) ^ y = (signed g m : ℚ) * (2 : ℚ) ^ e + (part : ℚ) * ((signed h n : ℚ) * (2 : ℚ) ^ k))

/-- VIALU: its words, its arity, and its width 3 and codes 25 to 31, which are no instructions and raise ILLEGAL subcode 2; it sends its
operation on every lane and raises nothing (R124). Every operation of its table on a lane of w bits (R125). Lanes of a packed vector read
back, and a vector is its lanes (R36). -/
def Obligations.VialuTable : Prop :=
  (∀ (w : BitVec 2) (c : BitVec 5) (t u : BitVec 9),
      let word := 0x50 * 2 ^ 25 + w.toNat * 2 ^ 23 + c.toNat * 2 ^ 18 + t.toNat * 2 ^ 9 + u.toNat
      let n := laneWidth w.toNat
      (w ≠ 3 → c.toNat < 25 → encode (.vialu w c t u) = some word ∧ (Instr.vialu w c t u).targets = [t, u] ∧
        (Instr.vialu w c t u).slots.length = if c = 16 ∨ c = 23 ∨ c = 24 then 1 else if c = 22 then 3 else 2) ∧
      (w = 3 ∨ 25 ≤ c.toNat → decodeWord word = some (.vialu w c t u) ∧ ∀ (s : State) (k : Task) (f : Frame) (idx : Nat) (x : Ins),
        waiting? s = none → firing? s (.vialu w c t u) = some (k, f, idx, x) →
        x.firesNull (.vialu w c t u) = false →
        exec (.vialu w c t u) s = .next (blockFault s (k.count 1) (f.fired idx x) { code := 0x01, sub := 2, idx := idx })) ∧
      SendsVector (.vialu w c t u) (fun x => pack n (mapLanes n x.va x.vb x.vc (fun a b d => wrap n (vialuOp n c.toNat a b d))))) ∧
  (∀ (w a b c : Nat), w ∈ [8, 16, 32] → a < 2 ^ w → b < 2 ^ w → c < 2 ^ w →
      let A := BitVec.ofNat w a
      let B := BitVec.ofNat w b
      let C := BitVec.ofNat w c
      let k := b % w
      let hi : Int := 2 ^ (w - 1)
      let r (code : Nat) : BitVec w := BitVec.ofNat w (wrap w (vialuOp w code a b c))
      let ones (p : Prop) [Decidable p] : BitVec w := if p then BitVec.allOnes w else 0
      r 0 = A + B ∧ r 1 = A - B ∧
      (r 2).toInt = max (-hi) (min (hi - 1) (A.toInt + B.toInt)) ∧ (r 3).toInt = max (-hi) (min (hi - 1) (A.toInt - B.toInt)) ∧
      r 4 = A * B ∧ r 5 = BitVec.ofInt w (A.toInt * B.toInt / 2 ^ w) ∧ r 6 = A &&& B ∧ r 7 = A ||| B ∧ r 8 = A ^^^ B ∧
      r 9 = A <<< k ∧ r 10 = A >>> k ∧ r 11 = A.sshiftRight k ∧
      r 12 = (if A.toInt ≤ B.toInt then A else B) ∧ r 13 = (if A.toInt ≤ B.toInt then B else A) ∧
      r 14 = (if a ≤ b then A else B) ∧ r 15 = (if a ≤ b then B else A) ∧ r 16 = (if A.toInt < 0 then -A else A) ∧
      r 17 = ones (a = b) ∧ r 18 = ones (A.toInt < B.toInt) ∧ r 19 = ones (a < b) ∧
      (r 20).toNat = (A.toInt - B.toInt).natAbs ∧ (r 21).toNat = (a + b + 1) / 2 ∧ r 22 = A * B + C ∧
      (r 23).toNat = (List.range w).countP (fun i => A.getLsbD i) ∧
      ((r 24).toNat ≤ w ∧ (∀ i, i < (r 24).toNat → A.getMsbD i = false) ∧ ((r 24).toNat < w → A.getMsbD (r 24).toNat = true))) ∧
  ((∀ (w : Nat) (l : List Nat) (i : Nat), w ∈ [4, 8, 16, 32, 64] → l.length = 512 / w → ∀ h : i < l.length,
      lane w (pack w l) i = l[i] % 2 ^ w) ∧
    (∀ (w : Nat) (v : Vec), w ∈ [4, 8, 16, 32, 64] → pack w (lanes w v) = v))

/-! ### Ports, barriers, ranges -/

/-- RECV and VRECV take the oldest token of their port, or with PEEK a copy of it; while the port is empty, or shut to the block by a
marker (R351), they wait (R123, R204).
A token of a matrix tile joins the commands before it: the task's timestamp does not fall (R253).
Taking a token from an input removes the oldest and returns one credit of its link, if it came over a link (R164). -/
def Obligations.ReceiveTakesOldest : Prop :=
  (∀ (p : BitVec 6) (e : BitVec 1) (t u : BitVec 9) (s : State) (k : Task) (f : Frame) (idx : Nat) (x : Ins) (b : Port) (q : Input),
      let ep := portEp k.pos p.toNat
      waiting? s = none → k.port? p.toNat = some b → s.isOutput ep = false → k.isStealPort p.toNat = false → s.input? ep = some q →
      (∀ w ∈ f.waits, w.kind ≠ .port p.toNat) →
      ∀ i ∈ [Instr.recv p e t u, .vrecv p e t u], (b.plane = .data ↔ i = .vrecv p e t u) → Fires s i k f idx x →
        (q.plane = .pulse → q.pulses = 0 → exec i s = .next (left s k ((f.fired idx x).wait idx (.port p.toNat)))) ∧
        (q.plane ≠ .pulse → q.toks = [] → exec i s = .next (left s k ((f.fired idx x).wait idx (.port p.toNat)))) ∧
        (q.shut f.id = true → exec i s = .next (left s k ((f.fired idx x).wait idx (.port p.toNat)))) ∧
        (∀ f', q.shut f.id = false → q.plane = .pulse → 0 < q.pulses → Frame.putAll (f.fired idx x) idx trigger [t, u] = .ok f' →
          exec i s = .next (left (if e = 1 then s else s.mapInput ep (fun q => { q with pulses := q.pulses - 1 })) k f')) ∧
        (∀ tok linked rest f', q.shut f.id = false → q.plane ≠ .pulse → q.toks = (tok, linked) :: rest → e = 1 →
          Frame.putAll (f.fired idx x) idx tok [t, u] = .ok f' → exec i s = .next (s.setFrame ((k.count 1).joinPort s ep) f')) ∧
        (∀ tok s' f', q.shut f.id = false → q.plane ≠ .pulse → takeToken s ep = some (tok, s') → e = 0 →
          Frame.putAll (f.fired idx x) idx tok [t, u] = .ok f' → exec i s = .next (s'.setFrame ((k.count 1).joinPort s ep) f'))) ∧
  (∀ (s : State) (k : Task) (ep : Ep), ∃ p : Word, k.joinPort s ep = { k with pts := p } ∧ k.pts.toNat ≤ p.toNat ∧
      ((∀ l ∈ s.fab.links, l.dst = ep → l.src.cls ≠ .engine) → p = k.pts)) ∧
  (∀ (s s' : State) (e : Ep) (q : Input) (tok : Tok) (linked : Bool) (rest : List (Tok × Bool)),
      s.input? e = some q → q.toks = (tok, linked) :: rest → takeToken s e = some (tok, s') →
      s'.input? e = some { q with toks := rest, came := q.came.drop 1 } ∧ s'.mem = s.mem ∧ s'.cores = s.cores ∧ s'.eng = s.eng ∧
      s'.fab.links = (if linked then s.fab.links.map (fun l => if l.dst = e then { l with returning := l.returning + 1 } else l)
        else s.fab.links))

/-- An arrival at a barrier counts one and ends the phase when the arrivals have reached the count: they fall to 0 and the phase rises
by one, modulo 2^32 (R205). ARRIVE counts its arrival when every operation issued before it is performed at paddock scope, and waits
until then; ARRIVE.RLX counts it at once; both record and send the phase. WAIT ends once its phase has ended, and clears the record; what
ARRIVE and RARRIVE release, the arrivals carry, and the later accesses of who has waited follow it (R253; the places in T are log 52).
BARCFG sets the count and the remote mark, with RESET from phase 0 and no arrivals, with every record cleared, and every WAIT that was
pending on it sends the phase that it waits on (R206 to R208). RARRIVE sends its arrival on its
way, or raises ACCESS subcode 9 for a word that names no PE of the paddock; the arrival, applied, counts at the target's barrier when
that PE is bound and the barrier takes remote arrivals, after the local events of its cycle, and the trigger follows; else it is dropped and
counted at its target, with a noted record of subcode 12, and the trigger follows all the same (R205, R209). -/
def Obligations.BarriersWork : Prop :=
  (∀ (s : State) (pos n p : Nat),
      let b := s.bar pos n
      (arriveAt s pos n p).2 = b.phase ∧
      (b.arr + 1 < b.count → (arriveAt s pos n p).1.bar pos n = { b with pos := pos, num := n, arr := b.arr + 1, pts := max b.pts p }) ∧
      (b.count ≤ b.arr + 1 → (arriveAt s pos n p).1.bar pos n =
        { b with pos := pos, num := n, arr := 0, phase := (b.phase + 1) % 2 ^ 32, past := max b.past (max b.pts p), pts := 0 }) ∧
      (∀ q m, (q, m) ≠ (pos, n) → (arriveAt s pos n p).1.bar q m = s.bar q m)) ∧
  (∀ (s : State) (k : Task), ∃ p : Word, s.ordered k = { k with pts := p, fenced := s.basePts k } ∧ k.pts.toNat ≤ p.toNat ∧
      min (2 ^ 64 - 1) k.redPts ≤ p.toNat ∧ k.redPts ≤ s.basePts k ∧ k.pts.toNat ≤ s.basePts k) ∧
  (∀ (s : State) (pos n : Nat),
      let s' := releaseWaits s pos n
      s'.mem = s.mem ∧ s'.fab = s.fab ∧ s'.cores.bars = s.cores.bars ∧
      (∀ p slot v, s.task? p slot = some v → p ≠ pos ∨ v.frame = none → s'.task? p slot = some v) ∧
      (∀ slot v g, s.task? pos slot = some v → v.frame = some g → ∃ y : List Flying,
        s'.task? pos slot = some { v with frame := some { g with waits := g.waits.filter (fun w => !w.onPhase n), flying := g.flying ++ y } } ∧
        ∀ w ∈ g.waits, ∀ p, w.kind = .phase n p → ∀ x ∈ s.targetsAt v g w.idx, x.toNat < 448 →
          ∃ l, ({ at_ := s.ctl.now + l, idx := w.idx, tok := scalar (BitVec.ofNat 64 p), tgt := x } : Flying) ∈ y)) ∧
  (∀ (b : BitVec 7) (t u : BitVec 9) (s : State) (k : Task) (f f' : Frame) (idx : Nat) (x : Ins),
      let n := b.toNat
      let arrived (p : Nat) : State := (arriveAt s k.pos n p).1.setBar (((arriveAt s k.pos n p).1.bar k.pos n).record k.slot (some (s.bar k.pos n).phase))
      (waiting? s = none → Fires s (.arrive b t u) k f idx x → performedUpto s (k.count 1) s.ctl.ids = true →
        Frame.putAll (f.fired idx x) idx (scalar (BitVec.ofNat 64 (s.bar k.pos n).phase)) [t, u] = .ok f' →
        exec (.arrive b t u) s = .next ((arrived (s.basePts (k.count 1))).setFrame (s.ordered (k.count 1)) f')) ∧
      (waiting? s = none → Fires s (.arrive b t u) k f idx x → performedUpto s (k.count 1) s.ctl.ids = false →
        exec (.arrive b t u) s = .next (left s k ((f.fired idx x).wait idx (.order s.ctl.ids)))) ∧
      (Fires s (.arriveRlx b t u) k f idx x →
        Frame.putAll (f.fired idx x) idx (scalar (BitVec.ofNat 64 (s.bar k.pos n).phase)) [t, u] = .ok f' →
        exec (.arriveRlx b t u) s = .next (left (arrived 0) k f')) ∧
      (∀ p, waiting? s = none → Fires s (.wait b t u) k f idx x → ((s.bar k.pos n).recs.find? (fun r => r.1 = k.slot)).map (·.2) = some p →
        p ≠ (s.bar k.pos n).phase → Frame.putAll (f.fired idx x) idx (scalar (BitVec.ofNat 64 p)) [t, u] = .ok f' →
        exec (.wait b t u) s =
          .next ((s.setBar ((s.bar k.pos n).record k.slot none)).setFrame ((k.count 1).raisePts (s.bar k.pos n).past) f')) ∧
      (waiting? s = none → Fires s (.wait b t u) k f idx x → (∀ r ∈ (s.bar k.pos n).recs, r.1 ≠ k.slot) →
        exec (.wait b t u) s = .next (left s k ((f.fired idx x).wait idx (.phase n (s.bar k.pos n).phase)))) ∧
      (Fires s (.barcfg b t u) k f idx x → x.wb.toNat = 0 ∨ x.wb.toNat = 2 →
        Frame.putAll (f.fired idx x) idx trigger [t, u] = .ok f' →
        exec (.barcfg b t u) s = .next (((s.setTask { (k.count 1) with frame := some (f.fired idx x) }).setBar
          (Bar.check { s.bar k.pos n with count := if x.wa.toNat % 2 ^ 16 = 0 then 65536 else x.wa.toNat % 2 ^ 16
                                          rem := decide (x.wb.toNat = 2) })).setTask { (k.count 1) with frame := some f' })) ∧
      (Fires s (.barcfg b t u) k f idx x → 4 ≤ x.wb.toNat →
        exec (.barcfg b t u) s = .next (blockFault s (k.count 1) (f.fired idx x) { code := 0x01, sub := 2, idx := idx })) ∧
      (Fires s (.barcfg b t u) k f idx x → x.wb.toNat = 1 ∨ x.wb.toNat = 3 →
        let s1 := releaseWaits (s.setTask { (k.count 1) with frame := some (f.fired idx x) }) k.pos n
        ∀ v g, s1.task? k.pos k.slot = some v → v.frame = some g → Frame.putAll g idx trigger [t, u] = .ok f' →
          exec (.barcfg b t u) s = .next ((s1.setBar
            { s.bar k.pos n with count := if x.wa.toNat % 2 ^ 16 = 0 then 65536 else x.wa.toNat % 2 ^ 16
                                 rem := decide (x.wb.toNat = 3), arr := 0, phase := 0, recs := [], pts := 0 }).setFrame v f')) ∧
      (∀ (w : Wait) (p : Nat), waiting? s = some (k, f, idx, x, w) → w.kind = .phase n p →
        ((s.bar k.pos n).phase = p → exec (.wait b t u) s = .next s) ∧
        ((s.bar k.pos n).phase ≠ p → Frame.putAll (f.unwait idx) idx (scalar (BitVec.ofNat 64 p)) [t, u] = .ok f' →
          exec (.wait b t u) s = .next ((s.setBar ((s.bar k.pos n).record k.slot none)).setFrame (k.raisePts (s.bar k.pos n).past) f')))) ∧
  ((∀ (e : BitVec 2) (t u : BitVec 9) (s : State) (k : Task) (f : Frame) (idx : Nat) (x : Ins), waiting? s = none →
      Fires s (.rarrive e t u) k f idx x →
      let w := x.wa.toNat
      (w / 2 ^ 23 ≠ 0 ∨ padPe s k.part.toNat (w % 2 ^ 16) = false →
        exec (.rarrive e t u) s = .next (blockFault s (k.count 1) (f.fired idx x) { code := 0x12, sub := 9, idx := idx, addr := x.wa })) ∧
      (w / 2 ^ 23 = 0 → padPe s k.part.toNat (w % 2 ^ 16) = true → performedUpto s (k.count 1) (if e = 1 then 0 else s.ctl.ids) = true →
        let k' := if e = 1 then k.count 1 else s.ordered (k.count 1)
        let s1 : State := { s.newId.2 with cores := { s.newId.2.cores with arrivals := s.cores.arrivals ++
          [{ id := s.ctl.ids, target := w % 2 ^ 16, bar := w / 2 ^ 16 % 2 ^ 7, cid := k.cid, pos := k.pos, slot := k.slot, fid := f.id, idx := idx
             pts := if e = 1 then 0 else s.basePts k' }] } }
        exec (.rarrive e t u) s = .next (s1.setFrame k' ((f.fired idx x).wait idx (.arrival s.ctl.ids))))) ∧
    (∀ (s : State) (j : Nat) (a : Arrival) (c : Conf) (k : Task) (f f' : Frame) (i : Instr), s.cores.arrivals[j]? = some a → c ∈ s.fab.confs →
      within c.strip0 c.strips a.target = true → (s.bar a.target a.bar).rem = true → localBarFirst s a.target a.bar = false →
      s.task? a.pos a.slot = some k → k.frame = some f →
      f.id = a.fid → ({ idx := a.idx, kind := .arrival a.id } : Wait) ∈ f.waits → decodeWord (s.insWord k.pos f.hdr a.idx) = some i →
      Frame.putAll (f.unwait a.idx) a.idx trigger i.targets = .ok f' →
      exec (.remoteArrivalApply j) s = .next (((arriveAt { s with cores := { s.cores with arrivals := dropAt j s.cores.arrivals } }
        a.target a.bar a.pts).1.touchBar a.target a.bar remoteTurn).setFrame k f')) ∧
    (∀ (s : State) (j : Nat) (a : Arrival), s.cores.arrivals[j]? = some a → localBarFirst s a.target a.bar = true →
      exec (.remoteArrivalApply j) s = .next s) ∧
    (∀ (s : State) (j : Nat) (a : Arrival) (k : Task) (f f' : Frame) (i : Instr), s.cores.arrivals[j]? = some a → s.drv.ckpts = [] →
      ((∀ c ∈ s.fab.confs, within c.strip0 c.strips a.target = false) ∨ (s.bar a.target a.bar).rem = false) →
      localBarFirst s a.target a.bar = false → s.task? a.pos a.slot = some k → k.frame = some f →
      f.id = a.fid → ({ idx := a.idx, kind := .arrival a.id } : Wait) ∈ f.waits → decodeWord (s.insWord k.pos f.hdr a.idx) = some i →
      Frame.putAll (f.unwait a.idx) a.idx trigger i.targets = .ok f' →
      let n := match s.cores.dropped.find? (fun d => d.1 = a.target) with | some d => d.2 | none => 0
      let s1 : State := { s with cores := { s.cores with arrivals := dropAt j s.cores.arrivals, dropped := upsert (fun d => d.1 = a.target) (a.target, n + 1) s.cores.dropped } }
      let s2 := notedFault s1 a.cid
        { code := 0x12, sub := 12, tile := a.pos, slot := a.slot, idx := a.idx, addr := BitVec.ofNat 64 (a.target + a.bar * 2 ^ 16) }
      decodeWord (s2.insWord k.pos f.hdr a.idx) = some i → exec (.remoteArrivalApply j) s = .next (s2.setFrame k f')))

/-- RNEXT takes the next index of the task's range and raises its low end; of an empty range it sends null when stealing is off, and
else sends a request to the victim and waits (R210). A request is served from the range that the RNEXTs and commits of the cycle of its
arrival have left, in a later one, and a PE serves one in a cycle (R102, R211). A victim with two or more indices keeps the lower half,
rounded up, and replies with the upper; one with fewer passes the request on while hops are left and it steals itself, and else replies an
empty range, as a FAULTED one does. Each of
the two tokens of a reply goes when its port has credit, and the rest is kept. A reply, token by token, reaches the RNEXT that waits,
which sends the first index and keeps the rest, or sends null for an empty range; or it passes on unchanged (R163, R210, R211). -/
def Obligations.RangesAreShared : Prop :=
  (∀ (t u : BitVec 9) (s : State) (k : Task) (f : Frame) (idx : Nat) (x : Ins), waiting? s = none → Fires s (.rnext t u) k f idx x →
      (∀ w ∈ f.waits, w.kind ≠ .steal true ∧ w.kind ≠ .steal false) → (∀ y ∈ k.steals, y.own = false) →
      (∀ f', k.rnglo.toNat < k.rnghi.toNat → Frame.putAll (f.fired idx x) idx (scalar k.rnglo) [t, u] = .ok f' →
        exec (.rnext t u) s = .next (s.setFrame { (k.count 1) with rnglo := k.rnglo + 1 } f')) ∧
      (∀ f', k.rnghi.toNat ≤ k.rnglo.toNat → k.stealing = false → Frame.putAll (f.fired idx x) idx .null [t, u] = .ok f' →
        exec (.rnext t u) s = .next (left s k f')) ∧
      (∀ s' n, k.rnghi.toNat ≤ k.rnglo.toNat → k.stealing = true →
        sendOn s (portEp k.pos k.sreq) (scalar (BitVec.ofNat 64 (k.hops - 1))) = some (s', n) →
        exec (.rnext t u) s = .next (s'.setFrame { (k.count 1) with steals := k.steals ++ [{ own := true, lo := none }] } ((f.fired idx x).wait idx (.steal true))))) ∧
  ((∀ (s s1 : State) (j : Nat) (k : Task) (tok : Tok), s.cores.tasks[j]? = some k → k.steal.toNat % 2 ^ 32 ≠ 0 →
      k.saved = false →
      (k.replies ≠ [] → (s.outLinks (portEp k.pos k.vrpy)).all (linkOpen s) = true → exec (.stealRequest j) s = .next (sendReplies k.replies s k)) ∧
      (k.replies ≠ [] → (s.outLinks (portEp k.pos k.vrpy)).all (linkOpen s) = false → exec (.stealRequest j) s = .next s) ∧
      (k.replies = [] → requestHere s k = false → exec (.stealRequest j) s = .next s) ∧
      (requestHere s k = true → (∀ y ∈ k.steals, y.own = true ∨ y.lo = none) ∧ (∀ v ∈ s.cores.tasks, v.pos = k.pos → v.served ≠ s.ctl.now) ∧
        ∃ q, s.input? (portEp k.pos k.vreq) = some q ∧ q.toks ≠ [] ∧ q.came.headD 0 < s.ctl.now ∧ q.shut s.ctl.ids = false) ∧
      (k.replies = [] → requestHere s k = true → takeToken s (portEp k.pos k.vreq) = some (tok, s1) →
        let k := { k with served := s.ctl.now }
        (k.st = .faulted → exec (.stealRequest j) s = .next (sendReplies [0, 0] s1 k)) ∧
        (k.st ≠ .faulted → k.rnglo.toNat + 2 ≤ k.rnghi.toNat →
          let mid := k.rnglo.toNat + (k.rnghi.toNat - k.rnglo.toNat + 1) / 2
          exec (.stealRequest j) s =
            .next (sendReplies [BitVec.ofNat 64 mid, k.rnghi] s1 { k with rnghi := BitVec.ofNat 64 mid })) ∧
        (∀ s2 n, k.st ≠ .faulted → k.rnghi.toNat < k.rnglo.toNat + 2 → 0 < tok.word.toNat % 4 → k.stealing = true →
          (∀ f, k.frame = some f → (∀ w ∈ f.waits, w.kind ≠ .steal false) ∨ ∃ y ∈ k.steals, y.own = true) →
          sendOn s1 (portEp k.pos k.sreq) (scalar (BitVec.ofNat 64 (tok.word.toNat % 4 - 1))) = some (s2, n) →
          exec (.stealRequest j) s = .next (s2.setTask { k with steals := k.steals ++ [{ own := false, lo := none }] })) ∧
        (k.st ≠ .faulted → k.rnghi.toNat < k.rnglo.toNat + 2 → tok.word.toNat % 4 = 0 ∨ k.stealing = false →
          exec (.stealRequest j) s = .next (sendReplies [0, 0] s1 k)))) ∧
    (∀ (s : State) (k : Task) (a b : Word),
      (sendOn s (portEp k.pos k.vrpy) (scalar a) = none → sendReplies [a, b] s k = s.setTask { k with replies := [a, b] }) ∧
      (∀ s1 n, sendOn s (portEp k.pos k.vrpy) (scalar a) = some (s1, n) →
        (sendOn s1 (portEp k.pos k.vrpy) (scalar b) = none → sendReplies [a, b] s k = s1.setTask { k with replies := [b] }) ∧
        (∀ s2 m, sendOn s1 (portEp k.pos k.vrpy) (scalar b) = some (s2, m) → sendReplies [a, b] s k = s2.setTask { k with replies := [] }))) ∧
    (∀ (s s1 : State) (j : Nat) (k : Task) (x : Steal) (rest : List Steal) (a : Tok),
      s.cores.tasks[j]? = some k → k.saved = false → k.steals = x :: rest →
      takeToken s (portEp k.pos k.srpy) = some (a, s1) →
      (x.own = true → x.lo = none → exec (.stealReply j) s = .next (s1.setTask { k with steals := { x with lo := some a.word } :: rest })) ∧
      (∀ lo f f' w i, x.own = true → x.lo = some lo → k.frame = some f →
        f.waits.find? (fun w => w.kind = .steal true) = some w → decodeWord (s.insWord k.pos f.hdr w.idx) = some i →
        (lo.toNat < a.word.toNat → Frame.putAll (f.unwait w.idx) w.idx (scalar lo) i.targets = .ok f' →
          exec (.stealReply j) s = .next (s1.setFrame { k with steals := rest, rnglo := lo + 1, rnghi := a.word } f')) ∧
        (a.word.toNat ≤ lo.toNat → Frame.putAll (f.unwait w.idx) w.idx .null i.targets = .ok f' →
          exec (.stealReply j) s = .next (s1.setFrame { k with steals := rest } f'))) ∧
      (∀ s2 n, x.own = false → k.replies = [] → sendOn s1 (portEp k.pos k.vrpy) a = some (s2, n) →
        exec (.stealReply j) s =
          .next (s2.setTask { k with steals := if x.lo.isSome then rest else { x with lo := some a.word } :: rest }))))


/-! ### Memory instructions -/

/-- A memory instruction that fires joins its block's wave chain, and its task's operations go on; a link that R34 forbids raises
WAVE with its subcode; a null operand joins as nulled and passes null; once the chain is closed with the exit and the W outputs there, the
other slots are skipped, and a memory instruction that fires after that cycle does nothing (R22, R31, R32, R34; that one of the same
cycle still joins is the model's reading, log 33). -/
def Obligations.MemoryInstructionsJoin : Prop :=
  ∀ (i : Instr) (s : State) (t : Task) (f : Frame) (idx : Nat) (x : Ins) (q p d : Nat), i.link = some (q, p, d) →
    (∀ f2, Fires s i t f idx x → f.leftover = false → (f.fired idx x).join i idx x .waiting = .ok f2 →
      exec i s = .next (settled (left s t f2) t.pos t.slot)) ∧
    (∀ sub, Fires s i t f idx x → f.leftover = false → joinFault f q p d = some sub →
      exec i s = .next (settled (blockFault s (t.count 1) (f.fired idx x) { code := 0x07, sub := sub, idx := idx }) t.pos t.slot)) ∧
    (Fires s i t f idx x → f.leftover = true → exec i s = .next (settled (left s t (f.fired idx x)) t.pos t.slot)) ∧
    (f.skips = true ↔ f.closed = true ∧ f.exit.isSome ∧ f.outs = f.w) ∧
    (∀ now, f.till < now → ((f.shutBy now).leftover = true ↔ f.leftover = true ∨ f.skips = true)) ∧
    (∀ f2 f3 : Frame, firing? s i = some (t, f, idx, x) → i.badSub = none → x.firesNull i = true → f.leftover = false →
      firingFault s (t.count 2) { f with ins := f.ins.set idx { x with fired := .asNull } } idx i i.targets = none →
      Frame.join { f with ins := f.ins.set idx { x with fired := .asNull } } i idx x .nulled = .ok f2 →
      f2.putAll idx .null i.targets = .ok f3 → exec i s = .next (settled (s.setFrame (t.count 2) f3) t.pos t.slot))

/-- What loads, stores and atomics access and carry (R36, R139 to R144): the address of slot a plus the scaled signed offset, the
lane addresses of the strided and gathered forms, the extension of a loaded value and the vectors that lanes make, the bytes that a store
writes, and every atomic operation on words of n bits but CAS, which is stated with its access; FADD32, FMAX32 and FMIN32 are the operations
FADD, FMAX and FMIN of a FALU on F32, rounding to nearest (R107). -/
def Obligations.MemoryAddressesAndValues : Prop :=
  (∀ (q : BitVec 5) (p d z : BitVec 2) (o : BitVec 7) (w : BitVec 16) (u : BitVec 9) (a b : Tok),
    (∀ i ∈ [Instr.ldb q p d o u, .ldbz q p d o u], (memForm i a b).map (·.addrs) = some [some (a.word + o.signExtend 64).toNat]) ∧
    (∀ i ∈ [Instr.ldh q p d o u, .ldhz q p d o u], (memForm i a b).map (·.addrs) = some [some (a.word + o.signExtend 64 * 2).toNat]) ∧
    (∀ i ∈ [Instr.ldw q p d o u, .ldwz q p d o u], (memForm i a b).map (·.addrs) = some [some (a.word + o.signExtend 64 * 4).toNat]) ∧
    (memForm (.ldd q p d o u) a b).map (·.addrs) = some [some (a.word + o.signExtend 64 * 8).toNat] ∧
    (memForm (.vld q p d o u) a b).map (·.addrs) = some [some (a.word + o.signExtend 64 * 64).toNat] ∧
    (memForm (.stb q p d w) a b).map (·.addrs) = some [some (a.word + w.signExtend 64).toNat] ∧
    (memForm (.sth q p d w) a b).map (·.addrs) = some [some (a.word + w.signExtend 64 * 2).toNat] ∧
    (memForm (.stw q p d w) a b).map (·.addrs) = some [some (a.word + w.signExtend 64 * 4).toNat] ∧
    (memForm (.std q p d w) a b).map (·.addrs) = some [some (a.word + w.signExtend 64 * 8).toNat] ∧
    (memForm (.vst q p d w) a b).map (·.addrs) = some [some (a.word + w.signExtend 64 * 64).toNat] ∧
    (∀ i ∈ [Instr.vlds q p d z u, .vsts q p d z], (memForm i a b).map (·.addrs) =
      some ((List.range (64 / 2 ^ z.toNat)).map (fun k => some (a.word + BitVec.ofNat 64 k * b.word).toNat))) ∧
    (∀ i ∈ [Instr.vgath q p d u, .vscat q p d], (memForm i a b).map (·.addrs) =
      some ((lanes 32 b.vec).map (fun k => if k = 2 ^ 31 then none else some (a.word + (BitVec.ofNat 32 k).signExtend 64).toNat))) ∧
    (∀ (c : BitVec 4) (e : BitVec 1), ∀ i ∈ [Instr.amo q p d c z e u, .amoCas q p d z e u, .amod q p d c z, .red q p d c z e, .fprb q p d u,
      .fins q p d z, .fnew q p d u, .fdel q p d u, .fclr q p d u, .fcnt q p d u, .fseal q p d u, .funseal q p d u, .fstat q p d u, .vfrd q p d u,
      .vfmrg q p d z, .vfprb q p d u, .vfhit q p d u], (memForm i a b).map (·.addrs) = some [some a.word.toNat])) ∧
  (∀ (q : BitVec 5) (p d : BitVec 2) (o : BitVec 7) (u : BitVec 9) (v : Nat),
    loadValue (.ldb q p d o u) [v] = scalar ((BitVec.ofNat 8 v).signExtend 64) ∧
    (∀ i ∈ [Instr.ldbz q p d o u, .ldhz q p d o u, .ldwz q p d o u, .ldd q p d o u], loadValue i [v] = scalar (BitVec.ofNat 64 v)) ∧
    loadValue (.ldh q p d o u) [v] = scalar ((BitVec.ofNat 16 v).signExtend 64) ∧
    loadValue (.ldw q p d o u) [v] = scalar ((BitVec.ofNat 32 v).signExtend 64) ∧
    loadValue (.vld q p d o u) [v] = vector (BitVec.ofNat 512 v)) ∧
  (∀ (q : BitVec 5) (p d z : BitVec 2) (u : BitVec 9) (got : List Nat),
    (∃ V, loadValue (.vlds q p d z u) got = vector V ∧ ∀ k, k < 64 / 2 ^ z.toNat →
      lane (8 * 2 ^ z.toNat) V k = got.getD k 0 % 2 ^ (8 * 2 ^ z.toNat)) ∧
    (∃ V, loadValue (.vgath q p d u) got = vector V ∧ ∀ k, k < 16 → lane 32 V k = got.getD k 0 % 2 ^ 32)) ∧
  (∀ (q : BitVec 5) (p d : BitVec 2) (o : BitVec 16) (b c : Tok),
    ofBytes (storeBytes (.stb q p d o) b c 0) = b.word.toNat % 2 ^ 8 ∧ ofBytes (storeBytes (.sth q p d o) b c 0) = b.word.toNat % 2 ^ 16 ∧
    ofBytes (storeBytes (.stw q p d o) b c 0) = b.word.toNat % 2 ^ 32 ∧ ofBytes (storeBytes (.std q p d o) b c 0) = b.word.toNat ∧
    ofBytes (storeBytes (.vst q p d o) b c 0) = b.vec.toNat ∧
    (∀ k, ofBytes (storeBytes (.vscat q p d) b c k) = (lane 32 c.vec k) % 2 ^ 32) ∧
    (∀ k, ofBytes (storeBytes (.vsts q p d p) b c k) = (lane (8 * 2 ^ p.toNat) c.vec k) % 2 ^ (8 * 2 ^ p.toNat))) ∧
  (∀ (n old b : Nat), n = 32 ∨ n = 64 → old < 2 ^ n →
    let O := BitVec.ofNat n old
    let B := BitVec.ofNat n b
    let r (c : Nat) : BitVec n := BitVec.ofNat n (atomicOp c n old b).1
    r 0 = O + B ∧ r 1 = (O &&& B) ∧ r 2 = (O ||| B) ∧ r 3 = (O ^^^ B) ∧
    r 4 = (if O.toInt ≤ B.toInt then O else B) ∧ r 5 = (if O.toInt ≤ B.toInt then B else O) ∧
    r 6 = (if O.toNat ≤ B.toNat then O else B) ∧ r 7 = (if O.toNat ≤ B.toNat then B else O) ∧ r 8 = B ∧
    (n = 32 → atomicOp 10 n old b = faluOp 0 0 0 old (b % 2 ^ n) 0 ∧ atomicOp 11 n old b = faluOp 0 0 7 old (b % 2 ^ n) 0 ∧
      atomicOp 12 n old b = faluOp 0 0 6 old (b % 2 ^ n) 0))

/-- The checks of an address, in order (R135, R137): a top byte of neither space, a byte above the window, a bank that is not in
scratchpad mode, an address that is no multiple of the size; a byte of a scratchpad bank is the window's own; and what the checks
lead to at the issue: the operation enters its task's queue with the keys that they answer, but for leading inactive lanes (a store once its
lines have a place in the cluster cache, R215), or its block takes the fault, of those of one cycle that of the lowest index (R65), or it is
withheld for a page. At its first operation a task's timestamp rises to what its configuration follows (R252, R253). A FENCE issues when
what it orders is done; with J = 1 its task's timestamp rises to those of the copies and scans that it joins, and at paddock or system scope
what the task accesses from then on follows its REDs too (R147, R247, R253). -/
def Obligations.IssueChecks : Prop :=
  (∀ (s : State) (t : Task) (m : MemForm) (va : Nat),
    (va / 2 ^ 56 ≠ 0 → va / 2 ^ 56 ≠ 0xFE → checkAddr s t m va = (s, .bad 0x12 1 0 va)) ∧
    (va / 2 ^ 56 = 0 → va % m.size ≠ 0 → checkAddr s t m va = (s, .bad 0x10 m.align 0 va)) ∧
    (va / 2 ^ 56 = 0xFE → m.paddock = true → checkAddr s t m va = (s, .bad 0x12 6 0 va)) ∧
    (va / 2 ^ 56 = 0xFE → m.paddock = false → bits va 55 20 ≠ 0 → checkAddr s t m va = (s, .bad 0x12 2 0 va)) ∧
    (va / 2 ^ 56 = 0xFE → m.paddock = false → bits va 55 20 = 0 → s.bankBusy (clusterOf t.pos) (bits va 19 15) = false →
      (s.bankMode (clusterOf t.pos) (bits va 19 15) ≠ 1 → checkAddr s t m va = (s, .bad 0x12 2 0 va)) ∧
      (s.bankMode (clusterOf t.pos) (bits va 19 15) = 1 →
        checkAddr s t m va = (s, if va % m.size = 0 then .ok [some (windowKey (clusterOf t.pos) (va % 2 ^ 20))] else .bad 0x10 m.align 0 va)))) ∧
  (∀ (s s' : State) (pe slot : Nat) (t : Task) (f : Frame) (o : MemOp) (i : Instr) (m : MemForm), s.task? pe slot = some t →
    t.frame = some f → f.nextOp = some o → (∀ r, f.raised = some r → o.idx < r.idx) → decodeWord (s.insWord pe f.hdr o.idx) = some i →
    memForm i (o.a.getD .null) (o.b.getD .null) = some m →
    let u := t.raisePts (s.confPts t.cid)
    (∀ keys, checkAddrs s u m m.addrs = (s', .ok keys) → ownCheck s' u i m.addrs keys = none → (∀ q p d c z, i ≠ .amod q p d c z) →
      (∀ s2, enqueue s' u f o i keys 0 = some s2 → exec (.memoryIssue pe slot) s = .next (settled s2 pe slot)) ∧
      (enqueue s' u f o i keys 0 = none → exec (.memoryIssue pe slot) s = .next s) ∧ (isStore i = false → (enqueue s' u f o i keys 0).isSome) ∧
      (∀ s2, enqueue s' u f o i keys 0 = some s2 → s'.task? pe slot = some t → (∀ q p d c z e, i ≠ .red q p d c z e) →
        ∃ r v, s2.task? pe slot = some v ∧ v.queue = t.queue ++ [r] ∧ r.ins = i ∧ r.a = o.a ∧ r.b = o.b ∧ r.c = o.c ∧
          keys = r.got.map (fun _ => none) ++ r.keys ∧ (∀ x ∈ r.got, x = 0) ∧ r.keys.head? ≠ some none ∧ v.pts = u.pts ∧
          v.frame = some (f.setOp o.q (if isFibre i then .sent else .issued)))) ∧
    (∀ c sub e va, checkAddrs s u m m.addrs = (s', .bad c sub e va) →
      exec (.memoryIssue pe slot) s = .next (settled (s'.setFrame u
        (f.raiseFault { code := c, sub := sub, idx := o.idx, addr := BitVec.ofNat 64 va, extra := BitVec.ofNat 64 e })) pe slot)) ∧
    (∀ va wr host, checkAddrs s u m m.addrs = (s', .miss va wr host) →
      let q := pageMiss s' u.part.toNat u.ten.toNat va wr host
      exec (.memoryIssue pe slot) s = .next (settled (q.2.setFrame u (f.setOp o.q (.withheld q.1 q.2.ctl.now va))) pe slot))) ∧
  (∀ (s : State) (pe slot : Nat) (t : Task) (f : Frame) (o : MemOp) (r : Raise), s.task? pe slot = some t → t.frame = some f →
    f.nextOp = some o → f.raised = some r → r.idx ≤ o.idx → exec (.memoryIssue pe slot) s = .next s) ∧
  (∀ (s : State) (pe slot : Nat) (t : Task) (f f' : Frame) (o : MemOp) (q : BitVec 5) (p d e : BitVec 2) (j : BitVec 1) (u : BitVec 9),
    s.task? pe slot = some t → t.frame = some f → f.nextOp = some o → (∀ r, f.raised = some r → o.idx < r.idx) →
    decodeWord (s.insWord pe f.hdr o.idx) = some (.fence q p d e j u) →
    let t := t.raisePts (s.confPts t.cid)
    let narrow := decide (e = 2) && limited s t
    let ready := fenceReady s t (if narrow then 1 else e.toNat) (j = 1)
    (ready = false → exec (.memoryIssue pe slot) s = .next s) ∧
    (ready = true → Frame.putAll { f.setOp o.q .issued with narrowed := f.narrowed || narrow } o.idx trigger [u] = .ok f' →
      let v := if j = 1 then t.joins.foldl Task.join t else t
      exec (.memoryIssue pe slot) s = .next (settled (s.setFrame ((if e = 0 then v else s.ordered v).count 4) f') pe slot)))

/-- The oldest request of a task, a load, takes its next access: the bytes at its home, of a line that no slot's key or its own encrypts
(R373). After the last it is answered with what it read as its instruction extends it; no byte of memory changes, the task's timestamp does
not fall, and nothing else but the lists of the memory levels and what is owed to the host, where a line of host memory leaves the crossing
cache for the one read (R36, R139, R141 to R143, R242 to R244, R363). -/
def Obligations.LoadAnswersItsBytes : Prop :=
  ∀ (s : State) (pe slot k : Nat) (ks : List (Option Nat)) (t : Task) (r : Req) (rest : List Req), s.task? pe slot = some t →
    t.queue = r :: rest → r.keys = some k :: ks → (ks = [] ∨ ∃ k2 l, ks = some k2 :: l) → readsMem r.ins = true → isFibre r.ins = false →
    r.free s pe = true → (∀ p ∈ s.mem.partials, p.line ≠ lineOf k) → (∀ x ∈ s.mem.sealed, x.1 = lineOf k → x.2 = s.keyOf t.who) → s.plainL2 →
    s.poisoned k r.size = false → r.tainted = false →
    s.ctl.eager = false →
    let got := r.got ++ [s.read k r.size]
    ∃ (s1 : State) (pts : Word) (u : Task),
      (ks = [] → exec (.loadResponse pe slot false) s = .next (deliver s1 pe slot r (some (loadValue r.ins got)))) ∧
      (ks ≠ [] → exec (.loadResponse pe slot false) s =
        .next (s1.mapTask pe slot (fun u => { u with queue := { r with keys := ks, got := got } :: u.queue }))) ∧
      s1.mem.bytes = s.mem.bytes ∧ t.pts.toNat ≤ pts.toNat ∧ s1.task? pe slot = some u ∧
      u.sansOwed = Task.sansOwed { t with queue := rest, pts := pts } ∧ (∀ l ∈ u.owed, l ∈ t.owed) ∧
      s1.fab = s.fab ∧ s1.sansOwed.eng = s.sansOwed.eng ∧ s1.sansOwed.drv = s.sansOwed.drv ∧ s1.ten = s.ten ∧ s1.hub = s.hub

/-- A store takes its next access: it writes that lane's bytes at its key, the lowest first, and no other byte of memory; an atomic writes
its operation's result, a compare-and-swap its replacement where the old value matches, and answers the old value (R36, R140 to R144,
R242 to R244, R348). A RED near its home does so without an answer; one from another die stays in a partial line of its die, in the
slice of its partial home; from then on no leased copy of the line serves (R146, R237, R241, R246). One that finds a live fibre header where it is performed is refused with ACCESS subcode 4
(R137, R148; that it is tested there again is the model's, log 46). -/
def Obligations.WritesTouchTheirBytesOnly : Prop :=
  (∀ (s : State) (pe slot k : Nat) (ks : List (Option Nat)) (t : Task) (r : Req) (rest : List Req), s.task? pe slot = some t →
    t.queue = r :: rest → r.keys = some k :: ks → (ks = [] ∨ ∃ k2 l, ks = some k2 :: l) → readsMem r.ins = false → isFibre r.ins = false →
    r.free s pe = true → (∀ p ∈ s.mem.partials, p.line ≠ lineOf k) → (∀ x ∈ s.mem.sealed, x.1 = lineOf k → x.2 = s.keyOf t.who) → s.plainL2 →
    s.ctl.eager = false → s.memWf →
    (liveHeader s k = true → exec (.storePerformed pe slot 0) s =
      .next (homeFault (r.leave (s.setTask { t with queue := rest })) pe slot r 0x12 4)) ∧
    (liveHeader s k = false →
    let B := r.b.getD .null
    let C := r.c.getD .null
    (∀ (q : BitVec 5) (p d w : BitVec 2) (o : BitVec 16),
      r.ins ∈ [Instr.stb q p d o, .sth q p d o, .stw q p d o, .std q p d o, .vst q p d o, .vsts q p d w, .vscat q p d] →
      let bs := storeBytes r.ins B C r.got.length
      ∃ s1 : State, (ks = [] → exec (.storePerformed pe slot 0) s = .next (deliver s1 pe slot r none)) ∧
        (ks ≠ [] → exec (.storePerformed pe slot 0) s =
          .next (s1.mapTask pe slot (fun u => { u with queue := { r with
            keys := ks, got := r.got ++ [0]
            ways := r.ways.filter (fun w => ks.any (fun k => match k with | some k => lineOf k = w.1 | none => false)) } :: u.queue }))) ∧
        ∀ a, readByte s1.mem.bytes a = if k ≤ a ∧ a < k + bs.length then bs.getD (a - k) 0 else readByte s.mem.bytes a) ∧
    (∀ (q : BitVec 5) (p d z : BitVec 2) (c : BitVec 4) (e : BitVec 1) (u : BitVec 9), ks = [] → s.poisoned k (if z = 0 then 4 else 8) = false →
      let n := if z = 0 then 4 else 8
      let old := s.read k n
      let answers (v : Nat) : Prop := ∃ s1 : State,
        exec (.storePerformed pe slot 0) s = .next (deliver s1 pe slot r (some (scalar (BitVec.ofNat 64 old)))) ∧
        ∀ a, readByte s1.mem.bytes a = if k ≤ a ∧ a < k + n then (toBytes n v).getD (a - k) 0 else readByte s.mem.bytes a
      (r.ins = .amo q p d c z e u → c ≠ 9 → answers (atomicOp c.toNat (8 * n) old B.word.toNat).1) ∧
      (r.ins = .amoCas q p d z e u → answers (if old = B.word.toNat % 2 ^ (8 * n) then C.word.toNat % 2 ^ (8 * n) else old))))) ∧
  (∀ (s : State) (pe slot k j h : Nat) (t : Task) (r : Req) (q : BitVec 5) (p d z : BitVec 2) (c : BitVec 4) (e : BitVec 1),
    s.task? pe slot = some t → t.reds[j]? = some r → r.ins = .red q p d c z e → r.keys = [some k] → r.free s pe = true → s.ctl.eager = false →
    homeOf k = some h → s.plainL2 → s.memWf →
    let n := if z = 0 then 4 else 8
    let v := (r.b.getD .null).word.toNat
    (liveHeader s k = true → exec (.storePerformed pe slot (j + 1)) s =
      .next (homeFault (r.leave (s.setTask { t with reds := dropAt j t.reds })) pe slot r 0x12 4)) ∧
    (liveHeader s k = false → dieOf h = dieOf pe → s.poisoned k n = false → (∀ x ∈ s.mem.sealed, x.1 = lineOf k → x.2 = s.keyOf t.who) →
      ∃ s1 : State, exec (.storePerformed pe slot (j + 1)) s = .next (deliver s1 pe slot r none) ∧ (∀ x ∈ s1.mem.copies, x.line ≠ lineOf k) ∧
        ∀ a, readByte s1.mem.bytes a =
        if k ≤ a ∧ a < k + n then (toBytes n (atomicOp c.toNat (8 * n) (s.read k n) v).1).getD (a - k) 0 else readByte s.mem.bytes a) ∧
    (liveHeader s k = false → dieOf h ≠ dieOf pe → (∀ x ∈ s.mem.partials, ¬(x.line = lineOf k ∧ x.die = dieOf pe)) →
      ∃ (s1 : State) (x : Partial) (ps : List Partial), exec (.storePerformed pe slot (j + 1)) s = .next (deliver s1 pe slot r none) ∧
        s1.mem.bytes = s.mem.bytes ∧ (∀ x ∈ s1.mem.copies, x.line ≠ lineOf k) ∧ s1.mem.partials = ps ++ [x] ∧ ps.map (fun p => (p.line, p.die, p.val, p.valid)) =
          s.mem.partials.map (fun p => (p.line, p.die, p.val, p.valid)) ∧
        x.line = lineOf k ∧ x.die = dieOf pe ∧ x.op = c.toNat ∧ x.placed = true ∧
        x.home = (partialHome s t.part.toNat h (dieOf pe) (lineOf k * 64)).getD 0 ∧ x.valid = 2 ^ (k % 64 / n) ∧ lane (8 * n) x.val (k % 64 / n) = v % 2 ^ (8 * n)))

/-- The events of memory: the old value of an AMOD reaches its port (that it comes unlinked and takes no credit is the model's choice, log
27), or is stored at its line's home, a ninth redirect of which is a fault of its configuration; a partial line goes home, or parks there while its row is empty (R321); every timestamp rises, and
one at its highest value stays (R244, log 8); copies of a line end 4,096 cycles after their grant; an access to a moved line follows it,
at most eight times (R145, R241, R244, R245, R367). -/
def Obligations.MemoryEvents : Prop :=
  (∀ (s : State) (k : Nat) (d : Delivery), s.eng.deliveries[k]? = some d → bits d.word.toNat 63 62 = 1 →
    let dest := d.word.toNat % 2 ^ 56
    let ep := portEp (dest % 2 ^ 16) (bits dest 21 16)
    controlPort s (dest % 2 ^ 16) (bits dest 21 16) = true → (s.input? ep).isSome →
    exec (.amodDelivery k) s = .next (State.mapInput { s with eng := { s.eng with deliveries := dropAt k s.eng.deliveries } } ep
      (fun i => { i with toks := i.toks ++ [(scalar (BitVec.ofNat 64 d.value), false)], came := i.came ++ [s.ctl.now] }))) ∧
  (∀ (s : State) (k key : Nat) (d : Delivery), s.eng.deliveries[k]? = some d → bits d.word.toNat 63 62 = 2 → followMoves s 8 d.key = some key →
    mayPass s key 5 d.id = true → liveHeader s key = false → (∀ p ∈ s.mem.partials, p.line ≠ lineOf key) →
    (∀ x ∈ s.mem.sealed, x.1 = lineOf key → x.2 = s.keyOf (whoOf d.pad d.ten)) → s.plainL2 → s.memWf →
    ∃ s1 : State, exec (.amodDelivery k) s = .next s1 ∧ s1.eng.deliveries = dropAt k s.eng.deliveries ∧
      ∀ a, readByte s1.mem.bytes a =
        if key ≤ a ∧ a < key + d.size then (toBytes d.size d.value).getD (a - key) 0 else readByte s.mem.bytes a) ∧
  (∀ (s : State) (k : Nat) (d : Delivery), s.eng.deliveries[k]? = some d → bits d.word.toNat 63 62 = 2 → followMoves s 8 d.key = none →
    exec (.amodDelivery k) s = .next (confFault { s with eng := { s.eng with deliveries := dropAt k s.eng.deliveries } } d.cid
      { code := 0x15, sub := 4, tile := d.pos, slot := d.slot, idx := 0xFF, addr := BitVec.ofNat 64 (d.word.toNat % 2 ^ 56) })) ∧
  (∀ (s : State) (k : Nat) (p : Partial), s.mem.partials[k]? = some p →
    let id := 4 * p.line + p.die
    let u := unpark s (p.line * 64) 6 id
    (mayPass s (p.line * 64) 6 id = true →
      exec (.partialLineEvict k) s = .next (applyPartial { u with mem := { u.mem with partials := dropAt k u.mem.partials } } p)) ∧
    (mayPass s (p.line * 64) 6 id = false → exec (.partialLineEvict k) s =
      .next (parkAt { s with mem := { s.mem with partials := s.mem.partials.set k { p with placed := false } } } (p.line * 64) 6 id))) ∧
  (∀ s : State, ∃ s' : State, exec .ptsTick s = .next s' ∧ s'.mem = s.mem ∧ s'.fab = s.fab ∧ s'.eng = s.eng ∧
    s'.cores.tasks.length = s.cores.tasks.length ∧ ∀ (j : Nat) (t : Task), s.cores.tasks[j]? = some t → ∃ p : Word, s'.cores.tasks[j]? = some ({ t with pts := p } : Task) ∧
      (t.pts.toNat < p.toNat ∨ (t.pts.toNat = 2 ^ 64 - 1 ∧ p = t.pts))) ∧
  (∀ (s : State) (l : Nat), ∃ s' : State, exec (.leaseExpiry l) s = .next s' ∧ s'.mem.bytes = s.mem.bytes ∧
    (∀ c, c ∈ s'.mem.copies ↔ c ∈ s.mem.copies ∧ (c.line ≠ l ∨ s.ctl.now < c.granted + 4096))) ∧
  (∀ (s : State) (pe slot k k' : Nat) (t : Task) (r : Req) (ks : List (Option Nat)) (rest : List Req), s.task? pe slot = some t →
    t.queue = r :: rest → r.keys = some k :: ks → movedTo s k = some k' → s.ctl.eager = false →
    (∀ x ∈ rest, x.id ≠ r.id) → (∀ x ∈ t.reds, x.id ≠ r.id) →
    (r.hops < 8 → exec (.redirect pe slot) s = .next (s.setTask { t with queue := { r with
      hops := r.hops + 1, keys := some k' :: ks
      ways := r.ways.map (fun w => if w.1 = lineOf k then (lineOf k', w.2) else w) } :: rest })) ∧
    (8 ≤ r.hops → exec (.redirect pe slot) s = .next (homeFault (s.setTask { t with queue := rest }) pe slot r 0x15 4)))

/-- Fibres (R148 to R153, R235, R239, R240): a request at its engine is answered with the operation's result, or its refusal. On a live
fibre without partials: a probe gives bit 63 and the value, or ABSENT; a read the first eight pairs at or above its cursor; COUNT, SEAL
and UNSEAL, CLEAR and DELETE do what they say; a merge into a sealed one is refused; the first pair of an empty one is stored. What
is no live fibre is refused, and NEW refuses a live one. That STAT answers a counter as it stands before the operation's own engine cycles
is the model's reading: log 53. -/
def Obligations.FibresAnswer : Prop :=
  (∀ (s s1 : State) (pe slot k : Nat) (t : Task) (r : Req) (rest : List Req), s.task? pe slot = some t → t.queue = r :: rest →
    r.keys = [some k] → isFibre r.ins = true → r.free s pe = true → (∀ p ∈ s.mem.partials, p.line ≠ lineOf k) →
    let u := { t with queue := rest }
    let i := if readsMem r.ins then Instr.loadResponse pe slot false else .storePerformed pe slot 0
    let s0 := r.leave (s.setTask u)
    (∀ e fl, fibreOp s0 u r.ins k (r.a.getD .null) (r.b.getD .null) (r.c.getD .null) = (s1, .error (e, fl)) →
      ∃ s2 : State, exec i s = .next (settled (homeFault s2 pe slot r e.1 e.2) pe slot) ∧ s2.mem.bytes = s1.mem.bytes ∧ s2.eng = s1.eng) ∧
    (∀ how tok fl, fibreOp s0 u r.ins k (r.a.getD .null) (r.b.getD .null) (r.c.getD .null) = (s1, .ok ((how, tok), fl)) → s1.plainL2 →
      ∃ s2 : State, exec i s = .next (settled (deliver s2 pe slot r tok) pe slot) ∧ s2.mem.bytes = s1.mem.bytes ∧
        s2.eng = { s1.eng with copies := s2.eng.copies })) ∧
  (∀ (s : State) (k : Nat) (f : Fibre) (b : Word) (bv : Vec), s.fibre? k = some f → s.poisoned k 64 = false → (readHdr s k).pdie = 0 →
    f.bad = [] →
    let h := readHdr s k
    (∃ s', fibProbe s k b = (s', .ok (match fibLookup f h (b.toNat % 2 ^ 32) with
      | some v => BitVec.ofNat 64 (2 ^ 63 + v) | none => BitVec.ofNat 64 h.absent, 0)) ∧ s'.fibre? k = some f) ∧
    (∃ s', fibRead s k b = (s', .ok (packPairs (if sentinel ≤ b.toNat then [] else (f.shape.all.filter (fun p => b.toNat ≤ p.1)).take 8), 0)) ∧
      s'.fibre? k = some f) ∧
    (∃ s' w, fibProbes s k false bv = (s', .ok (w, 0)) ∧ ∀ j, j < 16 → (fibLookup f h (lane 32 bv j)).isSome →
      lane 32 w j = (fibLookup f h (lane 32 bv j)).getD 0 % 2 ^ 32) ∧
    (∃ s' w, fibProbes s k true bv = (s', .ok (w, 0)) ∧ ∀ j, j < 16 →
      lane 32 w j = if (fibLookup f h (lane 32 bv j)).isSome then 2 ^ 32 - 1 else 0) ∧
    (∃ s', fibManage s 3 k b = (s', .ok (BitVec.ofNat 64 f.shape.count, 0)) ∧ s'.fibre? k = some f) ∧
    (∃ s', fibManage s 4 k b = (s', .ok (BitVec.ofNat 64 f.shape.count, 0)) ∧ s'.fibre? k = some f ∧ (s.memWf → (readHdr s' k).sealed_ = true)) ∧
    (∃ s', fibManage s 5 k b = (s', .ok (0, 0)) ∧ s'.fibre? k = some f ∧ (s.memWf → (readHdr s' k).sealed_ = false)) ∧
    (∃ s' g, fibManage s 2 k b = (s', .ok (BitVec.ofNat 64 h.pairs, 0)) ∧ s'.fibre? k = some g ∧ g.shape = Shape.empty ∧ g.parts = [] ∧
      g.segUnits = [] ∧ g.dirUnits = [] ∧ (∀ n ∈ g.units, n ∈ f.units) ∧
      (h.sres ≤ (f.segUnits ++ f.spareSegs).length → reservedDirs h.sres ≤ 1 + (f.dirUnits ++ f.spareDirs).length →
        g.units.length = unitsHeld h.sres Shape.empty)) ∧
    (∃ s', fibManage s 1 k b = (s', .ok (BitVec.ofNat 64 f.shape.segs.length, 0)) ∧ s'.fibre? k = none ∧ (s.memWf → (readHdr s' k).live = false)) ∧
    (∃ s', fibManage s 6 k b = (s', .ok (BitVec.ofNat 64 (fibCounter h b.toNat), 0)) ∧ s'.fibre? k = some f) ∧
    (∀ die mode l, h.sealed_ = true → fibMerge s k die mode l = (s, .error ((0x23, 0), 0))) ∧
    (∀ mode c v, h.sealed_ = false → f.shape = Shape.empty → h.level = 0 → h.fmt = 12 → h.pz = false → c < sentinel → v < 2 ^ 32 → h.plim = 0 →
      h.pol = 0 → unitsHeld h.sres { Shape.empty with segs := [[(c, v)]] } ≤ f.units.length →
      ∃ s' g, fibMerge s k (dieOf (fibHome k)) mode [(c, v)] = (s', .ok (true, 0)) ∧ s'.fibre? k = some g ∧ g.shape.segs = [[(c, v)]]) ∧
    (∀ pad handle, fibNew s pad k handle b = (s, .error ((0x22, 2), 0)))) ∧
  (∀ (s : State) (k : Nat) (b : Word) (bv : Vec), s.fibre? k = none →
    fibProbe s k b = (s, .error ((0x22, 3), 0)) ∧ fibRead s k b = (s, .error ((0x22, 3), 0)) ∧
    (∀ hit, fibProbes s k hit bv = (s, .error ((0x22, 3), 0))) ∧ (∀ op, fibManage s op k b = (s, .error ((0x22, 3), 0))) ∧
    (∀ die mode l, fibMerge s k die mode l = (s, .error ((0x22, 3), 0))) ∧
    (∀ pad handle, (readHdr s k).fmt = 0 → s.read k 1 < 16 → (readHdr s k).cop = 0 → s.read (k + 1) 1 < 32 → (readHdr s k).pol = 0 →
      (readHdr s k).step = 1 → s.read (k + 2) 1 < 32 → b = 0 → 1 ≤ penFree s pad (fibHome k) →
      ∃ s' g, fibNew s pad k handle b = (s', .ok (0, 0)) ∧ s'.fibre? k = some g ∧ g.handle = handle ∧ g.pad = pad ∧ g.shape = Shape.empty ∧
        g.units = [g.root] ∧ g.root < penSize s pad (fibHome k) ∧ g.root ∉ penTaken s pad (fibHome k) ∧ penFree s' pad (fibHome k) = penFree s pad (fibHome k) - 1 ∧ (s.memWf → (readHdr s' k).live = true)))

/-! ### Blocks and links -/

/-- A token on a wake port makes an IDLE or YIELDED task READY, no earlier than the cycle after it became so; a PE with a free frame
dispatches a task that was READY before this cycle: one that has been
passed 15 times before the others, else one of the highest priority; the block's frame holds its header's counts, the registers as
committed, and no operand (R14 to R17, R176, R177). The faults of a block that can make no progress, and of one that runs 2^24 cycles
without a withheld operation (that counter 3 takes every cycle from the one of READY to the one of dispatch is the model's choice, log 46): OUTPUTS subcode 2 when outputs are missing, WAVE subcode 5 when its chain is not closed, WATCHDOG (R28,
R34, R342; index 0xFF is the model's, log 1). -/
def Obligations.TasksRun : Prop :=
  ((∀ (s : State) (pe slot : Nat) (t : Task), s.task? pe slot = some t → t.st = .idle ∨ t.st = .yielded → t.saved = false → wakes s t = true →
      t.readyAt < s.ctl.now ∨ t.readyAt = 0 →
      exec (.wakeTask pe slot) s = .next (s.newId.2.setTask { t with st := .ready, pass := 0, since := s.ctl.ids, readyAt := s.ctl.now })) ∧
    (∀ (s : State) (pe : Nat) (t : Task), (s.cores.tasks.filter (fun u => u.pos = pe && u.frame.isSome)).length < 4 → nextReady s pe = some t →
      ∃ f : Frame, exec (.blockDispatch pe) s =
          .next (s.newId.2.setTask { (t.count 3 (s.ctl.now - t.readyAt)) with st := .running, frame := some f }) ∧
        f.id = s.ctl.ids ∧ f.hdr = t.cur ∧ f.n = s.storeWord t.pos t.cur / 2 ^ 26 + 1 ∧ f.m = bits (s.storeWord t.pos t.cur) 25 21 ∧
        f.w = bits (s.storeWord t.pos t.cur) 20 16 ∧ f.g0 = t.g ∧ f.spr = sprAll s t ∧ f.gpend = t.pending.map (·.1) ∧
        f.ins = List.replicate f.n Ins.empty ∧ f.exit = none ∧ f.chain = [] ∧ f.outs = 0 ∧ f.met = none ∧ f.flying = [] ∧ f.raised = none) ∧
    (∀ (s : State) (pe : Nat) (t : Task), (∀ c ∈ s.fab.confs, c.drain = none) → nextReady s pe = some t →
      let able (u : Task) : Prop := u ∈ s.cores.tasks ∧ u.pos = pe ∧ u.st = .ready ∧ u.readyAt < s.ctl.now
      able t ∧ (∀ u, able u → 15 ≤ u.pass → 15 ≤ t.pass) ∧ ((∀ u, able u → u.pass < 15) → ∀ u, able u → u.prio ≤ t.prio))) ∧
  (∀ (s : State) (pe slot : Nat) (t : Task) (f : Frame), s.task? pe slot = some t → t.frame = some f → t.saved = false →
      (blockDue s t = false → f.exit.isSome → f.raised = none → quiescent s t f = true → f.outs < f.w →
        exec (.blockComplete pe slot) s = .next (blockFault s t f { code := 0x05, sub := 2, idx := 0xFF })) ∧
      (blockDue s t = false → f.exit.isSome → f.raised = none → quiescent s t f = true → f.outs = f.w → f.slotsResolved = false →
        exec (.blockComplete pe slot) s = .next (blockFault s t f { code := 0x07, sub := 5, idx := 0xFF })) ∧
      ((∀ o ∈ f.chain, ∀ a b c, o.st ≠ .withheld a b c) → f.at_ + 2 ^ 24 + f.paused ≤ s.ctl.now →
        exec (.blockWatchdog pe slot) s = .next (blockFault s t f { code := 0x38, sub := 0, idx := 0xFF }) ∧
        (f.exit.isSome → exec (.blockComplete pe slot) s = .next (blockFault s t f { code := 0x38, sub := 0, idx := 0xFF }))) ∧
      (s.ctl.now < f.at_ + 2 ^ 24 + f.paused → exec (.blockWatchdog pe slot) s = .next s))

/-- A block whose exit has fired, whose W outputs are there and whose memory slots have resolved commits, and its task goes on where
the exit says: READY at the target, YIELDED at it, IDLE at its entry, or with the fault of the TRAP (R25, R26, R91 to R95, R177).
While a copy holds a register that it writes pending, it waits (R289); while an instruction of it may issue in this cycle it does not
complete, and a fault that has been raised in it ends it instead (R65). A block with a breakpoint commits and stops with
BREAKPOINT, its extra field saying where it would have gone on (R96).
Of several writes of a register the one of the highest instruction index commits, every other register stays; a call's link is the word
after its block; the flags are ORed in; the frame ends (R26, R92, R102). -/
def Obligations.BlocksComplete : Prop :=
  (∀ (s : State) (pe slot : Nat) (t : Task) (f : Frame) (e : Exit), s.task? pe slot = some t → t.frame = some f → f.exit = some e →
     t.saved = false → blockDue s t = false →
     (s.issues t f = true ∨ f.raised.isSome → exec (.blockComplete pe slot) s = .next s) ∧
     (s.issues t f = false → f.raised = none → f.outs = f.w → f.slotsResolved = true →
     let c := (commitBlock t f).count 0
     let u := passOthers s c
     let goes : Task := { c with cur := e.target, st := .ready, pass := 0, since := s.ctl.ids, readyAt := s.ctl.now }
     let yields : Task := { c with cur := e.target, st := .yielded, readyAt := s.ctl.now }
     let ends : Task := { c with cur := c.entry, st := .idle, readyAt := s.ctl.now }
     let jumps := e.kind = .br ∨ e.kind = .call ∨ e.kind = .ret
     ((∃ w ∈ f.gw, ∃ p ∈ t.pending, p.1 = w.2.1) →
       exec (.blockComplete pe slot) s = .next (s.setFrame t { f with met := some (f.met.getD s.ctl.now) })) ∧
     ((∀ w ∈ f.gw, ∀ p ∈ t.pending, p.1 ≠ w.2.1) →
       (e.kind = .trap → exec (.blockComplete pe slot) s =
         .next (takeFault u c f.hdr { code := 0x30, sub := 0, idx := e.idx, extra := e.code })) ∧
       (f.bkpt = none →
         (jumps → exec (.blockComplete pe slot) s = .next (u.newId.2.setTask goes)) ∧
         (e.kind = .ybr → exec (.blockComplete pe slot) s = .next (u.setTask yields)) ∧
         (e.kind = .tend → exec (.blockComplete pe slot) s = .next (u.setTask ends))) ∧
       (∀ k, f.bkpt = some k →
         (jumps → exec (.blockComplete pe slot) s =
           .next (takeFault u.newId.2 goes f.hdr { code := 0x31, sub := 0, idx := k, extra := BitVec.ofNat 64 e.target })) ∧
         (e.kind = .ybr → exec (.blockComplete pe slot) s =
           .next (takeFault u yields f.hdr { code := 0x31, sub := 0, idx := k, extra := BitVec.ofNat 64 (2 ^ 63 + e.target) })) ∧
         (e.kind = .tend → exec (.blockComplete pe slot) s =
           .next (takeFault u ends f.hdr { code := 0x31, sub := 0, idx := k, extra := BitVec.ofNat 64 (2 ^ 64 - 1) })))))) ∧
  (∀ (s : State) (pe slot : Nat) (t : Task) (f : Frame) (r : Raise), s.task? pe slot = some t → t.frame = some f → f.raised = some r →
     runAct (.arrivalFault pe slot) s = .next (if s.issues t f then s else blockFault s t f r)) ∧
  (∀ (t : Task) (f : Frame),
     (∀ r, (∀ w ∈ f.gw, w.2.1 ≠ r) → (commitBlock t f).g.toList.getD r 0 = t.g.toList.getD r 0) ∧
     (∀ k r v, r < 64 → (k, r, v) ∈ f.gw → (∀ w ∈ f.gw, w.2.1 = r → w.1 ≤ k ∧ (w.1 = k → w.2.2 = v)) →
       (commitBlock t f).g.toList.getD r 0 = v) ∧
     (∀ r, (∀ w ∈ f.vw, w.2.1 ≠ r) → (commitBlock t f).v.toList.getD r 0 = t.v.toList.getD r 0) ∧
     (∀ k r v, r < 32 → (k, r, v) ∈ f.vw → (∀ w ∈ f.vw, w.2.1 = r → w.1 ≤ k ∧ (w.1 = k → w.2.2 = v)) →
       (commitBlock t f).v.toList.getD r 0 = v) ∧
     ((∀ w ∈ f.xw, w.2.1 ≠ 0x09) → (commitBlock t f).flg = t.flg ||| BitVec.ofNat 64 f.flags) ∧
     ((∀ w ∈ f.xw, w.2.1 ≠ 0x31) → (commitBlock t f).scope = if t.narrowedBy f then t.scope ||| 1 else t.scope) ∧
     (∀ e, f.exit = some e → e.kind = .call → (commitBlock t f).lnk = BitVec.ofNat 64 (f.hdr + f.n + 1)) ∧
     (commitBlock t f).frame = none ∧ (commitBlock t f).pts = t.pts ∧ (commitBlock t f).shp = t.shp ∧ (commitBlock t f).fault = t.fault ∧
     (commitBlock t f).perf = t.perf ∧ (commitBlock t f).queue = t.queue ∧ (commitBlock t f).st = t.st ∧ (commitBlock t f).cur = t.cur)

/-- Links (R27, R28, R65, R163 to R166, R173, R349): a send waits until every link of its port is open, then it takes a credit of each and
is one output, or raises OUTPUTS subcode 1 when W are there (R65); it travels as the flits of R168 to R172, which the receiver reads as the token again (a control token, a null, and on the
data plane a repeated and an uncompressed token), and arrives in order behind those that wait; a credit goes back, a pulse raises its
count; an uncorrectable error of a hop ends every configuration with a link through it (which hop it is: a free choice, log 48). -/
def Obligations.LinksCarryTokens : Prop :=
  (∀ (s : State) (e : Ep) (tok : Tok), (sendOn s e tok).isSome ↔ ∀ l ∈ s.fab.links, l.src = e → linkOpen s l = true) ∧
  (∀ (s s' : State) (e : Ep) (tok : Tok) (n : Nat), sendOn s e tok = some (s', n) →
    s'.fab.links = s.fab.links.map (fun l => if l.src = e then l.push tok else l) ∧ s'.mem = s.mem ∧ s'.cores = s.cores ∧
    s'.fab.inputs = s.fab.inputs) ∧
  (∀ (l : Link) (tok : Tok), l.plane ≠ .pulse → (l.push tok).credits = l.credits - 1 ∧
    (l.push tok).flight = l.flight ++ (if l.plane = .ctl then [ctlFlit tok] else dataFlits l.vc l.last tok) ∧
    (l.push tok).dst = l.dst ∧ (l.push tok).depth = l.depth) ∧
  (∀ (l : Link) (w : Word) (v : Vec), l.flight = [] → l.vc < 8 →
    (l.plane = .ctl → (l.push (.ctl w false)).arriving = .token (.ctl w false) 0 [] ∧ (l.push .null).arriving = .token .null 0 [] ∧
      l.mark.arriving = .marker []) ∧
    (l.plane = .data → (l.push .null).arriving = .token .null 1 [] ∧ l.mark.arriving = .marker [] ∧
      (l.last = some v → l.heard = some v → (l.push (.data v false)).arriving = .token (.data v false) 1 []) ∧
      (l.last ≠ some v → 30 < (nonZeros v).length → (l.push (.data v false)).arriving = .token (.data v false) 2 []))) ∧
  (∀ (s s' : State) (pe slot k n : Nat) (t : Task) (f : Frame) (p : PendSend), s.task? pe slot = some t → t.frame = some f →
    f.sends[k]? = some p → (∀ q ∈ f.sends, q.port = p.port → p.idx ≤ q.idx) → (∀ q ∈ f.sends.take k, q.port = p.port → q.idx ≠ p.idx) →
    sendOn s (portEp pe p.port) p.tok = some (s', n) →
    (f.outs < f.w → exec (.linkSendAccept pe slot k) s =
      .next (s'.setFrame (t.count 5 n) { f with outs := f.outs + 1, sends := dropAt k f.sends })) ∧
    (f.w ≤ f.outs → exec (.linkSendAccept pe slot k) s =
      .next (s.setFrame t (Frame.raiseFault { f with sends := dropAt k f.sends } { code := 0x05, sub := 1, idx := p.idx })))) ∧
  (∀ (s : State) (l : Nat) (x : Link) (q : Input), s.fab.links[l]? = some x → s.input? x.dst = some q →
    (∀ tok n rest, x.arriving = .token tok n rest → q.marker = false → partSaved s x.cid x.dst = false →
      ∃ s', exec (.tokenArrive l) s = .next s' ∧
        s'.input? x.dst = some { q with toks := q.toks ++ [(tok, true)], came := q.came ++ [s.ctl.now] } ∧
        s'.fab.links = s.fab.links.set l { x with flight := rest, heard := match tok with | .data v _ => some v | _ => x.heard } ∧
        s'.mem = s.mem ∧ s'.eng = s.eng ∧
        (∀ e, e ≠ x.dst → s'.input? e = s.input? e)) ∧
    (0 < x.pulses → ∃ s', exec (.pulseArrive l) s = .next s' ∧ s'.input? x.dst = some { q with pulses := q.pulses + 1 } ∧
      s'.fab.links = s.fab.links.set l { x with pulses := x.pulses - 1 } ∧ s'.mem = s.mem ∧ s'.cores = s.cores ∧ s'.eng = s.eng) ∧
    (0 < x.returning → exec (.creditReturn l) s =
      .next (s.setLink l { x with returning := x.returning - 1, credits := min x.depth (x.credits + 1) }))) ∧
  (∀ (s : State) (l : Nat) (x : Link), s.fab.links[l]? = some x → x.route ≠ [] →
    ∃ s', ∃ hop ∈ x.route, exec (.linkFlitError l) s = .next s' ∧ hop ∈ s'.fab.badHops ∧
      (∀ y ∈ s.fab.links, hop ∈ y.route → ∀ c ∈ s'.fab.confs, c.cid ≠ y.cid))

/-! ### Banks, shapes, copies and rings -/

/-- BMODE (R214, R218, R219): with the bank in no switch and every access that it had accepted completed, the mode is set and the trigger
follows; before that the bank is marked switching and it waits. A bank that becomes a scratchpad reads zeros and no other byte of memory
changes, one that leaves cache mode loses its lines and no other; a bad bank number or mode, or an open ring, raises BANKMODE. -/
def Obligations.BankModeSwitches : Prop :=
  (∀ (t u : BitVec 9) (s : State) (k : Task) (f f' : Frame) (idx : Nat) (x : Ins), waiting? s = none → Fires s (.bmode t u) k f idx x →
    (31 < x.wa.toNat → exec (.bmode t u) s = .next (blockFault s (k.count 1) (f.fired idx x) { code := 0x29, sub := 1, idx := idx })) ∧
    (x.wa.toNat ≤ 31 → 2 < x.wb.toNat →
      exec (.bmode t u) s = .next (blockFault s (k.count 1) (f.fired idx x) { code := 0x29, sub := 2, idx := idx })) ∧
    (x.wa.toNat ≤ 31 → x.wb.toNat ≤ 2 → s.bankBusy (clusterOf k.pos) x.wa.toNat = false →
      let b := s.bank (clusterOf k.pos) x.wa.toNat
      (b.mode = 2 → (∃ r ∈ s.eng.rings, r.inBank (clusterOf k.pos) x.wa.toNat = true) →
        exec (.bmode t u) s = .next (blockFault s (k.count 1) (f.fired idx x) { code := 0x29, sub := 3, idx := idx })) ∧
      ((b.mode = 2 → ∀ r ∈ s.eng.rings, r.inBank (clusterOf k.pos) x.wa.toNat = false) →
        (bankQuiet s (clusterOf k.pos) x.wa.toNat = true → Frame.putAll (f.fired idx x) idx trigger [t, u] = .ok f' →
          exec (.bmode t u) s = .next (left (endSwitch s b x.wb.toNat) k f')) ∧
        (bankQuiet s (clusterOf k.pos) x.wa.toNat = false → exec (.bmode t u) s =
          .next (left (s.setBank { b with switching := some { pos := k.pos, slot := k.slot, fid := f.id, idx := idx, mode := x.wb.toNat } }) k
            ((f.fired idx x).wait idx (.bank x.wa.toNat s.ctl.now))))))) ∧
  (∀ (s : State) (cl n m : Nat), (endSwitch s (s.bank cl n) m).bankMode cl n = m ∧
    ∀ c, c ∈ (endSwitch s (s.bank cl n) m).mem.copies ↔
      c ∈ s.mem.copies ∧ ¬((s.bank cl n).mode = 0 ∧ m ≠ 0 ∧ c.cluster = cl ∧ c.way = n)) ∧
  (∀ (s : State) (cl n m a : Nat), s.memWf →
    readByte (endSwitch s (s.bank cl n) m).mem.bytes a =
      if m = 1 ∧ (s.bank cl n).mode ≠ 1 ∧ windowKey cl (n * 2 ^ 15) ≤ a ∧ a < windowKey cl (n * 2 ^ 15) + 2 ^ 15 then 0
      else readByte s.mem.bytes a)

/-- MSHAPE writes its record, which reads back as rows, bytes, pitch and format, or raises SHAPE with the subcode of the first bad field;
ACOPY, with its register free, room in the queue and the earlier operations performed, marks the register pending and queues the copy,
or leaves the refusal's code in it; what the copy accesses follows the task's accesses so far, and what its configuration follows (R252,
R287, R288, R290). -/
def Obligations.ShapesAndCopiesStart : Prop :=
  (∀ (n : BitVec 3) (F : BitVec 4) (t u : BitVec 9) (s : State) (k : Task) (f f' : Frame) (idx : Nat) (x : Ins),
    Fires s (.mshape n F t u) k f idx x →
    (∀ sub, shapeBad x.wa.toNat x.wb.toNat F.toNat = some sub →
      exec (.mshape n F t u) s = .next (blockFault s (k.count 1) (f.fired idx x) { code := 0x18, sub := sub, idx := idx })) ∧
    (shapeBad x.wa.toNat x.wb.toNat F.toNat = none → Frame.putAll (f.fired idx x) idx trigger [t, u] = .ok f' →
      exec (.mshape n F t u) s = .next (s.setFrame { (k.count 1) with
        shp := k.shp.set! n.toNat (shapeWord (x.wa.toNat % 2 ^ 16) (bits x.wa.toNat 31 16) x.wb.toNat F.toNat) } f'))) ∧
  (∀ (rows bytes pitch F : Nat), rows < 2 ^ 16 → bytes < 2 ^ 16 → pitch < 2 ^ 32 → pitch % 64 = 0 → F < 16 →
    let w := shapeWord rows bytes pitch F
    shpRows w = rows ∧ shpBytes w = bytes ∧ shpPitch w = pitch ∧ shpFmt w = F ∧
    (shpTile w = true ↔ bytes = 64 ∨ bytes = 128 ∨ bytes = 192 ∨ bytes = 256)) ∧
  (∀ (n : BitVec 6) (t u : BitVec 9) (s : State) (k : Task) (f f' : Frame) (idx : Nat) (x : Ins), waiting? s = none →
    Fires s (.acopy n t u) k f idx x → (∀ p ∈ k.pending, p.1 ≠ n.toNat) →
    (s.eng.copies.filter (fun c => c.cluster = clusterOf k.pos && !c.running)).length < 16 → performedUpto s (k.count 1) s.ctl.ids = true →
    Frame.putAll (f.fired idx x) idx trigger [t, u] = .ok f' →
    let code := copyCheck s (k.count 1) x.wa x.wb x.wc
    (code ≠ 0 → exec (.acopy n t u) s =
      .next (s.setFrame { (k.count 1) with g := k.g.set! n.toNat (-(BitVec.ofNat 64 code)) } f')) ∧
    (code = 0 → exec (.acopy n t u) s =
      .next (State.setFrame { s.newId.2 with eng := { s.eng with copies := s.eng.copies ++
          [{ id := s.ctl.ids, cluster := clusterOf k.pos, pad := k.part.toNat, ten := k.ten.toNat, cid := k.cid, pos := k.pos, slot := k.slot
             g := n.toNat, src := x.wa, dst := x.wb, shape := k.shp.toList.getD x.wc.toNat 0
             held := heldSlot s (clusterOf k.pos) x.wa && !plainEnd s (clusterOf k.pos) x.wa
             ring := (copyRing s k.cid x.wb).map (·.key), ringSlot := none, running := false, reach := 0, lost := false, moved := 0
             lag := [], owed := [], pts := s.basePts k, kept := none }] } }
        { (k.count 1) with pending := k.pending ++ [(n.toNat, s.ctl.ids)] } f')))

/-- A queued copy takes one of the unit's four places; one to a ring, when its reservation stands first, reserves the next free slot, or
binds the ring and waits for one; each piece reads its source and then writes its destination; after the last piece, its writes
performed, it publishes its slot, and the register takes 0 and is no longer pending (R289, R291, R292, R295). A tile with any row in host
memory or a remote window is refused before any other fault of its rows (R257, R292). Its timestamp rises with
what it reads and writes, and goes to its ring and to the GET that joins it, with the lines of host memory that it wrote (R244, R251 to
R253). -/
def Obligations.CopiesRun : Prop :=
  ∀ (s : State) (j : Nat) (c : CopyOp), s.eng.copies[j]? = some c →
    (c.running = false → (s.eng.copies.filter (fun y => y.cluster = c.cluster && y.running)).length < 4 →
      exec (.copyStart j) s = .next (s.nextLat.2.setCopy { c with running := true, reach := s.ctl.now + s.nextLat.1 })) ∧
    (∀ key r, c.running = true → c.ring = some key → c.ringSlot = none → c.reach < s.ctl.now → reservesFirst s c = false →
      s.ring? key = some r → r.bind = .none ∨ r.bind = .copies c.cid →
      (r.room = true → exec (.ringReserve j) s = .next ((s.setRing { r with flying := r.flying + 1, bind := .copies c.cid }).setCopy
        { c with ringSlot := some (r.w + r.flying), pts := max c.pts r.back })) ∧
      (r.room = false → exec (.ringReserve j) s = .next (s.setRing { r with bind := .copies c.cid }))) ∧
    (∀ key, c.running = true → c.ring = some key → c.ringSlot = none → c.reach < s.ctl.now → reservesFirst s c = false →
      s.ring? key = none → exec (.ringReserve j) s = .next (endCopy s c (-3))) ∧
    (∀ (rows : List (Nat × Nat × Nat)) (s1 : State) (ks kd : List (Nat × Nat)), c.running = true → c.lost = false →
      (c.ring = none ∨ (c.ringSlot.isSome ∧ ∃ key, c.ring = some key ∧ (s.ring? key).isSome)) →
      c.piece s c.moved = some rows → c.keys s rows = (some (ks, kd), s1) →
      let r := c.readEnd s1 ks
      let w := writeShaped r.1 c.who r.2.2 (shpTile c.shape) kd r.2.1
      exec (.copyComplete j) s = .next (w.1.setCopy
        { c with moved := c.moved + 1, pts := w.2, owed := owedWith c.owed kd, lag := c.lag ++ lagOf w.1 c.id (kd.map (fun k => lineOf k.1)) }) ∧
      (∀ k ∈ kd, regionOf k.1 = 1 → lineOf k.1 ∈ owedWith c.owed kd) ∧ (∀ l ∈ c.owed, l ∈ owedWith c.owed kd) ∧
      (∀ k d n, ks = [(k, n)] → kd = [(d, n)] → shpTile c.shape = false → c.kept = none → s1.plainL2 → s1.memWf →
        (∀ p ∈ s1.mem.partials, p.line ≠ lineOf k ∧ p.line ≠ lineOf d) →
        (∀ x ∈ s1.mem.sealed, x.1 = lineOf k ∨ x.1 = lineOf d → x.2 = s1.keyOf c.who) →
        c.pts ≤ w.2 ∧ ∀ a, readByte w.1.mem.bytes a =
          if d ≤ a ∧ a < d + n then readByte s1.mem.bytes (k + (a - d)) else readByte s1.mem.bytes a)) ∧
    (∀ (rows : List (Nat × Nat × Nat)) (x : Nat × Nat), c.running = true → c.lost = false → c.ring = none → c.piece s c.moved = some rows →
      shpTile c.shape = true → (rows.flatMap (fun r => lineCuts (r.2.2 / 64 + 2) r.1 r.2.2) ++
        rows.flatMap (fun r => lineCuts (r.2.2 / 64 + 2) r.2.1 r.2.2)).find? (fun a => standsOutside s c.pad c.ten a.1) = some x →
      exec (.copyComplete j) s = .next (c.fail s 0x12 10 x.1)) ∧
    (c.running = true → c.lost = false → c.piece s c.moved = none → lagging s c.lag = false →
      (c.ring = none → exec (.copyComplete j) s = .next (endCopy s c 0)) ∧
      (∀ key n r, c.ring = some key → c.ringSlot = some n → s.ring? key = some r →
        exec (.copyComplete j) s = .next (endCopy (s.setRing { r.publish n with pts := max r.pts c.pts }) c 0))) ∧
    (∀ t v, s.task? c.pos c.slot = some t → t.cid = c.cid →
      ∃ u j : List Join, ∃ x : Join, (endCopy s c v).task? c.pos c.slot = some { t with
        g := t.g.set! c.g v, pending := t.pending.filter (fun p => p.2 ≠ c.id), joins := u ++ x :: j
        frame := t.frame.map (fun f => f.endPending c.g v) } ∧
      x.reg = c.g ∧ c.pts ≤ x.pts ∧ (∀ l ∈ c.owed, l ∈ x.lines) ∧ ∀ y ∈ u, y.reg ≠ c.g)

/-- Rings (R294 to R297): RBOPEN opens a ring of its geometry in FIFO banks; RBWAIT delivers the next published slot, as its address
or its number, to the first that waits; RBREL releases the oldest delivered slot, and raises RING subcode 5 with none; RBCLOSE
closes a ring with none. FSCAN binds a ring and starts; each slot that it fills is one access at its header's home, where it waits while the
row is empty, and is published, and the one that runs out of pairs ends it (R155, R320, R321, R367). A slot's timestamp goes from its producer to the RBWAIT that delivers it, and a release's back to the producer (R253). -/
def Obligations.RingsDeliverInOrder : Prop :=
  (∀ (t u : BitVec 9) (s : State) (k : Task) (f f' : Frame) (idx : Nat) (x : Ins) (key : Nat), waiting? s = none →
    Fires s (.rbopen t u) k f idx x → handleKey x.wa = some key → key / 2 ^ 20 = clusterOf k.pos →
    let slots := x.wb.toNat % 256
    let size := bits x.wb.toNat 15 8 * 64
    let new : Ring := { key := key, slots := slots, size := size, w := 0, c := 0, r := 0, flying := 0, bind := .none, early := [], pts := 0, back := 0 }
    x.wb.toNat < 2 ^ 16 → 2 ≤ slots → slots ≤ 64 → size ≠ 0 → key % 2 ^ 20 + slots * size ≤ 2 ^ 20 →
    (∀ n, n < 32 → new.inBank (clusterOf k.pos) n = true → s.bankBusy (clusterOf k.pos) n = false ∧ s.bankMode (clusterOf k.pos) n = 2) →
    s.ring? key = none → (s.eng.rings.filter (fun r => r.cluster = clusterOf k.pos)).length < 32 →
    (∀ r ∈ s.eng.rings, r.cluster = clusterOf k.pos → new.base + slots * size ≤ r.base ∨ r.base + r.slots * r.size ≤ new.base) →
    Frame.putAll (f.fired idx x) idx trigger [t, u] = .ok f' →
    exec (.rbopen t u) s = .next (left { s with eng := { s.eng with rings := s.eng.rings ++ [new] } } k f')) ∧
  (∀ (e : BitVec 1) (t u : BitVec 9) (s : State) (k : Task) (f f' : Frame) (idx : Nat) (x : Ins) (key : Nat) (r : Ring), waiting? s = none →
    ringOf s k x.wa = some key → s.ring? key = some r →
    (Fires s (.rbwait e t u) k f idx x → slotAsked s key (fun _ => true) = false → r.c < r.w →
      Frame.putAll (f.fired idx x) idx (scalar (if e = 1 then BitVec.ofNat 64 r.c
        else BitVec.ofNat 64 (0xFE * 2 ^ 56 + r.base + r.c % r.slots * r.size))) [t, u] = .ok f' →
      exec (.rbwait e t u) s = .next ((s.setRing { r with c := r.c + 1 }).setFrame ((k.count 1).raisePts r.pts) f')) ∧
    (Fires s (.rbwait e t u) k f idx x → r.w ≤ r.c → exec (.rbwait e t u) s = .next (left s k ((f.fired idx x).wait idx (.slot key s.ctl.now)))) ∧
    (Fires s (.rbrel t u) k f idx x → r.c ≠ r.r → Frame.putAll (f.fired idx x) idx trigger [t, u] = .ok f' →
      exec (.rbrel t u) s = .next (left (s.setRing { r with r := r.r + 1, back := max r.back k.pts.toNat }) k f')) ∧
    (Fires s (.rbrel t u) k f idx x → r.c = r.r →
      exec (.rbrel t u) s = .next (blockFault s (k.count 1) (f.fired idx x) { code := 0x2A, sub := 5, idx := idx })) ∧
    (Fires s (.rbclose t u) k f idx x → r.c ≤ r.r → r.flying = 0 → r.bind = .none → (∀ c ∈ s.eng.copies, c.ring ≠ some r.key) →
      slotAsked s key (fun _ => true) = false →
      Frame.putAll (f.fired idx x) idx trigger [t, u] = .ok f' →
      exec (.rbclose t u) s = .next (left { s with eng := { s.eng with rings := s.eng.rings.filter (fun y => y.key ≠ key) } } k f')) ∧
    (Fires s (.rbclose t u) k f idx x → r.r < r.c →
      exec (.rbclose t u) s = .next (blockFault s (k.count 1) (f.fired idx x) { code := 0x2A, sub := 5, idx := idx }))) ∧
  (∀ (t u : BitVec 9) (s s1 : State) (k : Task) (f f' : Frame) (idx key rk : Nat) (x : Ins) (r : Ring), waiting? s = none →
    Fires s (.fscan t u) k f idx x → performedUpto s (k.count 1) s.ctl.ids = true →
    checkAddr s (k.count 1) (fibreForm x.wa true false) x.wa.toNat = (s1, .ok [some key]) → ∀ home, followMoves s1 8 key = some home →
    handleKey x.wb = some rk →
    confHas s1 k.cid (rk / 2 ^ 20) = true → s1.bankMode (rk / 2 ^ 20) (rk % 2 ^ 20 / 2 ^ 15) = 2 →
    s1.ring? rk = some r → r.bind = .none → (s1.fibre? home).isSome → Frame.putAll (f.fired idx x) idx trigger [t, u] = .ok f' →
    let s2 := s1.newId.2.setRing { r with bind := .scan s1.ctl.ids }
    exec (.fscan t u) s = .next (left { s2 with eng := { s2.eng with scans := s2.eng.scans ++
      [{ id := s1.ctl.ids, cid := k.cid, pos := k.pos, slot := k.slot, key := home, ring := rk, next := x.wc.toNat % 2 ^ 32
         hi := x.wc.toNat / 2 ^ 32, pts := s1.basePts k }] } } k f')) ∧
  (∀ (s s1 : State) (j fl key : Nat) (c : Scan) (r : Ring) (ps : List (Nat × Nat)), s.eng.scans[j]? = some c → s.ring? c.ring = some r →
    r.room = true → followMoves s 8 c.key = some key → (∀ p ∈ s.mem.partials, p.line ≠ lineOf key) → s1.plainL2 →
    fibScan (unpark s key 9 c.id) key c.next c.hi (r.size / 8) = (s1, .ok (ps, fl)) → s1.eng.rings = s.eng.rings →
    (mayPass s key 9 c.id = false → exec (.fscanSlot j) s = .next (parkAt s key 9 c.id)) ∧ (mayPass s key 9 c.id = true → ∃ s', exec (.fscanSlot j) s = .next s' ∧
      (∃ p, r.pts ≤ p ∧ s'.ring? c.ring = some { r with w := r.w + 1, bind := if ps.length < r.size / 8 then .none else r.bind, pts := p }) ∧
      s'.mem.bytes = writeBytes s1.mem.bytes (r.slotKey r.w)
        (((List.range (r.size / 8)).map (fun i => ps.getD i (sentinel, 0))).flatMap (fun p => toBytes 4 p.1 ++ toBytes 4 p.2)) ∧
      (ps.length < r.size / 8 → ∀ y ∈ s'.eng.scans, y.id ≠ c.id)))

/-! ### Elements -/

/-- An element with an output that waits for credit sends it before anything else (R186); with none it fires by its own rule, for a
counter, STEER, MERGE, JOIN, REPL, WIN, MAXR and DLY (R189 to R193). -/
def Obligations.ElementsFire : Prop :=
  ∀ (s : State) (pos slot : Nat) (e : Elem), e.saved = false →
    (∀ i ∈ [(Instr.elemCnt pos slot, ElemKind.cnt), (.elemSteer pos slot, .steer), (.elemMerge pos slot, .merge), (.elemJoin pos slot, .join),
        (.elemRepl pos slot, .repl), (.elemWin pos slot, .win), (.elemMaxr pos slot, .maxr), (.elemDly pos slot, .dly), (.elemCvt pos slot, .cvt),
        (.elemXfm pos slot, .xfm)], ∀ n t rest, s.elem? pos slot i.2 = some e → e.out = (n, t) :: rest → n ≠ 7 → e.opens s n = true →
      exec i.1 s = .next ((e.send s n t).setElem { e with out := rest })) ∧
    (e.out = [] →
      (s.elem? pos slot .cnt = some e → (e.root && e.draining s) = false → 0 < e.passes → e.inner = false → e.succ? s = none →
        e.i < e.count → e.opens s 4 = true → e.opens s 5 = true → exec (.elemCnt pos slot) s =
          .next ((e.send (e.send s 4 (scalar (BitVec.ofNat 64 e.i))) 5 (scalar (if e.i + 1 = e.count then 1 else 0))).setElem
            (if e.i + 1 = e.count then { e with i := 0, passes := e.passes - 1, inner := false }
              else { e with i := e.i + 1, inner := false }))) ∧
      (∀ a c, s.elem? pos slot .steer = some e → e.peek s 0 = some a → e.peek s 1 = some c → e.opens s 4 = true → e.opens s 5 = true →
        (a ≠ .null → c ≠ .null → c.word ≠ 0 → bits e.spec 38 38 = 0 →
          exec (.elemSteer pos slot) s = .next (e.send (e.take (e.take s 0) 1) 4 a)) ∧
        (a ≠ .null → c ≠ .null → c.word = 0 → bits e.spec 38 38 = 0 →
          exec (.elemSteer pos slot) s = .next (e.send (e.take (e.take s 0) 1) 5 a)) ∧
        (a ≠ .null → c ≠ .null → c.word = 0 → bits e.spec 38 38 = 1 →
          exec (.elemSteer pos slot) s = .next (e.send (e.send (e.take (e.take s 0) 1) 5 a) 4 .null)) ∧
        (a = .null ∨ c = .null → exec (.elemSteer pos slot) s = .next (e.send (e.send (e.take (e.take s 0) 1) 4 .null) 5 .null))) ∧
      (∀ x, s.elem? pos slot .merge = some e → bits e.spec 38 38 = 0 → e.peek s 0 = some x → x ≠ .null → e.peek s 1 = none →
        e.opens s 4 = true → exec (.elemMerge pos slot) s = .next ((e.send (e.take s 0) 4 x).setElem { e with j := e.j + 1 })) ∧
      (∀ k t, s.elem? pos slot .merge = some e → bits e.spec 38 38 = 1 → e.sel = some k → e.peek s k = some t → e.opens s 4 = true →
        exec (.elemMerge pos slot) s = .next ((e.send (e.take s k) 4 t).setElem { e with sel := none })) ∧
      (∀ a b, s.elem? pos slot .join = some e → bits e.spec 38 37 = 1 → e.peek s 0 = some a → e.peek s 1 = some b → a ≠ .null → b ≠ .null →
        e.opens s 4 = true → exec (.elemJoin pos slot) s = .next (e.send (e.take (e.take s 0) 1) 4 a)) ∧
      (∀ t n, s.elem? pos slot .repl = some e → e.peek s 0 = some t → t ≠ .null → bits e.spec 37 22 = n + 1 → e.opens s 4 = true →
        e.opens (e.take s 0) 4 = true →
        let v := vector (splat (bits e.spec 39 38) t.word)
        exec (.elemRepl pos slot) s = .next ((e.send (e.take s 0) 4 v).setElem { e with out := List.replicate n (4, v) })) ∧
      (∀ t, s.elem? pos slot .win = some e → e.peek s 0 = some t →
        let k := bits e.spec 39 37 - 1
        let d := bits e.spec 34 33 + 1
        let len := bits e.spec 32 21 + 1
        let hist := e.toks ++ [t]
        let e' : Elem := { e with
          toks := hist.drop (hist.length - min hist.length (k * d * len))
          i := if e.j + 1 = len then e.i + 1 else e.i
          j := if e.j + 1 = len then 0 else e.j + 1 }
        let st := bits e.spec 36 35 + 1
        (e.i < k * d → exec (.elemWin pos slot) s = .next ((e.take s 0).setElem e')) ∧
        (∀ x rest, k * d ≤ e.i → (e.i - k * d) % st = 0 → e.j % st = 0 → e.opens s 4 = true → e.opens (e.take s 0) 4 = true →
          (List.range (k + 1)).map (fun q => (4, hist.getD (hist.length - 1 - (k - q) * d * len) .null)) = (4, x) :: rest →
          exec (.elemWin pos slot) s = .next ((e.send (e.take s 0) 4 x).setElem { e' with out := rest }))) ∧
      (∀ t, s.elem? pos slot .win = some e → e.peek s 1 = some t → e.j = 0 →
        exec (.elemWinFrame pos slot) s = .next ((e.take s 1).setElem { e with i := 0, j := 0, toks := [] })) ∧
      (∀ t, s.elem? pos slot .maxr = some e → e.peek s 0 = some t → t ≠ .null → e.sel = none → bits e.spec 35 24 = 0 → e.i = 0 →
        bits e.spec 39 36 ∈ [0, 1, 2, 5, 9, 11] → e.opens s 4 = true → (∀ x ∈ lanes (fmtWidth (bits e.spec 39 36)) t.vec, magnitude (bits e.spec 39 36) x ≠ none) →
        ∃ m, exec (.elemMaxr pos slot) s = .next ((e.send (e.take s 0) 4 (scalar (BitVec.ofNat 64 m))).setElem { e with i := 0, sel := none }) ∧
          (∀ x ∈ lanes (fmtWidth (bits e.spec 39 36)) t.vec, (magnitude (bits e.spec 39 36) x).getD 0 ≤ m) ∧
          (m = 0 ∨ ∃ x ∈ lanes (fmtWidth (bits e.spec 39 36)) t.vec, magnitude (bits e.spec 39 36) x = some m)) ∧
      (∀ t, s.elem? pos slot .dly = some e → e.toks = [] → e.peek s 0 = some t →
        exec (.elemDly pos slot) s = .next ((e.take s 0).setElem { e with toks := [t] })) ∧
      (∀ t rest, s.elem? pos slot .dly = some e → e.toks = t :: rest → e.opens s 4 = true → e.peek (e.send s 4 t) 0 = none →
        exec (.elemDly pos slot) s = .next ((e.send s 4 t).setElem { e with toks := rest })))

/-- A CVT element quantises the lanes of its token by the block's scale and, with EMIT at the block's end, sends the scale; XFM gathers its
group and sends it transposed, packed, unpacked, shuffled or expanded (R194, R195). That the rounding of the scale raises no flag, and that
a NaN lane raises none for an integer destination, is the model's choice: log 46. -/
def Obligations.ConvertersFire : Prop :=
  (∀ (s : State) (pos slot : Nat) (e : Elem) (t : Tok) (m : Nat), s.elem? pos slot .cvt = some e → e.saved = false → e.out = [] →
    e.sel = some m → m ≠ 2 ^ 80 → e.lanes = [] → e.peek s 0 = some t → t ≠ .null → bits e.spec 30 19 = e.i →
    (∃ g n x, readNum (bits e.spec 39 36) m = .fin g n x) → e.opens s 4 = true → e.opens s 5 = true →
    let src := bits e.spec 39 36
    let d := bits e.spec 35 32
    let zp := bits e.spec 17 10
    let scale := blockScale src d zp m
    let rs := (lanes (fmtWidth src) t.vec).map (cvtLane src d zp (bits e.spec 31 31 = 1) scale)
    let fill := if d = 6 ∨ d = 8 then zp else 0
    let val := vector (pack (fmtWidth d) (rs.map (·.1) ++ List.replicate (512 / fmtWidth d - rs.length) fill))
    let s1 := e.send (e.flags (e.take s 0) (rs.foldl (fun n r => n ||| r.2) 0)) 4 val
    exec (.elemCvt pos slot) s = .next (State.setElem
      (if bits e.spec 18 18 = 1 then e.send s1 5 (scalar (BitVec.ofNat 64 scale)) else s1) { e with lanes := [], i := 0, sel := none, j := 0 })) ∧
  (∀ (s : State) (pos slot : Nat) (e : Elem) (t : Tok), s.elem? pos slot .xfm = some e → e.saved = false → e.out = [] → e.peek s 0 = some t →
    t ≠ .null → e.opens s 4 = true → e.opens (e.take s 0) 4 = true →
    let op := bits e.spec 39 36
    let sends (vs : List Vec) : Prop := ∀ v rest, vs = v :: rest → exec (.elemXfm pos slot) s =
      .next ((e.send (e.take s 0) 4 (vector v)).setElem { e with toks := [], out := rest.map (fun v => (4, vector v)) })
    (op = 0 → e.toks.length + 1 < 8 → exec (.elemXfm pos slot) s = .next ((e.take s 0).setElem { e with toks := e.toks ++ [t] })) ∧
    (op = 0 → e.toks.length + 1 = 8 → sends (transposeGroup ((e.toks ++ [t]).map Tok.vec))) ∧
    (∀ a, op = 1 → e.toks = [a] → sends [packInt4 (bits e.spec 35 35 = 1) a.vec t.vec]) ∧
    (op = 2 → e.toks = [] → sends (unpackInt4 t.vec)) ∧
    (∀ p, op = 3 → e.toks = [] → e.peek s 1 = none → e.pat = some p → sends [shuffleBytes t.vec p.vec]) ∧
    (op = 4 → e.toks = [] → sends [expandMask t.word]))

/-- MEM elements that hold their region: a stream read takes its snapshot, every line at one timestamp (R248), with its start token, sends
its lines and, after the last, its
end; a stream write and a random store write a line, a random load sends one, an ordered update applies its operation lane by lane; a
marked token passes the region on, after every earlier store, and a token on input 3 gives it; a write stands in T after what the
configuration follows (R196, R197, R228 to R231, R252, R253). -/
def Obligations.MemElementsFire : Prop :=
  ∀ (s : State) (pos slot : Nat) (e : Elem), s.elem? pos slot .mem = some e → e.saved = false → e.out = [] →
    let mode := bits e.spec 39 38
    let ends : List (Nat × Tok) := (5, scalar 0) :: (if e.passes7 s then [(7, scalar 0)] else [])
    (e.own = false → ∀ t, e.peek s 3 = some t → exec (.memRegionReceive pos slot) s = .next ((e.take s 3).setElem { e with own := true })) ∧
    (e.own = true →
      (mode = 0 → bits e.spec 37 37 = 0 → e.draining s = false →
        (∀ v rest, e.inner = true → e.snap = v :: rest → e.opens s 4 = true → exec (.memStreamReadPass pos slot) s =
          .next ((e.send s 4 (vector v)).setElem { e with snap := rest, i := if e.i + 1 = e.len / 64 then 0 else e.i + 1
                                                          inner := !decide (e.i + 1 = e.len / 64)
                                                          out := if e.i + 1 = e.len / 64 then ends else [] })) ∧
        (∀ s1 vs, e.inner = false → 0 < e.passes → e.len / 64 ≠ 0 →
          ({ e with passes := e.passes - 1 } : Elem).snapshot s (e.len / 64) 0 = .inr (s1, vs) →
          exec (.memStreamReadPass pos slot) s =
            .next (s1.setElem { e with passes := e.passes - 1, inner := true, i := 0, snap := vs })) ∧
        (∀ t s1 vs, e.inner = false → e.passes = 0 → e.len / 64 ≠ 0 → e.peek s 0 = some t → t ≠ .null →
          e.snapshot s (e.len / 64) 0 = .inr (s1, vs) →
          exec (.memStreamReadPass pos slot) s = .next (e.take (s1.setElem { e with inner := true, i := 0, snap := vs }) 0))) ∧
      (mode = 0 → bits e.spec 37 37 = 1 → ∀ t s1 e1, e.peek s 0 = some t → t ≠ .null → (e.len ≤ 64 * (e.i + 1) → e.opens s 5 = true) →
        e.storeLine s (64 * e.i) t.vec = .inr (s1, e1) →
        ∃ out, exec (.memStreamWrite pos slot) s = .next ((e1.take s1 0).setElem
          { e1 with i := if e1.len ≤ 64 * (e1.i + 1) then 0 else e1.i + 1, out := out }) ∧
          (out = [] ↔ 64 * (e1.i + 1) < e1.len)) ∧
      (mode = 1 → ∀ t s1 v, e.peek s 0 = some t → t ≠ .null → t.word.toNat < 2 ^ 63 → e.opens s 4 = true →
        e.storeFirst s = false → e.loadLine s t.word.toNat = .inr (s1, v) → exec (.memRandomLoad pos slot) s = .next (e.send (e.take s1 0) 4 (vector v))) ∧
      (mode = 1 → ∀ o d s1 e1, e.peek s 1 = some o → e.peek s 2 = some d → o ≠ .null → d ≠ .null → e.loadFirst s = false →
        e.storeLine s o.word.toNat d.vec = .inr (s1, e1) →
        exec (.memRandomStore pos slot) s = .next ((e1.take (e1.take s1 1) 2).setElem e1)) ∧
      (mode = 2 → ∀ o d s1 v s2 e2, e.peek s 0 = some o → e.peek s 1 = some d → o ≠ .null → d ≠ .null → o.word.toNat < 2 ^ 63 →
        e.loadLine s o.word.toNat = .inr (s1, v) →
        let w := if bits e.spec 13 13 = 1 then 64 else 32
        let rs := (List.range (512 / w)).map (fun i => atomicOp (bits e.spec 17 14) w (lane w v i) (lane w d.vec i))
        e.storeLine s1 o.word.toNat (pack w (rs.map (·.1))) = .inr (s2, e2) →
        exec (.memOrderedUpdate pos slot) s =
          .next ((e2.take (e2.take (e2.flags s2 (rs.foldl (fun n r => n ||| r.2) 0)) 0) 1).setElem e2)) ∧
      (mode ≠ 0 → ∀ t, e.peek s 0 = some t → t ≠ .null → 2 ^ 63 ≤ t.word.toNat → (mode = 1 → e.storeFirst s = false) →
        e.passes7 s = true → e.buf = [] → e.opens s 7 = true → exec (.memHandover pos slot) s = .next ((e.send (e.take s 0) 7 (scalar 0)).setElem { e with own := false })) ∧
      (∀ s1 ks n m, e.invariant s = false → e.snapKeys s n m [] = .inr (s1, ks) → s1.plainL2 →
        (∀ k ∈ ks, (∀ p ∈ s1.mem.partials, p.line ≠ lineOf k) ∧ ∀ x ∈ s1.mem.sealed, x.1 = lineOf k → x.2 = s1.keyOf (s1.confWho e.cid)) →
        ∃ s2, e.snapshot s n m = .inr (s2, ks.map (fun k => s1.readVec k)) ∧ s2.mem.bytes = s1.mem.bytes) ∧
      (∀ off v s1 k, e.access s off true = .ok s1 k → e.coal = false →
        e.storeLine s off v = .inr (lineStore s1 e.cid k v, e) ∧
        (regionOf k ≠ 2 → s1.confPts e.cid ≤ ((lineStore s1 e.cid k v).line (lineOf k)).wts) ∧
        (s1.memWf → s1.plainL2 → (∀ p ∈ s1.mem.partials, p.line ≠ lineOf k) → (∀ x ∈ s1.mem.sealed, x.1 = lineOf k → x.2 = s1.keyOf (s1.confWho e.cid)) → ∀ a,
          readByte (lineStore s1 e.cid k v).mem.bytes a = if k ≤ a ∧ a < k + 64 then BitVec.ofNat 8 (v.toNat / 2 ^ (8 * (a - k)))
            else readByte s1.mem.bytes a)))

/-! ### Matrix tiles and address generators -/

/-- Commands that move tiles (R66, R263 to R272, R280 to R283): a reserved value ends the tile's work; MCLM claims free slots, zeroed,
and MREL releases claimed ones; MLDP, MLDT and MSTT fill and store rows, and an access that is refused changes no memory; MGAT packs the
rows of a CSR block and gathers the rows of B that their columns name, from its cursor on; MDRN converts a row at its first token and
sends it token by token, each token's cells cleared when KEEP is 0; MTRN transposes a block of one slot of 8-bit or of two of 16-bit elements, and
leaves every other slot. A finished command sends its completion token. That
one activity is one step, MGAT's effect coming with the last and MDRN's a token an activity, is the model's reading of R284: log 37. -/
def Obligations.MatrixMovesTiles : Prop :=
  ∀ (s : State) (x : MCmd) (t : Tile) (c : Conf) (r : Running), tileSite s = some (t, c, r) →
    let ends (i : Instr) (s' : State) (t' : Tile) (res : Nat) : Prop := exec i s = .next (sendDone s'
      { t' with run := none, seqn := (t'.seqn + 1) % 2 ^ 16 } (doneWord (r.word.toNat / 2 ^ 58) ((t'.seqn + 1) % 2 ^ 16) res))
    let goes (i : Instr) (s' : State) (t' : Tile) (r' : Running) : Prop := exec i s = .next (s'.setTile { t' with run := some r' })
    (∀ i ∈ [Instr.mma x, .mmai x, .mgv x, .mgat x, .msca x, .mdrn x, .mstt x, .mldt x, .mldp x, .mclm x, .mrel x, .mzro x, .mtrn x],
      cmdReserved i = true → exec i s = .next (tileFault s t 0x01 7 0 r.word)) ∧
    (∀ w, exec (.matrixReservedCommand w) s = .next (tileFault s t 0x01 7 0 r.word)) ∧
    (cmdReserved (.mclm x) = false → x.spec 25 20 = 1 →
      (t.has x.aslot.toNat = false → ends (.mclm x) (s.zero (slotKey t.pos x.aslot.toNat 0) 4096)
        { t with claimed := t.claimed + 2 ^ x.aslot.toNat, badRows := t.badRows.filter (fun y => y / 64 ≠ x.aslot.toNat) } 0) ∧
      (t.has x.aslot.toNat = true → exec (.mclm x) s = .next (tileFault s t 0x19 2 0 r.word))) ∧
    (cmdReserved (.mrel x) = false → x.spec 25 20 = 1 →
      (t.has x.aslot.toNat = true → ends (.mrel x) s { t with claimed := t.claimed - 2 ^ x.aslot.toNat } 0) ∧
      (t.has x.aslot.toNat = false → exec (.mrel x) s = .next (tileFault s t 0x19 3 0 r.word))) ∧
    (∀ tok s1, cmdReserved (.mldp x) = false → t.slotFault [x.aslot.toNat + r.step % x.c] [] = none →
      tileTake s t.pos (1 + x.spec 0 0) = some (tok, s1) →
      let w := putRow s1 t (x.aslot.toNat + r.step % x.c) (r.step / x.c) tok.vec tok.poisoned
      (r.step + 1 < x.m * x.c → goes (.mldp x) w.1 w.2 { r with step := r.step + 1 }) ∧
      (x.m * x.c ≤ r.step + 1 → ends (.mldp x) w.1 w.2 0)) ∧
    (cmdReserved (.mldt x) = false → t.slotFault ((List.range x.c).map (fun q => x.aslot.toNat + q)) [] = none →
      (∀ tok s1, r.addr = none → tileTake s t.pos 6 = some (tok, s1) → addrFault tok.word = none →
        goes (.mldt x) s1 t { r with addr := some tok.word }) ∧
      (∀ a, r.addr = some a → r.step < x.m → goes (.mldt x) s t { r with step := r.step + 1 }) ∧
      (∀ a s1 ks, r.addr = some a → x.m ≤ r.step → (tileAddrs a.toNat x.pitch x.m (64 * x.c)).find? (standsOutside s c.pad c.ten) = none →
        tileLines c t.pos false (tileAddrs a.toNat x.pitch x.m (64 * x.c)) s [] = .ok s1 ks →
        let q := readTile s1 c.who t.pts (ks.map (fun k => (k, 64)))
        let vs := (chunk 64 ks.length q.2.1).map (fun b => BitVec.ofNat 512 (ofBytes b))
        let w := fillRows x.aslot.toNat x.c 0 (vs.zip (ks.map (fun k => q.1.poisoned k 64))) q.1 { t with pts := q.2.2 }
        ends (.mldt x) w.1 w.2 0 ∧ t.pts ≤ q.2.2 ∧
        (s1.plainL2 → (∀ k ∈ ks, ∀ p ∈ s1.mem.partials, p.line ≠ lineOf k) → (∀ k ∈ ks, ∀ y ∈ s1.mem.sealed, y.1 = lineOf k → y.2 = s1.keyOf c.who) →
          q.2.1 = ks.flatMap (fun k => readBytes s1.mem.bytes k 64)))) ∧
    (cmdReserved (.mstt x) = false →
      (∀ a, r.addr = some a → r.step < x.m → t.badCells = [] →
        let rs := (cellRow s t x.acc.toNat r.step x.n).map (storeCell x.f)
        goes (.mstt x) (tileFlags s t (rs.foldl (fun n q => n ||| q.2) 0)) t
          { r with step := r.step + 1, tokens := r.tokens ++ rowTokens (fmtWidth x.f) (rs.map (·.1)) }) ∧
      (∀ a s1 ks, r.addr = some a → r.step = x.m → (tileAddrs a.toNat x.pitch x.m x.rowBytes).find? (standsOutside s c.pad c.ten) = none →
        tileLines c t.pos true (tileAddrs a.toNat x.pitch x.m x.rowBytes) s [] = .ok s1 ks →
        let q := storeLines s1 c.who ks r.tokens t.pts
        goes (.mstt x) q.1 { t with pts := q.2 } { r with step := r.step + 1, tokens := [], lag := lagOf s1 0 (ks.map lineOf) }) ∧
      (∀ a b, r.addr = some a → r.step = x.m → (tileAddrs a.toNat x.pitch x.m x.rowBytes).find? (standsOutside s c.pad c.ten) = some b →
        exec (.mstt x) s = .next (tileFault s t 0x12 10 (BitVec.ofNat 64 b) r.word)) ∧
      (∀ a s1 cd sub b, r.addr = some a → r.step = x.m →
        (tileAddrs a.toNat x.pitch x.m x.rowBytes).find? (standsOutside s c.pad c.ten) = none →
        tileLines c t.pos true (tileAddrs a.toNat x.pitch x.m x.rowBytes) s [] = .bad s1 cd sub b →
        exec (.mstt x) s = .next (tileFault s t cd sub (BitVec.ofNat 64 b) r.word)) ∧
      (∀ a, r.addr = some a → x.m < r.step → lagging s r.lag = false → ends (.mstt x) s t 0)) ∧
    (cmdReserved (.mgat x) = false →
      (r.step + 1 < x.m + x.n → goes (.mgat x) s t { r with step := r.step + 1 }) ∧
      (x.m + x.n ≤ r.step + 1 → t.slotFault [x.aslot.toNat] (slotRows x.aslot.toNat 64) = none →
        let rp := csrPtr s t x.aslot.toNat
        let col (e : Nat) : Nat := (csrEntry s t x.aslot.toNat e).1
        let val (e : Nat) : Nat := (csrEntry s t x.aslot.toNat e).2
        rp 0 = 0 → (∀ i, i < x.m → rp i ≤ rp (i + 1)) → rp x.m ≤ 960 → (∀ e, e < rp x.m → x.bslot.toNat + col e / 64 ≤ 31) →
        (∀ i e, i < x.m → rp i ≤ e → e + 1 < rp (i + 1) → col e < col (e + 1)) →
        ∀ D : List Nat, D.Pairwise (· < ·) → (∀ k, k ∈ D ↔ x.spec 15 0 ≤ k ∧ ∃ e, e < rp x.m ∧ col e = k) →
        let d := D.take 32
        t.slotFault ([x.spec 25 21, x.spec 20 16] ++ d.map (fun k => x.bslot.toNat + k / 64)) (d.map (fun k => (x.bslot.toNat + k / 64, k % 64))) = none →
        ∃ s' t', ends (.mgat x) s' t' (if 32 < D.length then D.getD 31 0 + 1 else 2 ^ 32 - 1) ∧ (s.memWf →
          (∀ i, i < 64 → x.n ≤ i → slotRow s' t' (x.spec 20 16) i = 0) ∧
          (∀ i j, i < x.n → j < 32 → lane 16 (slotRow s' t' (x.spec 20 16) i) j =
            match d[j]? with | some k => lane 16 (slotRow s t (x.bslot.toNat + k / 64) (k % 64)) i | none => 0) ∧
          (x.spec 25 21 ≠ x.spec 20 16 →
            (∀ i, i < 64 → x.m ≤ i → slotRow s' t' (x.spec 25 21) i = 0) ∧
            (∀ i j e, i < x.m → j < 32 → rp i ≤ e → e < rp (i + 1) → d[j]? = some (col e) →
              lane 16 (slotRow s' t' (x.spec 25 21) i) j = val e) ∧
            (∀ i j, i < x.m → j < 32 → (∀ e, rp i ≤ e → e < rp (i + 1) → d[j]? ≠ some (col e)) →
              lane 16 (slotRow s' t' (x.spec 25 21) i) j = 0))))) ∧
    (cmdReserved (.mdrn x) = false →
      (∀ tok s1, r.step = 0 → tileTake s t.pos 4 = some (tok, s1) → goes (.mdrn x) s1 t { r with step := 1, entry := tok.word.toNat % 8 }) ∧
      (∀ v rest s1 n, r.step ≠ 0 → t.badCells = [] →
        let rs := (cellRow s t x.acc.toNat r.row x.n).map (drainCell x.f (x.spec 25 10) (x.spec 9 9 = 1))
        (if r.tokens = [] then rowTokens (fmtWidth x.f) (rs.map (·.1)) else r.tokens) = v :: rest →
        sendOn s (tilePort t.pos (8 + r.entry)) (vector v) = some (s1, n) →
        ∃ s' t',
          (rest ≠ [] → goes (.mdrn x) s' t' { r with tokens := rest, byte := r.byte + 1 }) ∧
          (rest = [] → r.row + 1 < x.m → goes (.mdrn x) s' t' { r with tokens := [], byte := 0, row := r.row + 1 }) ∧
          (rest = [] → x.m ≤ r.row + 1 → ends (.mdrn x) s' t' 0) ∧
          (x.a = 1 → t' = t ∧ s' = tileFlags s1 t (if r.tokens = [] then rs.foldl (fun n q => n ||| q.2) 0 else 0)) ∧
          (x.a ≠ 1 → s.memWf → ∀ j, j < x.n → s'.read (cellKey t.pos x.acc.toNat r.row j) 4 =
            if j / (512 / fmtWidth x.f) = r.byte then 0 else s.read (cellKey t.pos x.acc.toNat r.row j) 4))) ∧
    (cmdReserved (.mtrn x) = false → s.memWf →
      let w := fmtWidth x.f
      let per := 512 / w
      let run (slot : Nat) : List Nat := (List.range (64 / per)).map (fun k => slot + k)
      t.slotFault (run x.aslot.toNat ++ run x.bslot.toNat) ((run x.aslot.toNat).flatMap (fun k => slotRows k 64)) = none →
      (w = 8 ∨ w = 16) ∧ ∃ s' t', ends (.mtrn x) s' t' 0 ∧
        (∀ i k, i < 64 → k < 64 → lane w (slotRow s' t (x.bslot.toNat + k / per) i) (k % per) =
          lane w (slotRow s t (x.aslot.toNat + i / per) k) (i % per)) ∧
        ∀ n i, n < 32 → i < 64 → n ∉ run x.bslot.toNat → slotRow s' t n i = slotRow s t n i)

/-- Commands that compute (R264, R273 to R279): with the slots they read claimed and nothing that they read poisoned, MZRO clears cells,
MMA and MMAI add one chunk's products, MSCA one scaled accumulator and MGV one group to their m × n cells (one row for a group), and no other
cell of the accumulator and no other byte of memory changes; the last step of a command sends its completion token. The INT8 product is exact
modulo 2^32. That one activity is one step of a command, and that a group that MGV has begun takes what came before a marker on its port, is
the model's reading of R284: log 37. -/
def Obligations.MatrixComputesItsCells : Prop :=
  (∀ (s : State) (x : MCmd) (t : Tile) (c : Conf) (r : Running), tileSite s = some (t, c, r) → s.memWf →
    let ended (s' : State) (t' : Tile) : State := sendDone s' { t' with run := none, seqn := (t'.seqn + 1) % 2 ^ 16 }
      (doneWord (r.word.toNat / 2 ^ 58) ((t'.seqn + 1) % 2 ^ 16) 0)
    let goesOn (s' : State) (t' : Tile) (r' : Running) : State := s'.setTile { t' with run := some r' }
    let cell (s' : State) (i j : Nat) : Nat := s'.read (cellKey t.pos x.acc.toNat i j) 4
    let keeps (s' : State) (rows : Nat → Prop) : Prop := (∀ a, a < cellKey t.pos x.acc.toNat 0 0 ∨ cellKey t.pos x.acc.toNat 0 0 + 2 ^ 14 ≤ a →
      readByte s'.mem.bytes a = readByte s.mem.bytes a) ∧
      ∀ i j, i < 64 → j < 64 → ¬(rows i ∧ j < x.n) → cell s' i j = cell s i j
    let all (i : Nat) : Prop := i < x.m
    let first := r.step = 0 ∧ x.a = 0
    (cmdReserved (.mzro x) = false → ∃ s' t', exec (.mzro x) s = .next (ended s' t') ∧ keeps (ended s' t') all ∧
      ∀ i j, i < x.m → j < x.n → cell (ended s' t') i j = 0) ∧
    (cmdReserved (.mma x) = false → (first ∨ t.badCell x.acc.toNat x.m x.n = false) →
      let sa := x.aslot.toNat + r.step
      let sb := x.bslot.toNat + r.step
      t.slotFault [sa, sb] (slotRows sa x.m ++ slotRows sb x.n) = none →
      let b := (List.range x.n).map (slotRow s t sb)
      let w := productStep s t x.acc.toNat x.m x.n (fun i old => productRow x.f first (slotRow s t sa i) b old)
      let s' := if r.step + 1 < x.c then goesOn w.1 w.2 { r with step := r.step + 1 } else ended w.1 w.2
      exec (.mma x) s = .next s' ∧ keeps s' all) ∧
    (cmdReserved (.mmai x) = false → (first ∨ t.badCell x.acc.toNat x.m x.n = false) →
      let q := x.lo / x.pa + r.step
      let ps := ((List.range (x.hi + 1 - x.lo)).map (fun k => x.lo + k)).filter (fun p => p / x.pa = q)
      let used := (ps.map (fun p => x.bslot.toNat + p / x.pb)).eraseDups ++ (if x.f = 6 ∨ x.f = 8 then [x.spec 20 16] else [])
      t.slotFault ((x.aslot.toNat + q) :: used) (slotRows (x.aslot.toNat + q) x.m ++ used.flatMap (fun z => slotRows z x.n)) = none →
      let fa := if x.spec 25 25 = 1 then 7 else 5
      let av (i p : Nat) : Int := readInt fa (lane (fmtWidth fa) (slotRow s t (x.aslot.toNat + q) i) (p % x.pa))
      let bv (j p : Nat) : Int := readInt x.f (lane (fmtWidth x.f) (slotRow s t (x.bslot.toNat + p / x.pb) j) (p % x.pb))
      ∃ w t',
        let s' := if q < x.hi / x.pa then goesOn w t' { r with step := r.step + 1 } else ended w t'
        exec (.mmai x) s = .next s' ∧ keeps s' all ∧ ∀ i j, i < x.m → j < x.n →
          cell s' i j = wrap 32 ((ps.map (fun p => av i p * (bv j p - zeroPoint s t x j))).sum + if first then 0 else (cell s i j : Int))) ∧
    (cmdReserved (.msca x) = false → t.slotFault [x.bslot.toNat] (slotRows x.bslot.toNat x.n) = none →
      t.badCell (x.spec 25 24) x.m x.n = false → (x.a = 1 → t.badCell x.acc.toNat x.m x.n = false) →
      ∃ s' t', exec (.msca x) s = .next (ended s' t') ∧ keeps (ended s' t') all ∧ ∀ i j, i < x.m → j < x.n →
        cell (ended s' t') i j = (scaleAcc (if x.a = 1 then cell s i j else 0) (sgn 32 (s.read (cellKey t.pos (x.spec 25 24) i j) 4))
          (lane 16 (slotRow s t x.bslot.toNat j) (x.spec 23 19))).1 % 2 ^ 32) ∧
    (cmdReserved (.mgv x) = false →
      let stream := (r.tokens.flatMap (lanes 8)).drop r.byte
      (∀ tok s1, readGroup (x.spec 25 15 + 1) r.step stream = .short →
        (if r.midGroup then takeToken s (tilePort t.pos 3) else tileTake s t.pos 3) = some (tok, s1) →
        exec (.mgv x) s = .next (goesOn s1 t (if tok = .null then r else { r with tokens := r.tokens ++ [tok.vec] }))) ∧
      (∀ v last ps len, readGroup (x.spec 25 15 + 1) r.step stream = .ok v last ps len → x.spec 14 9 + r.row < 64 →
        t.slotFault (ps.map (fun p => x.aslot.toNat + p / 64)) (ps.map (fun p => (x.aslot.toNat + p / 64, p % 64))) = none →
        (first ∨ ∀ y ∈ t.badCells, ¬(y / 64 = 64 * x.acc.toNat + (x.spec 14 9 + r.row) ∧ y % 64 < x.n)) →
        ∃ w t',
          let s' := if last = true ∧ x.m ≤ r.row + 1 then ended w t' else goesOn w t'
            { r with tokens := r.tokens.drop ((r.byte + len) / 64), byte := (r.byte + len) % 64
                     row := if last then r.row + 1 else r.row, step := if last then 0 else r.step + 1 }
          exec (.mgv x) s = .next s' ∧ keeps s' (fun i => i = x.spec 14 9 + r.row) ∧ ∀ j, j < x.n →
            cell s' (x.spec 14 9 + r.row) j = (groupLane x.f v
              (ps.map (fun p => lane 16 (slotRow s t (x.aslot.toNat + p / 64) (p % 64)) j)) (if first then 0 else cell s (x.spec 14 9 + r.row) j)).1 % 2 ^ 32))) ∧
  (∀ (first : Bool) (a : Vec) (b : List Vec) (old : List Nat) (j : Nat) (v : Vec) (o : Nat), b[j]? = some v → old[j]? = some o →
    (productRow 5 first a b old)[j]? = some (wrap 32 (((List.range 64).map (fun k => sgn 8 (lane 8 a k) * sgn 8 (lane 8 v k))).sum
      + if first then 0 else (o : Int)), 0))

/-- Words of stream programs (R67, R298 to R300): a word's operands are read when it is reached (the model's choice, log 35); AGSTRM
publishes a tile in a ring slot or sends its tokens on a port, AGSINK writes one and releases its slot or gathers it from a port (a null
token there is taken and writes nothing: no rule says so, log 55), AGCOPY and AGFILL write a tile; the program's timestamp rises with what
it reads and writes (R244, R253); AGLOOP counts down and jumps; AGWAIT consumes pulses; AGEND ends the program and its node; a bad word
stops it. -/
def Obligations.StreamProgramsRun : Prop :=
  ∀ (s : State) (g : AgProg), agSite s = some g →
    (∀ w, exec (.agUnallocatedWord w) s = .next (badWord s g)) ∧
    (∀ (n : BitVec 16) (v : BitVec 1) (ts : BitVec 32) (ops : List Word), g.ops = some ops →
      (ops.getD 0 0).toNat / 2 ^ 56 = 0 → shapeOperandBad (ops.getD 1 0) = false →
      let shape := ops.getD 1 0
      let bs := g.bases (ops.getD 0 0) 0
      let st := strideBytes ts
      let a := bs.1 + BitVec.ofNat 64 g.tile * st
      baseBad shape bs.1 = false →
      (∀ r s1 ks, agRing s shape (ops.getD 2 0) = .ok r → ringInside s g r = true → r.bind = .none ∨ r.bind = .stream g.id →
        r.room = true →
        g.tileKeys (s.setRing { r with bind := .stream g.id }) shape a false = (some ks, s1) →
        let q := readShaped s1 g.who (max g.pts r.back) (tileShaped shape) ks
        exec (.agstrm 0 n v ts) s = .next (((q.1.write (r.slotKey r.w) q.2.1).setRing
          { r with bind := .stream g.id, w := r.w + 1, pts := max r.pts q.2.2 }).setProg
          (AgProg.nextTile { g with pts := q.2.2 } 3 n.toNat (v = 1) bs st 0))) ∧
      (∀ r, agRing s shape (ops.getD 2 0) = .ok r → ringInside s g r = true → r.c < r.w →
        s.poisoned (r.slotKey r.c) (shpRows shape * shpBytes shape) = true →
        exec (.agsink 0 n v ts) s = .next (stopProgram s g 0x16 4 (0xFE * 2 ^ 56 + r.base + r.c % r.slots * r.size))) ∧
      (∀ r s1 ks, agRing s shape (ops.getD 2 0) = .ok r → ringInside s g r = true → r.c < r.w →
        s.poisoned (r.slotKey r.c) (shpRows shape * shpBytes shape) = false → g.tileKeys s shape a true = (some ks, s1) →
        let q := writeShaped s1 g.who (max g.pts r.pts) (tileShaped shape) ks (readBytes s1.mem.bytes (r.slotKey r.c) (shpRows shape * shpBytes shape))
        exec (.agsink 0 n v ts) s = .next ((q.1.setRing { r with c := r.c + 1, r := r.r + 1, back := max r.back q.2 }).setProg
          ((agLag q.1 { g with pts := q.2 } ks).nextTile 3 n.toNat (v = 1) bs st 0))) ∧
      (∀ s1 ks, g.tileKeys s shape a true = (some ks, s1) →
        let q := writeShaped s1 g.who g.pts (tileShaped shape) ks ((List.range (shpRows shape * shpBytes shape)).map (fun i =>
          BitVec.ofNat 8 ((ops.getD 2 0).toNat / 2 ^ (8 * (i % 8)))))
        exec (.agfill n v ts) s = .next (q.1.setProg ((agLag q.1 { g with pts := q.2 } ks).nextTile 3 n.toNat (v = 1) bs st 0))) ∧
      (∀ x rest s1 k, x :: rest = g.left → (ops.getD 2 0).toNat < 8 → g.outputOk s (ops.getD 2 0).toNat = true →
        (s.outLinks (g.ep (ops.getD 2 0).toNat)).all (linkOpen s) = true → sendOn s (g.ep (ops.getD 2 0).toNat) (vector x) = some (s1, k) →
        exec (.agstrm 1 n v ts) s = .next (s1.setProg (if rest.isEmpty then g.nextTile 3 n.toNat (v = 1) bs st 0 else { g with left := rest }))) ∧
      (∀ tok s1, 8 ≤ (ops.getD 2 0).toNat → (ops.getD 2 0).toNat < 16 → g.inputOk s (ops.getD 2 0).toNat = true →
        g.left.length < tokensOf shape → takeToken s (g.ep (ops.getD 2 0).toNat) = some (tok, s1) →
        (tok.isNull = true → exec (.agsink 1 n v ts) s = .next s1) ∧
        (tok.isNull = false → g.left.length + 1 < tokensOf shape →
          exec (.agsink 1 n v ts) s = .next (s1.setProg { g with left := g.left ++ [tok.vec] })))) ∧
    (∀ (n : BitVec 16) (v : BitVec 1) (ops : List Word) (s1 s2 : State) (src dst : List (Nat × Nat)), g.ops = some ops →
      let shape := ops.getD 2 0
      let bs := g.bases (ops.getD 0 0) (ops.getD 1 0)
      let sa := strideBytes ((ops.getD 3 0).truncate 32)
      let sb := strideBytes (((ops.getD 3 0) >>> 32).truncate 32)
      (ops.getD 0 0).toNat / 2 ^ 56 = 0 → (ops.getD 1 0).toNat / 2 ^ 56 = 0 → shapeOperandBad shape = false → baseBad shape bs.1 = false →
      baseBad shape bs.2 = false → g.tileKeys s shape (bs.1 + BitVec.ofNat 64 g.tile * sa) false = (some src, s1) →
      g.tileKeys s1 shape (bs.2 + BitVec.ofNat 64 g.tile * sb) true = (some dst, s2) →
      let q := readShaped s2 g.who g.pts (tileShaped shape) src
      let w := writeShaped q.1 g.who q.2.2 (tileShaped shape) dst q.2.1
      exec (.agcopy n v) s = .next (w.1.setProg ((agLag w.1 { g with pts := w.2 } dst).nextTile 4 n.toNat (v = 1) bs sa sb))) ∧
    (∀ (l : BitVec 2) (n back : BitVec 16), g.ops = some [] →
      let jump (c : Nat) : AgProg :=
        { g with loops := g.loops.set! l.toNat (some c), pc := g.pc - BitVec.ofNat 64 (8 * back.toNat), word := none, ops := none }
      (g.loops.toList.getD l.toNat none = none → exec (.agloop l n back) s = .next (s.setProg (jump (n.toNat - 1)))) ∧
      (∀ c, g.loops.toList.getD l.toNat none = some (c + 1) → exec (.agloop l n back) s = .next (s.setProg (jump c))) ∧
      (g.loops.toList.getD l.toNat none = some 0 → exec (.agloop l n back) s =
        .next (s.setProg (AgProg.past { g with loops := g.loops.set! l.toNat none } 0)))) ∧
    (∀ (k : BitVec 16) (p : BitVec 3) (q : Input), g.ops = some [] → g.inputOk s (16 + p.toNat) = true →
      s.input? (g.ep (16 + p.toNat)) = some q →
      (k.toNat ≤ g.pulses + min q.pulses (k.toNat - g.pulses) → exec (.agwait k p) s =
        .next ((s.mapInput (g.ep (16 + p.toNat)) (fun i => { i with pulses := i.pulses - min q.pulses (k.toNat - g.pulses) })).setProg (g.past 0))) ∧
      (g.pulses + q.pulses < k.toNat → exec (.agwait k p) s =
        .next ((s.mapInput (g.ep (16 + p.toNat)) (fun i => { i with pulses := i.pulses - q.pulses })).setProg { g with pulses := g.pulses + q.pulses }))) ∧
    (g.ops = some [] → lagging s g.lag = false → ∃ s1, exec .agend s = .next (finishNode (raiseNode s1 g.launch g.node g.pts) g.launch g.node) ∧
      (∀ y, y ∈ s1.eng.progs ↔ y ∈ s.eng.progs ∧ y.id ≠ g.id) ∧ s1.mem = s.mem ∧ s1.drv = s.drv) ∧
    (∀ (l : BitVec 2) (n back : BitVec 16), g.ops = none → g.loops.toList.getD l.toNat none = some 0 → exec (.agloop l n back) s =
      .next ((s.setProg { g with ops := some [], tile := 0, left := [], pulses := 0 }).setProg
        (AgProg.past { g with loops := g.loops.set! l.toNat none } 0)))

/-! ### The Drover -/

/-- Launching (R68, R111, R302, R303, R378): GLAUNCH, with the earlier operations performed, sends 0 or the negative code of its
validation, the mailbox launches that have arrived taken first; LGO leaves tag and code in LSTAT, at once or, behind posted writes, when
they are performed, or, behind a GLAUNCH of its cycle, in the next cycle, and is ignored before READY; a refused launch changes nothing but
PDROP, by the reads that a hurdle dropped (R370). The accesses of a launched graph follow those of the task that issued it (R252). In an
accepted graph every successor is a later node, a node's count of predecessors is that of the records naming it, and the nodes without one stand in the pool. -/
def Obligations.GraphsLaunch : Prop :=
  (∀ (t u : BitVec 9) (s : State) (k : Task) (f f' : Frame) (idx : Nat) (x : Ins), waiting? s = none → Fires s (.glaunch t u) k f idx x →
    performedUpto s (k.count 1) s.ctl.ids = true →
    let s' := takeMailboxes s
    let r := launch { s' with drv := { s'.drv with launchedAt := some s'.ctl.now } } k.part.toNat k.ten.toNat x.wa x.wb 0 k.ctx (s'.basePts k)
    Frame.putAll (f.fired idx x) idx (scalar (BitVec.ofInt 64 r.2)) [t, u] = .ok f' → exec (.glaunch t u) s = .next (left r.1 k f')) ∧
  (∀ (s : State) (p t : Nat) (tag : BitVec 32),
    let v := s.tenant p t
    (s.hub.ready = true → v.enabled = true → v.goes = [] → mailboxWaits s p t = false → glaunched s = false →
      let r := launch s p t v.lgraph v.largs tag.toNat (.host p t) 0
      exec (.lgo p t tag) s = .next (r.1.mapTenant p t (fun v => { v with lstat := tag ++ BitVec.ofInt 32 r.2 }))) ∧
    (s.hub.ready = true → v.enabled = true → v.goes ≠ [] ∨ mailboxWaits s p t = true ∨ glaunched s = true →
      exec (.lgo p t tag) s = .next (s.mapTenant p t (fun v => { v with goes := v.goes ++ [(v.lgraph, v.largs, tag)] }))) ∧
    (s.hub.ready = false ∨ v.enabled = false → exec (.lgo p t tag) s = .next s) ∧
    (∀ g rest, v.goes = g :: rest → mailboxWaits s p t = false → glaunched s = false →
      let r := launch (s.mapTenant p t (fun v => { v with goes := rest })) p t g.1 g.2.1 g.2.2.toNat (.host p t) 0
      mailboxStep s p t = r.1.mapTenant p t (fun v => { v with lstat := g.2.2 ++ BitVec.ofInt 32 r.2 }))) ∧
  (∀ (s : State) (p t tag pts : Nat) (graph args : Word) (ctx : Ctx),
    let v := s.tenant p t
    let r := launch s p t graph args tag ctx pts
    (v.tdi = .stopping ∨ v.tdi = .stopped ∨ v.tdi = .error → r = (s, -6)) ∧
    (v.tdi ≠ .stopping → v.tdi ≠ .stopped → v.tdi ≠ .error → (s.pad? p).isSome →
      (256 ≤ (s.drv.launches.filter (fun l => l.pad = p)).length → r = (s, -3)) ∧
      ((s.drv.launches.filter (fun l => l.pad = p)).length < 256 → (graph.toNat % 64 ≠ 0 ∨ args.toNat % 64 ≠ 0) → r = (s, -5)) ∧
      (∀ e, validate s p t graph args = .error e → r = (if e = -2 then s.countDrops p (launchDrops s p t graph args) else s, e)) ∧
      (∀ nodes, validate s p t graph args = .ok nodes → r.2 = 0 ∧ r.1.mem = s.mem ∧ r.1.cores = s.cores ∧ r.1.fab = s.fab ∧
        ∃ l : Launch, r.1.drv.launches = s.drv.launches ++ [l] ∧ l.pad = p ∧ l.ten = t ∧ l.graph = graph ∧ l.args = args ∧ l.tag = tag ∧
          l.ctx = ctx ∧ l.failure = none ∧ l.nodes = nodes.map (fun n => { n with order := l.id, pts := pts })))) ∧
  (∀ (s : State) (p t : Nat) (graph args : Word) (nodes : List Node), validate s p t graph args = .ok nodes →
    nodes ≠ [] ∧ nodes.length ≤ 4096 ∧ ∀ i n, nodes[i]? = some n →
      (∀ k ∈ nodeSuccs n.record, i < k ∧ k < nodes.length) ∧ (nodeLast n.record = true ↔ i + 1 = nodes.length) ∧
      n.preds = (nodes.filter (fun q => (nodeSuccs q.record).contains i)).length ∧ n.st = (if n.preds = 0 then NodeSt.pool else .waiting))

/-- Dispatch (R158, R179, R180, R298, R301, R304 to R307): the first node of its kind goes when its unit is free: a KNODE into the lowest free
run of strips, a CNODE into a free place of its AG, an NNODE into its pseudo-channel, an HNODE into the queue, an ENODE at once, a release
arrival after the local events of its barrier (R205). A finished node releases its successors once, whose accesses follow its own (R253);
ageing raises a node's priority. That a finished node waits until its writes to declared ranges are performed is the model's reading of R253
(log 35); that an HNODE waits while anything written to host memory is not yet written back, by whichever task, is log 21; that an NNODE starts
with the registers its unit held before is log 50. -/
def Obligations.NodesDispatch : Prop :=
  ∀ (s : State) (l n : Nat) (la : Launch) (nd : Node), s.nodeAt l n = some (la, nd) →
    let t := s.tenant la.pad la.ten
    (∀ p ws, headOfKind s la nd n 1 = true → ckptFirst s la.pad (nd.prio s.ctl.now) = false → s.pad? la.pad = some p →
      imageAt s la.pad la.ten (nodeWord nd.record) = .ok (some ws) →
      let load : Load := { pad := la.pad, ten := la.ten, n := nodeStrips nd.record, args := la.args.toNat, cfg := nodeWord nd.record }
      (freeRun s p load.n ws = none → exec (.knodeDispatch l n) s = .next s) ∧
      (∀ first, freeRun s p load.n ws = some first →
        (p.first ≤ first ∧ first + load.n ≤ p.first + p.count ∧ ∀ i, i < load.n → freeStrip s (first + i) = true) ∧
        (∀ sub e, load.check s ws = some (sub, e) → ∃ k, exec (.knodeDispatch l n) s = .next (failNode (s.countDrops la.pad k) la n 0x28 sub e) ∧
          ((∀ va, (translate s la.pad la.ten none none va true false).2 ≠ .dropped) → k = 0)) ∧
        (load.check s ws = none →
          let a := freeIdent s la.pad
          let b := a.2.newId
          exec (.knodeDispatch l n) s = .next (setNode (placeConf (freshView b.2) p load la.id n b.1 a.1 first ws) la.id n .running)))) ∧
    (∀ p va s1, headOfKind s la nd n 1 = true → ckptFirst s la.pad (nd.prio s.ctl.now) = false → s.pad? la.pad = some p →
      imageAt s la.pad la.ten (nodeWord nd.record) = .error va → translate s la.pad la.ten none none va true false = (s1, .dropped) →
      exec (.knodeDispatch l n) s = .next (setNode (s1.countDrops la.pad 1) la.id n .running)) ∧
    (∀ p pos place, headOfKind s la nd n 2 = true → s.pad? la.pad = some p → nodeBind nd.record = 0xFFFF →
      agTile s la.pad la.ten p.first p.count nd.record = some pos → s.hub.dead.contains (dieOf pos) = false →
      (List.range 8).find? (fun k => !((s.eng.progs.filter (fun g => g.pos = pos)).map (·.place)).contains k) = some place →
      ∃ s' g, exec (.cnodeDispatch l n) s = .next (setNode s' la.id n .running) ∧ s'.eng.progs = s.eng.progs ++ [g] ∧ s'.mem = s.mem ∧
        s'.cores = s.cores ∧ s'.fab = s.fab ∧ s'.drv = s.drv ∧ g.pos = pos ∧ g.place = place ∧ g.launch = la.id ∧ g.node = n ∧ g.bind = none ∧
        g.pc = BitVec.ofNat 64 (nodeWord nd.record) ∧ g.start = g.pc ∧ g.word = none ∧ g.stopped = false ∧ g.pts = nd.pts) ∧
    (headOfKind s la nd n 2 = true → nodeBind nd.record ≠ 0xFFFF → (∀ c ∈ s.fab.confs, c.launch = la.id → c.node ≠ nodeBind nd.record) →
      exec (.cnodeDispatch l n) s = .next s) ∧
    (∀ p, headOfKind s la nd n 3 = true → s.pad? la.pad = some p →
      let m := nmRec nd.near
      let pch := 16 * p.first + m.pch
      (∀ u ∈ s.eng.units, u.pch ≠ pch) → channelDown s (offsetOf ((nd.key m.wpage).getD 0)) = false →
      ∃ s' u, exec (.nnodeDispatch l n) s = .next (setNode s' la.id n .running) ∧ u ∈ s'.eng.units ∧ u.pch = pch ∧ u.launch = la.id ∧
        u.node = n ∧ u.record = nd.near ∧ u.step = 0 ∧ u.cancelled = false ∧ u.suspended = false ∧ u.loaded = !m.laneOp ∧
        u.regs = (s.rowRegs pch).regs ∧ u.pts = nd.pts ∧ u.acc = List.replicate 16 (List.replicate 64 0) ∧
        (∀ r ∈ u.resultRows, ∃ e ∈ s'.mem.empties, e.unit_ = pch ∧ e.row = r ∧ e.full = false)) ∧
    (headOfKind s la nd n 4 = true → s.mem.hostOld = [] → t.notifyFull = false →
      (t.nqsize = 0 ∨ ∀ k ∈ s.drv.notes, ¬(k.pad = la.pad ∧ k.ten = la.ten)) →
      let vec := recField nd.record 0x18 2
      let s1 := writeNote s { pad := la.pad, ten := la.ten, graph := la.graph, value := BitVec.ofNat 64 (nodeWord nd.record), node := n
                              status := 0, tag := la.tag }
      exec (.hnodeNotify l n) s =
        .next (finishNode (if vec ≠ 0xFFFF ∧ t.nqsize ≠ 0 then s1.say (.vector la.pad la.ten vec) else s1) la.id n)) ∧
    (t.notifyFull = true ∨ s.mem.hostOld ≠ [] → exec (.hnodeNotify l n) s = .next s) ∧
    (headOfKind s la nd n 5 = true →
      (recField nd.record 0x18 1 = 0 → exec (.enode l n) s = .next (finishNode s la.id n)) ∧
      (recField nd.record 0x18 1 = 1 →
        let w := nodeWord nd.record
        (padPe s la.pad (w % 2 ^ 16) = false → exec (.enode l n) s = .next (failNode s la n 0x12 9 0)) ∧
        (padPe s la.pad (w % 2 ^ 16) = true → (∃ c ∈ s.fab.confs, within c.strip0 c.strips (w % 2 ^ 16) = true) →
          (localBarFirst s (w % 2 ^ 16) (bits w 22 16) = true → exec (.enode l n) s = .next s) ∧
          (localBarFirst s (w % 2 ^ 16) (bits w 22 16) = false → (s.bar (w % 2 ^ 16) (bits w 22 16)).rem = true →
            exec (.enode l n) s = .next (finishNode (remoteArrive s (w % 2 ^ 16) (bits w 22 16) nd.pts) la.id n))))) ∧
    (nd.st = .finished → lagging s nd.lag = false →
      ∃ g : Launch → Launch, exec (.nodeDone l n) s = .next (sweepLaunches (s.newId.2.mapLaunch la.id g)) ∧
        ∀ (y : Launch) (k : Nat) (x : Node), y.nodes[k]? = some x → (g y).nodes[k]? = some (
          if k = n then { x with st := .done }
          else if k ∈ nodeSuccs nd.record then
            (if x.preds - 1 = 0 ∧ x.st = .waiting then
               { x with preds := x.preds - 1, pts := max x.pts nd.pts, st := .pool, entered := s.ctl.now, order := s.ctl.ids }
             else { x with preds := x.preds - 1, pts := max x.pts nd.pts })
          else x)) ∧
    (nd.st ≠ .finished ∨ lagging s nd.lag = true → exec (.nodeDone l n) s = .next s) ∧
    (∀ p, s.pad? la.pad = some p → tenantActive p la.ten = true → nd.st = .pool → nodePri nd.record + nd.raises < 3 →
      (nd.entered + nd.paused + 1900000 * (nd.raises + 1) ≤ s.ctl.now → exec (.nodeAgeing l n) s =
        .next (s.mapLaunch la.id (fun y => y.mapNode n (fun x => { x with raises := x.raises + 1 })))) ∧
      (s.ctl.now < nd.entered + nd.paused + 1900000 * (nd.raises + 1) → exec (.nodeAgeing l n) s = .next s)) ∧
    (∀ (now : Nat) (x y : Node × Nat), x.1.prio now > y.1.prio now → Node.before now x y = true ∧ Node.before now y x = false) ∧
    (∀ (now k : Nat) (x : Node), x.entered + x.paused + 1900000 * k ≤ now → nodePri x.record + k ≤ 3 → nodePri x.record + k ≤ x.prio now)

/-- The end of a configuration (R180, R182, R183, R186, R305, R342): at rest, its buffers emptied and its writes performed, it leaves the
fabric with its flags handed on and its KNODE finished, whose successors follow the accesses of its tasks and tiles (R253); a token in an
input, or recorded at one in a drain, keeps it (R351). Nothing of it is left but the stores, atomics, REDs and merges that were accepted, which
are performed later (R214, R378). One that has not moved for 2^24 cycles without a held task
or a page to wait for raises WATCHDOG subcode 1. -/
def Obligations.ConfigurationsEnd : Prop :=
  ∀ (s : State) (c : Nat) (x : Conf), s.fab.confs[c]? = some x →
    (atRest s x = false → exec (.configComplete c) s = .next s) ∧
    (atRest s x = true → (∀ e ∈ s.fab.elems, e.cid = x.cid → e.buf = []) → writesPerformed s x = false →
      exec (.configComplete c) s = .next s) ∧
    (atRest s x = true → (∀ e ∈ s.fab.elems, e.cid = x.cid → e.buf = []) → writesPerformed s x = true →
      exec (.configComplete c) s =
        .next (finishNode (unplace (confFlags (s.confDid x.cid (s.confReach x)) x) x) x.launch x.node)) ∧
    ((∃ i ∈ s.fab.inputs, i.cid = x.cid ∧ (i.toks ≠ [] ∨ i.chan ≠ [])) → atRest s x = false) ∧
    (x.pts ≤ s.confReach x ∧ (∀ y ∈ s.cores.tasks, y.cid = x.cid → s.basePts y ≤ s.confReach x) ∧
      ∀ y ∈ s.eng.tiles, y.cid = x.cid → y.pts ≤ s.confReach x) ∧
    (let u := unplace s x
     (∀ y ∈ u.fab.confs, y.cid ≠ x.cid) ∧ (∀ y ∈ u.cores.tasks, y.cid ≠ x.cid) ∧ (∀ y ∈ u.fab.elems, y.cid ≠ x.cid) ∧
     (∀ y ∈ u.fab.links, y.cid ≠ x.cid) ∧ (∀ y ∈ u.fab.inputs, y.cid ≠ x.cid) ∧ (∀ y ∈ u.eng.tiles, y.cid ≠ x.cid) ∧
     (∀ k, freeStrip u k = true ↔ dieOfStrip k ∉ s.hub.dead ∧ ∀ y ∈ s.fab.confs, y.cid = x.cid ∨ k < y.strip0 ∨ y.strip0 + y.strips ≤ k) ∧
     (∀ z ∈ s.mem.retired, z ∈ u.mem.retired) ∧
     (∀ y ∈ s.cores.tasks, y.cid = x.cid → ∀ r ∈ y.queue ++ y.reds, isStoreOp r.ins = true ∨ isMergeOp r.ins = true → ∃ z ∈ u.mem.retired, z.req.id = r.id ∧
       z.req.ins = r.ins ∧ z.req.a = r.a ∧ z.req.b = r.b ∧ z.req.c = r.c ∧ z.req.got = r.got ∧ z.task.pos = y.pos ∧ z.task.slot = y.slot ∧
       z.req.keys = r.keys.map (fun k => match k with | some k => if regionOf k = 2 then none else some k | none => none)) ∧
     (∀ y ∈ s.cores.tasks, y.cid ≠ x.cid → y ∈ u.cores.tasks) ∧ u.drv = s.drv ∧ u.hub = s.hub ∧
     (s.memWf → ∀ a, regionOf a ≠ 2 → regionOf a ≠ 4 → regionOf a ≠ 5 → readByte u.mem.bytes a = readByte s.mem.bytes a)) ∧
    ((∀ k ∈ s.cores.tasks, k.cid = x.cid → k.st ≠ .faulted) → waitsOnPage s x = false → (atRest s x = false ∨ writesPerformed s x = false) →
      x.moved + 2 ^ 24 ≤ s.ctl.now → exec (.configWatchdog c) s = .next (confFault s x.cid { code := 0x38, sub := 1 })) ∧
    (s.ctl.now < x.moved + 2 ^ 24 ∨ waitsOnPage s x = true ∨ (∃ k ∈ s.cores.tasks, k.cid = x.cid ∧ k.st = .faulted) →
      exec (.configWatchdog c) s = .next s) ∧
    (∀ (k key : Nat) (z : Retired) (p d w : BitVec 2) (q : BitVec 5) (o : BitVec 16), s.mem.retired[k]? = some z → z.req.keys = [some key] →
      z.req.ins ∈ [Instr.stb q p d o, .sth q p d o, .stw q p d o, .std q p d o, .vst q p d o, .vsts q p d w, .vscat q p d] →
      (∀ y ∈ s.mem.retired.take k, ¬(y.task.cid = z.task.cid ∧ y.task.pos = z.task.pos ∧ y.task.slot = z.task.slot)) →
      movedTo s key = none → mayPass s key 0 z.req.id = true → liveHeader s key = false → (∀ p ∈ s.mem.partials, p.line ≠ lineOf key) →
      (∀ y ∈ s.mem.sealed, y.1 = lineOf key → y.2 = s.keyOf z.task.who) → s.plainL2 → s.memWf →
      let bs := storeBytes z.req.ins (z.req.b.getD .null) (z.req.c.getD .null) z.req.got.length
      ∃ s1 : State, runAct (.retire k) s = .next s1 ∧ s1.mem.retired = dropAt k s.mem.retired ∧
        ∀ a, readByte s1.mem.bytes a = if key ≤ a ∧ a < key + bs.length then bs.getD (a - key) 0 else readByte s.mem.bytes a)

/-! ### Near-memory nodes -/

/-- Row steps of a unit (R312 to R319, R321 to R323): the registers are loaded first, once every line of the vectors may be read; where the
lines read are not encrypted with another slot's key (R373), and where no L2 slice holds the row written, a fill zeroes its row, a clone and a buffered copy carry a row over, NMDOT keeps memory
until its result rows and NMAXPY writes the rows of its lanes only; a poisoned word that a step reads cancels the node; after the last
step the unit is free and its node finished. A clone carries each line's bits as they stand, with the key that encrypts them, and leaves
a row that it would copy onto itself (R317, R373). NMDOT, NMAXPY, NMFILL and NMCOPY run their node step by step. What a broadcast register
holds behind the end of its vector, which the spec does not give, is what it held before: log 50. -/
def Obligations.NearMemoryRuns : Prop :=
  ∀ (s : State) (u : Nat) (x : RowUnit), s.eng.units[u]? = some x →
    (∀ (j : Nat) (y : RowUnit), s.eng.units[j]? = some y → y.pch = x.pch → j = u) →
    let m := nmRec x.record
    let steps := x.steps (addressBound s x.pad)
    let clear (k : Nat) : Prop := ∀ c ∈ lineCuts 18 k 1024, ∀ y ∈ s.mem.l2, y.line ≠ lineOf c.1
    (x.mayStep s = true → exec (.nmRowStep u) s = .next (rowStep s x)) ∧
    (x.mayStep s = false → ∀ i ∈ [Instr.nmRowStep u, .nmdot u, .nmaxpy u, .nmfill u, .nmcopy u], exec i s = .next s) ∧
    (∀ i ∈ [(Instr.nmdot u, 1), (.nmaxpy u, 2), (.nmfill u, 3), (.nmcopy u, 4)], x.mayStep s = true → m.op = i.2 →
      exec i.1 s = .next (runUnit i.2 132 (rowStep s x) x.pch) ∧
      (x.loaded = true → steps.length ≤ x.step + 1 → exec i.1 s = .next (rowStep s x) ∧
        ((∃ y ∈ (rowStep s x).eng.units, y.pch = x.pch) → ∃ y ∈ (rowStep s x).eng.units, y.pch = x.pch ∧ y.cancelled = true))) ∧
    (x.loaded = false →
      let ks := m.lanes.flatMap (x.vector s)
      (∀ k, ks.find? (fun k => !mayPass s k.1 8 x.pch) = some k → rowStep s x = parkAt s k.1 8 x.pch) ∧
      ((∀ k ∈ ks, mayPass s k.1 8 x.pch = true) → (∃ k ∈ ks, s.poisoned k.1 k.2 = true) →
        rowStep s x = (ks.foldl (fun s k => unpark s k.1 8 x.pch) s).setUnit { x with loaded := true, cancelled := true }) ∧
      ((∀ k ∈ ks, mayPass s k.1 8 x.pch = true ∧ s.poisoned k.1 k.2 = false) → ∃ (s1 : State) (regs : List (List Byte)) (p : Nat),
        rowStep s x = s1.setUnit { x with loaded := true, regs := regs, pts := p } ∧ x.pts ≤ p ∧
        (s.plainL2 → (∀ k ∈ ks, ∀ p ∈ s.mem.partials, p.line ≠ lineOf k.1) →
          (∀ k ∈ ks, ∀ y ∈ s.mem.sealed, y.1 = lineOf k.1 → y.2 = s.keyOf x.who) →
          s1.eng = { s.eng with copies := s1.eng.copies } ∧ s1.mem.bytes = s.mem.bytes ∧
          ∀ b ∈ m.lanes, b < x.regs.length →
            let v := (x.vector s b).flatMap (fun k => readBytes s.mem.bytes k.1 k.2)
            regs.getD b [] = v ++ (x.regs.getD b []).drop v.length))) ∧
    (∀ st, x.loaded = true → steps[x.step]? = some st →
      ((∃ k ∈ st.reads x, s.poisoned k.1 k.2 = true) → rowStep s x = s.setUnit { x with cancelled := true }) ∧
      ((∀ k ∈ st.reads x, s.poisoned k.1 k.2 = false ∧ ∀ y ∈ s.mem.sealed, y.1 = lineOf k.1 → y.2 = s.keyOf x.who) → s.memWf → (x.step + 1 < steps.length ∨ s.mem.under = []) →
        let s' := rowStep s x
        (x.step + 1 < steps.length → ∃ y, s'.eng.units.find? (fun y => y.pch = x.pch) = some y ∧ y.step = x.step + 1 ∧ y.fresh = true ∧
          (∀ src, st = .bufRead src → y.buffer = dramBytes s (rowKey x.spage src) 1024) ∧
          (∀ bs k, st = .lanes bs k → m.op = 1 → bs.Nodup → ∀ b, b < x.acc.length →
            y.acc.getD b [] = if b ∈ bs then (dotLane s x [] m k b).1 else x.acc.getD b [])) ∧
        (steps.length ≤ x.step + 1 → ∀ y ∈ s'.eng.units, y.pch ≠ x.pch) ∧
        (∀ d, st = .fill d → clear (rowKey x.wpage d) → ∀ a, readByte s'.mem.bytes a =
          if rowKey x.wpage d ≤ a ∧ a < rowKey x.wpage d + 1024 then 0 else readByte s.mem.bytes a) ∧
        (∀ src dst, st = .clone src dst → rowKey x.spage src = rowKey x.wpage dst → s'.mem.bytes = s.mem.bytes) ∧
        (∀ src dst, st = .clone src dst → rowKey x.spage src ≠ rowKey x.wpage dst → clear (rowKey x.wpage dst) → ∀ a, readByte s'.mem.bytes a =
          if rowKey x.wpage dst ≤ a ∧ a < rowKey x.wpage dst + 1024 then (dramBytes s (rowKey x.spage src) 1024).getD (a - rowKey x.wpage dst) 0
          else readByte s.mem.bytes a) ∧
        (∀ dst, st = .bufWrite dst → x.buffer.length = 1024 → clear (rowKey x.wpage dst) → ∀ a, readByte s'.mem.bytes a =
          if rowKey x.wpage dst ≤ a ∧ a < rowKey x.wpage dst + 1024 then x.buffer.getD (a - rowKey x.wpage dst) 0
          else readByte s.mem.bytes a) ∧
        (∀ src, st = .bufRead src → s'.mem.bytes = s.mem.bytes) ∧
        (∀ bs k, st = .lanes bs k → m.op = 1 → s'.mem.bytes = s.mem.bytes) ∧
        (∀ bs k, st = .lanes bs k → m.op = 2 → ∀ a, (∀ b ∈ bs, ¬(rowKey x.wpage (16 * k + b) ≤ a ∧ a < rowKey x.wpage (16 * k + b) + 1024)) →
          readByte s'.mem.bytes a = readByte s.mem.bytes a) ∧
        (∀ q, st = .result q → clear (x.rbase + 1024 * q) → ∀ a, readByte s'.mem.bytes a =
          if x.rbase + 1024 * q ≤ a ∧ a < x.rbase + 1024 * q + 1024 then (resultRow x m q).getD (a - (x.rbase + 1024 * q)) 0
          else readByte s.mem.bytes a))) ∧
    (∀ src dst, x.loaded = true → steps[x.step]? = some (.clone src dst) → (∀ k ∈ NmStep.reads x (.clone src dst), s.poisoned k.1 k.2 = false) →
      rowKey x.spage src ≠ rowKey x.wpage dst → ∀ i q, i < 16 →
        ((lineOf (rowKey x.wpage dst) + i, q) ∈ (rowStep s x).mem.sealed ↔ (lineOf (rowKey x.spage src) + i, q) ∈ s.mem.sealed)) ∧
    (m.op = 3 → x.step = 0 → x.power = .up → x.suspended = false → x.cancelled = false → x.loaded = true → 1 ≤ m.rows → m.rows ≤ 64 → s.memWf →
      (∀ t ∈ s.cores.tasks, t.queue = [] ∧ t.reds = []) → s.fab.elems = [] → s.eng.tiles = [] → s.eng.copies = [] → s.eng.progs = [] →
      s.mem.retired = [] → s.eng.deliveries = [] → s.eng.scans = [] → s.hub.skips s.ctl.now = false → s.mem.outside = [] → (∀ p ∈ s.mem.partials, p.placed = true) →
      (∀ y ∈ s.eng.units, y.loaded = true) → s.mem.under = [] → (∀ k, k < m.rows → clear (rowKey x.wpage (m.wrow + k * m.stride))) →
      ∃ s', exec (.nmfill u) s = .next s' ∧ (∀ y ∈ s'.eng.units, y.pch ≠ x.pch) ∧
        ∀ a, readByte s'.mem.bytes a = if ∃ k, k < m.rows ∧ rowKey x.wpage (m.wrow + k * m.stride) ≤ a ∧
          a < rowKey x.wpage (m.wrow + k * m.stride) + 1024 then 0 else readByte s.mem.bytes a)

/-- What a unit does between its steps (R320, R322, R324, R386): at a row boundary it suspends for the requests that wait, its own apart, and
resumes when they have been served; it takes no step in a cycle that throttling skips; a cancelled node fails with POISON subcode 3 and its empty rows are poisoned; a channel that powers down spills the
unit's state to its last rows, and gives it back. -/
def Obligations.NearMemoryYields : Prop :=
  ∀ (s : State) (u : Nat) (x : RowUnit), s.eng.units[u]? = some x →
    (∀ (j : Nat) (y : RowUnit), s.eng.units[j]? = some y → y.pch = x.pch → j = u) →
    let ws := waitingAt s x.pch
    (∀ w ∈ ws, ¬(w.1 = 8 ∧ w.2.1 = x.pch)) ∧ (s.hub.skips s.ctl.now = true → x.mayStep s = false) ∧
    (x.suspended = true → (∃ w ∈ ws, w ∈ x.serving) → exec (.nmBoundary u) s = .next s) ∧
    (x.suspended = true → (∀ w ∈ ws, w ∉ x.serving) →
      exec (.nmBoundary u) s = .next (s.setUnit { x with suspended := false, serving := [], fresh := false })) ∧
    (x.suspended = false → x.fresh = true → ws = [] → exec (.nmBoundary u) s = .next (s.setUnit { x with fresh := false })) ∧
    (x.suspended = false → x.fresh = true → ws ≠ [] →
      exec (.nmBoundary u) s = .next (s.setUnit { x with suspended := true, serving := ws }) ∧ x.mayStep s = false) ∧
    (x.cancelled = false → exec (.nmCancel u) s = .next s) ∧
    (x.cancelled = true →
      let g := match s.launch? x.launch with | some l => l.graph | none => 0
      let r := writeRecord s x.pad x.ten { code := 0x16, sub := 3, graph := g, node := x.node }
      exec (.nmCancel u) s = .next (nodeFail (cancelUnit r.1 x) x.launch x.node 0x16 r.2)) ∧
    ((∀ y ∈ (cancelUnit s x).eng.units, y.pch ≠ x.pch) ∧ (cancelUnit s x).mem.bytes = s.mem.bytes ∧
      ∀ e ∈ s.mem.empties, e.unit_ = x.pch → e.full = false → (cancelUnit s x).poisoned (regionKey 0 (e.row * 1024)) 1024 = true) ∧
    (x.power = .down → exec (.nmSpill u) s = .next s) ∧
    (x.power = .up → exec (.nmRestore u) s = .next s) ∧
    (x.power = .up → s.memWf → x.acc.length = 16 → (∀ l ∈ x.acc, l.length = 64 ∧ ∀ v ∈ l, v < 2 ^ 32) → x.step < 2 ^ 512 →
      ∃ s1 s2, exec (.nmSpill u) s = .next s1 ∧ s1.eng.units[u]? = some { x with acc := [], step := 0, power := .down } ∧
        (∀ a, a < spillKey x.pch 0 ∨ spillKey x.pch 0 + 16384 ≤ a → readByte s1.mem.bytes a = readByte s.mem.bytes a) ∧
        exec (.nmRestore u) s1 = .next s2 ∧ s2.eng.units[u]? = some x ∧ s2.mem = s1.mem)

/-! ### Pages, drains and held faults -/

/-- A page response (R341 to R343, R369): one to a stale request is counted for its function and discarded; a success after which the page is present lets
the withheld accesses go on; a refusal ends what waits with PAGE subcode 1. Invalidation removes the translations that it names and
nothing else (R337). -/
def Obligations.PagesAnswered : Prop :=
  (∀ (s : State) (k : Nat) (ok : Bool) (es : List (Nat × BitVec 64)) (q : PageReq), s.mem.pages[k]? = some q →
    let w := writeEntries s q.pad q.ten es
    let s1 : State := { w with mem := { w.mem with pages := dropAt k w.mem.pages } }
    let v := s1.tenant q.pad q.ten
    let found := match (translate s1 q.pad q.ten none none q.va (!q.write) q.write).2 with | .miss _ => false | _ => true
    (q.asked = false → exec (.pageResponse k ok es) s = .next s) ∧
    (q.asked = true → q.stale = true ∨ q.fgen ≠ v.fgen → exec (.pageResponse k ok es) s =
      .next (askNext (countStale s1 q.vf) q.pad)) ∧
    (q.asked = true → q.stale = false → q.fgen = v.fgen → ok = false ∨ found = false → exec (.pageResponse k ok es) s =
      .next (askNext (refusePage s1 q) q.pad)) ∧
    (q.asked = true → q.stale = false → q.fgen = v.fgen → ok = true → found = true →
      let s2 : State := { s1 with drv := { s1.drv with ckpts := s1.drv.ckpts.map (fun c => c.answered s1.ctl.now q.id) } }
      exec (.pageResponse k ok es) s = .next (askNext (releaseTokens (uncount s2 q) q) q.pad))) ∧
  (∀ (s : State) (vf p t : Nat) (x : Paddock), s.pad? p = some x → t < 4 →
    let v := x.tenant t
    (countStale s vf).tenant p t = (if v.enabled = true ∧ v.vf = vf then { v with stalepr := (v.stalepr + 1) % 2 ^ 32 } else v) ∧
    (countStale s vf).mem = s.mem ∧ (countStale s vf).cores = s.cores ∧ (countStale s vf).drv = s.drv) ∧
  (∀ (s : State) (q : PageReq), s.ctl.eager = false → (s.cores.tasks.map (fun t => (t.pos, t.slot))).Nodup →
    (∀ t ∈ (releaseTokens s q).cores.tasks, t.saved = false → t.waitsOn q.id = false) ∧
    (releaseTokens s q).mem = s.mem ∧ (releaseTokens s q).fab = s.fab) ∧
  (∀ (s : State) (p : Nat) (page ten : Option Nat), ∃ s', exec (.tlbInvalidate p page ten []) s = .next s' ∧ s'.mem.bytes = s.mem.bytes ∧
    s'.cores = s.cores ∧ s'.fab = s.fab ∧ s'.ten = s.ten ∧
    ∀ e, e ∈ s'.mem.tlb ↔ e ∈ s.mem.tlb ∧ ¬(e.pad = p ∧ (∀ t, ten = some t → e.ten = t) ∧ (∀ g, page = some g → g * 2 ^ 16 / 2 ^ e.size = e.page)))

/-- Draining (R343, R350 to R355): it starts at a limit, at a request or at a slice's end; a marker that arrives marks its input; a
drained configuration whose writes are performed leaves a checkpoint, or after a refused page a failed node, and no part of itself; one that takes 1.5 s raises WATCHDOG
subcode 2. A checkpoint holds the poison marks of the words it saves (R348, R353), and begins with the header of R355. -/
def Obligations.DrainsToCheckpoints : Prop :=
  (∀ (s : State) (k : Nat) (q : PageReq) (p : Paddock), s.mem.pages[k]? = some q → s.pad? q.pad = some p →
    (q.asked = true → q.stale = false → q.sent + p.drlim * 1900 ≤ s.ctl.now → (∃ c ∈ waitingConfs s q, c.1.drain = none) →
      exec (.drainLimit k) s = .next ((waitingConfs s q).foldl (fun s c => startDrain s c.1.cid 1) s)) ∧
    (q.asked = false ∨ q.stale = true ∨ s.ctl.now < q.sent + p.drlim * 1900 ∨ (∀ c ∈ waitingConfs s q, c.1.drain ≠ none) →
      exec (.drainLimit k) s = .next s)) ∧
  (∀ (s : State) (c why : Nat) (x : Conf), s.fab.confs[c]? = some x →
    exec (.drainStart c why) s = .next (startDrain s x.cid why) ∧
    (∀ w y, s.conf? x.cid = some y → y.drain.isSome → startDrain s x.cid w = s) ∧
    (x.drain = none → exec (.drainComplete c) s = .next s ∧ exec (.drainWatchdog c) s = .next s) ∧
    (∀ d, x.drain = some d →
      (drained s x = false ∨ writesPerformed s x = false → exec (.drainComplete c) s = .next s) ∧
      (drained s x = true → writesPerformed s x = true → (∀ g ∈ s.eng.progs, g.bind = some x.cid → lagging s g.lag = false) →
        d.failed = none → ∃ s', exec (.drainComplete c) s = .next s' ∧ s'.drv.ckpts = s.drv.ckpts ++ [checkpoint s x d s.ctl.ids] ∧
          (∀ y ∈ s'.fab.confs, y.cid ≠ x.cid) ∧ (∀ y ∈ s'.cores.tasks, y.cid ≠ x.cid) ∧ (∀ y ∈ s'.fab.elems, y.cid ≠ x.cid) ∧
          (∀ y ∈ s'.fab.links, y.cid ≠ x.cid) ∧ (∀ y ∈ s'.eng.copies, y.cid ≠ x.cid) ∧ s'.drv.launches = s.drv.launches ∧
          (∀ w, w ∈ (checkpoint s x d s.ctl.ids).marks ↔ w ∈ s.mem.poison ∧ savedKey x (8 * w) = true) ∧
          (∀ w ∈ s'.mem.poison, savedKey x (8 * w) = false) ∧
          ∀ b ∈ s.mem.bytes, savedCell x b = false → b ∈ s'.mem.bytes) ∧
      (∀ va, drained s x = true → writesPerformed s x = true → (∀ g ∈ s.eng.progs, g.bind = some x.cid → lagging s g.lag = false) →
        d.failed = some va → ∃ s1, exec (.drainComplete c) s = .next (notRestored s1 x (s.ctl.now - x.start) va) ∧
          s1.drv = s.drv ∧ (∀ y ∈ s1.fab.confs, y.cid ≠ x.cid) ∧ ∀ y ∈ s1.cores.tasks, y.cid ≠ x.cid) ∧
      (d.since + 2850000000 ≤ s.ctl.now → exec (.drainWatchdog c) s = .next (confFault s x.cid { code := 0x38, sub := 2 })) ∧
      (s.ctl.now < d.since + 2850000000 → exec (.drainWatchdog c) s = .next s))) ∧
  (∀ (s : State) (e : Nat) (l : Link) (rest : List Flit), s.fab.links[e]? = some l → l.arriving = .marker rest →
    let s1 := (((s.setLink e { l with flight := rest, heard := none }).touch l.cid).mapInput l.dst
      (fun i => { i with marker := true, markedAt := s.ctl.ids }))
    exec (.bellwetherArrive e) s =
      .next (((confParts s1 l.cid).filter (fun p => p.owns s1 l.dst)).foldl (fun s p => trySave s l.cid p) s1) ∧
    (∀ q, s.input? l.dst = some q → (s1.input? l.dst) = some { q with marker := true, markedAt := s.ctl.ids })) ∧
  (∀ (k : Ckpt) (graph : Word),
    let b := k.image graph
    b.take 4 = [0x51, 0x43, 0x4B, 0x50] ∧ fileField b 0x04 2 = 1 ∧ fileField b 0x06 1 = k.why % 2 ^ 8 ∧ fileField b 0x07 1 = 0 ∧
    fileField b 0x08 2 = k.conf.ident % 2 ^ 16 ∧ fileField b 0x0A 1 = k.conf.strip0 % 2 ^ 8 ∧ fileField b 0x0B 1 = k.conf.strips % 2 ^ 8 ∧
    fileField b 0x0C 4 = k.records.length % 2 ^ 32 ∧ fileField b 0x10 8 = b.length % 2 ^ 64 ∧ fileField b 0x18 8 = graph.toNat ∧
    fileField b 0x20 2 = k.conf.node % 2 ^ 16 ∧ fileField b 0x22 1 = k.conf.ten % 2 ^ 8 ∧ fileField b 0x23 1 = 0 ∧
    fileField b 0x24 4 = k.conf.flags % 2 ^ 32 ∧ fileField b 0x2C 4 = 0 ∧ fileField b 0x30 8 = k.cycles % 2 ^ 64 ∧ fileField b 0x38 8 = 0)

/-- Restoring (R357): a ready checkpoint whose tenant is active and whose strips are free, no KNODE and no other checkpoint of the tenant of a
higher effective priority before it (R304), is placed again, its parts as they were saved; where no pass of a stream-read element was
interrupted, a checkpoint and its restore leave every byte of memory and every poison mark as it was. At a slice's
end another tenant with work becomes active once the outgoing one's configurations have left and its nodes and copies have ended, and its
checkpoints are restored before its pool is dispatched (R358). -/
def Obligations.RestoresWhatItSaved : Prop :=
  (∀ (s : State) (k : Nat) (x : Ckpt) (p : Paddock), s.drv.ckpts[k]? = some x → s.pad? x.conf.pad = some p →
    let c := x.conf
    let free := (∀ i, i < c.strips → freeStrip s (c.strip0 + i) = true)
    (x.ready = false ∨ p.ended = true ∨ tenantActive p c.ten = false ∨ ¬ free ∨ nodeFirst s x = true ∨
        (∃ j y, s.drv.ckpts[j]? = some y ∧ ckptBefore s y x j k = true) → exec (.restore k) s = .next s) ∧
    (∀ (j : Nat) (y : Ckpt), y.ready = true → y.conf.pad = c.pad → y.conf.ten = c.ten → restoringNow s p = false → x.prio s < y.prio s →
      ckptBefore s y x j k = true ∧ ckptBefore s x y k j = false) ∧
    (x.ready = true → p.ended = false → tenantActive p c.ten = true → free → nodeFirst s x = false → (s.tenant c.pad c.ten).tdi ≠ .stopping → s.ctl.eager = false →
      hopsOk s c.strip0 (c.words.map (·.toNat)) = true → (∀ (j : Nat) (y : Ckpt), s.drv.ckpts[j]? = some y → ckptBefore s y x j k = false) → (∀ e ∈ x.elems, e.midPass = false) →
      ∃ s', exec (.restore k) s = .next s' ∧ s'.drv.ckpts = dropAt k s.drv.ckpts ∧
        s'.fab.confs = s.fab.confs ++ [{ c with start := s.ctl.now - x.cycles, moved := s.ctl.now, drain := none }] ∧
        s'.fab.elems = s.fab.elems ++ x.elems.map (fun e => { e with saved := false, snap := [] }) ∧ s'.fab.links = s.fab.links ++ x.links ∧
        s'.fab.inputs = s.fab.inputs ++ x.inputs.map (Input.represent s.ctl.now) ∧
        (∃ g : Task → Task, s'.cores.tasks = s.cores.tasks ++ x.tasks.map g ∧ ∀ t, (g t).saved = false ∧ (g t).g = t.g ∧ (g t).v = t.v ∧
          (g t).st = t.st ∧ (g t).cur = t.cur ∧ (g t).pos = t.pos ∧ (g t).slot = t.slot ∧ (g t).pts = t.pts ∧ (g t).fault = t.fault ∧
          (g t).frame.isSome = t.frame.isSome) ∧ ∀ w ∈ x.marks, w ∈ s'.mem.poison)) ∧
  (∀ (s s1 s2 : State) (c : Nat) (k : Ckpt), s.memWf → s.ctl.eager = false → exec (.drainComplete c) s = .next s1 →
    s1.drv.ckpts = s.drv.ckpts ++ [k] → (∀ e ∈ k.elems, e.midPass = false) → exec (.restore s.drv.ckpts.length) s1 = .next s2 → s2.drv.ckpts = s.drv.ckpts →
    (∀ a, readByte s2.mem.bytes a = readByte s.mem.bytes a) ∧ ∀ w, w ∈ s2.mem.poison ↔ w ∈ s.mem.poison) ∧
  (∀ (s : State) (p : Nat) (x : Paddock), s.pad? p = some x →
    ((othersInOrder x).find? (hasWork s p) = none →
      exec (.tenantSliceEnd p) s = .next (s.mapPad p (fun x => { x with leaving := false }))) ∧
    (∀ next, (othersInOrder x).find? (hasWork s p) = some next → x.leaving = true →
      (∀ c ∈ s.fab.confs, ¬(c.pad = p ∧ c.ten = x.active)) → (∀ u ∈ s.eng.units, ¬(u.pad = p ∧ u.ten = x.active)) →
      (∀ c ∈ s.eng.copies, ¬(c.pad = p ∧ c.ten = x.active)) →
      exec (.tenantSliceEnd p) s = .next (activate s x next) ∧
      (∀ y, (activate s x next).pad? p = some y → y.active = next ∧ y.leaving = false ∧
        (y.restoring = true ↔ ∃ k ∈ s.drv.ckpts, k.ready = true ∧ k.conf.pad = p ∧ k.conf.ten = next))) ∧
    (∀ (l : Launch) (nd : Node) (n kind : Nat), l.pad = p → restoringNow s x = true → headOfKind s l nd n kind = false))

/-- The host's answer to a held fault (R346): RESUME makes the held task ready at TADDR, with a new BADBLOCK when no block begins there;
ABORT ends its configuration with the code of its record; a word that names no held task is ignored. -/
def Obligations.HeldTasksAreAnswered : Prop :=
  ∀ (s : State) (p t : Nat) (w : BitVec 64),
    let target := (s.tenant p t).taddr.toNat
    (heldTask s p t w.toNat = none → exec (.tctlResume p t w) s = .next s ∧ exec (.tctlAbort p t w) s = .next s) ∧
    (∀ x, heldTask s p t w.toNat = some x →
      x.held = true ∧
      (bits w.toNat 37 36 = 1 → badBlock s x.pos target = none → exec (.tctlResume p t w) s =
        .next (s.setTask { x with st := .ready, held := false, cur := target, pass := 0, since := s.ctl.ids, readyAt := s.ctl.now })) ∧
      (∀ sub, bits w.toNat 37 36 = 1 → badBlock s x.pos target = some sub → exec (.tctlResume p t w) s =
        .next (takeFault s x target { code := 0x03, sub := sub, idx := 0xFF })) ∧
      (bits w.toNat 37 36 = 2 → exec (.tctlAbort p t w) s = .next (terminate s x.cid x.code x.fault)) ∧
      (bits w.toNat 37 36 ≠ 1 → exec (.tctlResume p t w) s = .next s) ∧ (bits w.toNat 37 36 ≠ 2 → exec (.tctlAbort p t w) s = .next s))

/-! ### Functions and their tenants -/

/-- Register windows (R302, R345, R376, R389): aligned writes of 4 or 8 bytes, low half first; a writable register reads back what was
written, FPOL its three bits; flags are cleared by ones; a write to a read-only register changes nothing; what no table lists reads 0;
every register of PF0's window is read-only, and reading it reads the sensors; a write of LGO launches, and TCMD stops or reports. -/
def Obligations.RegisterWindows : Prop :=
  (∀ (s : State) (p t off : Nat) (v : BitVec 64) (n : Nat),
    exec (.registerWrite none off n v) s = .next s ∧
    (off % 4 = 0 → exec (.registerWrite (some (p, t)) off 4 v) s = .next (vfWrite s p t off (v.toNat % 2 ^ 32))) ∧
    (off % 8 = 0 → exec (.registerWrite (some (p, t)) off 8 v) s =
      .next (vfWrite (vfWrite s p t off (v.toNat % 2 ^ 32)) p t (off + 4) (v.toNat / 2 ^ 32))) ∧
    (n ≠ 4 → n ≠ 8 → exec (.registerWrite (some (p, t)) off n v) s = .next s) ∧
    exec (.registerWrite (some (p, t)) 0x10 4 v) s = exec (.lgo p t (v.truncate 32)) s ∧
    exec (.registerWrite (some (p, t)) 0x84 4 1) s = exec (.stop p t) s ∧
    exec (.registerWrite (some (p, t)) 0x84 4 2) s = exec (.report p t) s) ∧
  (∀ (s : State) (p t v : Nat) (x : Paddock), s.pad? p = some x → t < 4 → v < 2 ^ 32 →
    (∀ off ∈ [0x00, 0x04, 0x08, 0x0C, 0x24, 0x28, 0x2C, 0x40, 0x44, 0x48, 0x50, 0x60, 0x64, 0x88, 0x8C, 0x90],
      windowRead (vfWrite s p t off v) (some (p, t)) off 4 = (vfWrite s p t off v, v)) ∧
    (windowRead (vfWrite s p t 0x58 v) (some (p, t)) 0x58 4).2 = v % 8 ∧
    ((vfWrite s p t 0x20 v).tenant p t).lflg = (s.tenant p t).lflg &&& (2 ^ 32 - 1 - v) ∧
    (∀ off ∈ [0x18, 0x1C, 0x30, 0x4C, 0x54, 0x5C, 0x80, 0x94, 0x98, 0x9C, 0xA0], vfWrite s p t off v = s) ∧
    (∀ off, 0xA4 ≤ off → windowRead s (some (p, t)) off 4 = (s, 0)) ∧
    (windowRead s none 0x004 4).2 = 1 ∧ windowRead s (some (p, t)) 0x80 4 = (s, (s.tenant p t).tdi.code) ∧
    (∀ off n, let u := (windowRead s none off n).1
      u.mem = s.mem ∧ u.cores = s.cores ∧ u.fab = s.fab ∧ u.ten = s.ten ∧ u.hub.skipped = s.hub.skipped ∧ u.hub.pwr.toNat ≤ 14400) ∧
    (windowRead s none 0x010 4).2 = (windowRead s none 0x010 4).1.hub.pwr.toNat ∧
    (windowRead s none 0x018 4).2 = (windowRead s none 0x018 4).1.hub.temp.toNat)

/-- Host accesses (R251): a read answers the bytes at the homes and changes none of them; a posted write stores its bytes there; both wait
for a line that waits, in the order of their arrival (R321), and a read that cannot be served answers so. That a read of a poisoned word
is answered as not served, and that a write to a live fibre header is not performed, is the model's choice, log 54. -/
def Obligations.HostAccessesServed : Prop :=
  (∀ (s : State) (p t va n : Nat) (bytes : List Byte),
    let q := hostKeys s p t va n false
    let w := hostKeys s p t va bytes.length true
    (q.2 = none → exec (.hostMemoryRead p t va n) s = .next (q.1.say (.hostData p t va none)) ∧ q.1.mem = s.mem ∧ q.1.cores = s.cores) ∧
    (w.2 = none → exec (.hostMemoryWrite p t va bytes) s = .next w.1 ∧ w.1.mem = s.mem ∧ w.1.cores = s.cores ∧ w.1.hub = s.hub) ∧
    (∀ ks, q.2 = some ks → q.1.mem.outside = [] → (∀ k ∈ ks, movedTo q.1 k.1 = none) →
      let x : Outside := { id := q.1.ctl.ids, src := .host p t va, who := whoOf p t, op := .read n, keys := ks }
      let v : State := { q.1.newId.2 with mem := { q.1.mem with outside := [x] } }
      ((∃ k ∈ ks, mayPass v k.1 7 x.id = false) → ∃ s1 : State, exec (.hostMemoryRead p t va n) s = .next s1 ∧ s1.mem.outside = [x] ∧
        s1.mem.bytes = q.1.mem.bytes ∧ s1.hub = q.1.hub ∧ s1.cores = q.1.cores) ∧
      ((∀ k ∈ ks, mayPass v k.1 7 x.id = true) → (∃ k ∈ ks, q.1.poisoned k.1 k.2 = true) → ∃ s1 : State,
        exec (.hostMemoryRead p t va n) s = .next (s1.say (.hostData p t va none)) ∧ s1.mem.bytes = q.1.mem.bytes ∧ s1.hub = q.1.hub) ∧
      ((∀ k ∈ ks, mayPass v k.1 7 x.id = true ∧ q.1.poisoned k.1 k.2 = false) → (∀ k ∈ ks, ∀ y ∈ q.1.mem.partials, y.line ≠ lineOf k.1) →
        (∀ k ∈ ks, ∀ y ∈ q.1.mem.sealed, y.1 = lineOf k.1 → y.2 = q.1.keyOf (whoOf p t)) → q.1.plainL2 →
        ∃ s1 : State, exec (.hostMemoryRead p t va n) s =
            .next (s1.say (.hostData p t va (some (ks.flatMap (fun k => readBytes q.1.mem.bytes k.1 k.2))))) ∧
          s1.mem.bytes = q.1.mem.bytes ∧ s1.sansOwed.cores = q.1.sansOwed.cores ∧ s1.fab = q.1.fab ∧ s1.hub = q.1.hub ∧ s1.mem.outside = [])) ∧
    (∀ ks, w.2 = some ks → w.1.mem.outside = [] → (∀ k ∈ ks, movedTo w.1 k.1 = none) →
      let x : Outside := { id := w.1.ctl.ids, src := .host p t va, who := whoOf p t, op := .write bytes, keys := ks }
      let v : State := { w.1.newId.2 with mem := { w.1.mem with outside := [x] } }
      ((∃ k ∈ ks, mayPass v k.1 7 x.id = false) → ∃ s1 : State, exec (.hostMemoryWrite p t va bytes) s = .next s1 ∧ s1.mem.outside = [x] ∧
        s1.mem.bytes = w.1.mem.bytes ∧ s1.hub = w.1.hub) ∧
      ((∀ k ∈ ks, mayPass v k.1 7 x.id = true) → (∃ k ∈ ks, liveHeader w.1 k.1 = true) → ∃ s1 : State,
        exec (.hostMemoryWrite p t va bytes) s = .next s1 ∧ s1.mem.bytes = w.1.mem.bytes ∧ s1.mem.outside = [] ∧ s1.hub = w.1.hub) ∧
      ((∀ k ∈ ks, mayPass v k.1 7 x.id = true ∧ liveHeader w.1 k.1 = false) → ∃ s1 : State,
        exec (.hostMemoryWrite p t va bytes) s = .next (writeKeys s1 (whoOf p t) 0 ks bytes).1 ∧ s1.mem.bytes = w.1.mem.bytes ∧
          s1.mem.partials = w.1.mem.partials ∧ s1.cores = w.1.cores ∧ s1.mem.outside = []))) ∧
  (∀ (s : State) (who p k : Nat) (bytes : List Byte), (∀ q ∈ s.mem.partials, q.line ≠ lineOf k) →
    (∀ y ∈ s.mem.sealed, y.1 = lineOf k → y.2 = s.keyOf who) → s.plainL2 → s.memWf → bytes ≠ [] → ∀ a,
    readByte (writeKeys s who p [(k, bytes.length)] bytes).1.mem.bytes a =
      if k ≤ a ∧ a < k + bytes.length then bytes.getD (a - k) 0 else readByte s.mem.bytes a)

/-- Tenants (R368, R369, R371, R374, R376 to R378, R385): stopping ends a tenant's work and then its writes; a report raises its sequence
number, 64 bits wide in memory; a TDI locks in normal service, not while its function is being reset, and runs once locked; a function's
reset gives its registers their resets, a device's reset its paddocks up and keeps fuses, images and host memory. That a reset first only
stops the tenants, and goes on of itself in a later step, is the model's choice, log 1. -/
def Obligations.TenantsStopAndReset : Prop :=
  (∀ (s : State) (p t : Nat) (x : Paddock), s.pad? p = some x → t < 4 →
    let v := s.tenant p t
    (v.enabled = false → exec (.stop p t) s = .next s ∧ exec (.report p t) s = .next s ∧ exec (.tdispLock p t) s = .next s) ∧
    (v.enabled = true →
      (v.tdi = .stopped → exec (.stop p t) s = .next s) ∧
      (v.tdi = .stopping → lastWritesDone s p t = false → exec (.stop p t) s = .next s) ∧
      (v.tdi = .stopping → lastWritesDone s p t = true → s.mem.partials = [] → s.eng.fibres = [] →
        ∃ s', exec (.stop p t) s = .next s' ∧ (s'.tenant p t).tdi = .stopped ∧ (s'.tenant p t).dprseq = (v.dprseq + 1) % 2 ^ 32) ∧
      (v.tdi ≠ .stopping → v.tdi ≠ .stopped →
        ∃ s', exec (.stop p t) s = .next s' ∧ (∀ l ∈ s'.drv.launches, ¬(l.pad = p ∧ l.ten = t)) ∧
          (∀ g ∈ s'.eng.progs, ¬(g.pad = p ∧ g.ten = t)) ∧ (∀ k ∈ s'.drv.ckpts, ¬(k.conf.pad = p ∧ k.conf.ten = t)) ∧
          (∀ q ∈ s'.mem.pages, q.pad = p → q.ten = t → q.stale = true) ∧
          ((∀ c ∈ s.fab.confs, ¬(c.pad = p ∧ c.ten = t)) → (s'.tenant p t).tdi = .stopping)) ∧
      (v.tdi = .error → exec (.report p t) s = .next s) ∧
      (v.tdi ≠ .error → ∃ s', exec (.report p t) s = .next s' ∧ (s'.tenant p t).dprseq = (v.dprseq + 1) % 2 ^ 32 ∧ (s'.tenant p t).tdi = v.tdi ∧
        s'.fab = s.fab ∧ s'.drv = s.drv ∧ s'.cores = s.cores ∧
        ((∀ l ∈ tenantLeaves s p t, bits l.2.2.2 7 7 = 0) → s.memWf →
          s'.read (regionKey 1 v.dprbase.toNat) 8 = (v.dprseq + 1) % 2 ^ 64 ∧ s'.read (regionKey 1 v.dprbase.toNat + 8) 8 = 0)) ∧
      (x.mode = 0 → v.tdi = .unlocked → v.resetting = false →
        let s1 := s.mapTenant p t (fun v => { v with tdi := .locked })
        exec (.tdispLock p t) s = .next (remeasure s1)) ∧
      (x.mode ≠ 0 ∨ v.tdi ≠ .unlocked ∨ v.resetting = true → exec (.tdispLock p t) s = .next s) ∧
      (v.tdi ≠ .stopped → exec (.vfFlr p t) s = .next ((stopTenant s p t).mapTenant p t (fun v => { v with resetting := true })))) ∧
    (v.resetting = true → Act.event (.vfFlr p t) ∈ candidates s) ∧
    (∃ s', exec (.tdispStart p t) s = .next s' ∧ (s'.tenant p t).tdi = (if v.tdi = .locked then Tdi.run else v.tdi)) ∧
    (v.enabled = false ∨ v.tdi = .stopped →
      ∃ s', exec (.vfFlr p t) s = .next s' ∧ s'.tenant p t = { Tenant.reset with
          enabled := v.enabled, root := v.root, sysScope := v.sysScope, key := v.key, keyNo := v.keyNo, idleSince := v.idleSince
          vf := v.vf, pdropAt := x.pdrop, fgen := (v.fgen + 1) % 2 ^ 16 } ∧ (windowRead s' (some (p, t)) 0xA0 4).2 = 0)) ∧
  (∀ s : State, let left := (allTenants s).filter (fun x => (s.tenant x.1 x.2).tdi ≠ .stopped)
    (left ≠ [] → exec .pfReset s =
      .next (left.foldl (fun s x => stopTenant s x.1 x.2) { s with hub := { s.hub with resetting := true } })) ∧
    (s.hub.resetting = true → Act.event .pfReset ∈ candidates s) ∧
    (left = [] → ∃ s', exec .pfReset s = .next s' ∧ s'.ten.paddocks = [] ∧ s'.cores = State.reset.cores ∧ s'.fab = State.reset.fab ∧
      s'.eng = State.reset.eng ∧ s'.drv = State.reset.drv ∧ s'.hub.ready = false ∧ s'.hub.stage = 0 ∧ s'.hub.resetting = false ∧
      s'.hub.dead = [] ∧ s'.hub.out = s.hub.out ++ [.linkDown] ∧
      s'.hub.boots.map (fun b => (b.keyHash, b.version, b.images, b.pending, b.identity)) =
        s.hub.boots.map (fun b => (b.keyHash, b.version, b.images, b.pending, b.identity)) ∧
      (s.memWf → ∀ a, readByte s'.mem.bytes a = if regionOf a = 1 ∨ regionOf a = 3 then readByte s.mem.bytes a else 0)))

/-- Paddocks (R112, R322, R338, R365, R369, R371, R373 to R375, R384, R387): a new one takes strips that no other holds, none of a die that
has stopped, under a fresh number, and no two of its range entries overlap; windows keep their numbers; a frozen one is neither torn down nor
reassigned, and its scope policy stays: its TDIs that are locked or run enter ERROR; a teardown leaves zeros in its memory and each function's
generation; a reassigned slot has a fresh key and FGEN one higher, and one that was not enabled takes the lowest free function, which goes on
from what it was left with; the service mode changes only without work. The model's choices: windows keep their numbers across a teardown
(log 40), a teardown keeps each function's FGEN and STALEPR (log 20), a key has a number of its own (log 20), and TRACE_ENABLE empties the trace
buffer and its count of drops (log 46). -/
def Obligations.PaddocksChange : Prop :=
  (∀ (s : State) (e : BitVec 128) (rs : List (BitVec 256)) (lim : List Nat) (ex : List (Nat × Nat × List (Nat × Nat) × Bool)),
    (s.hub.ready = false ∨ entSkipped s e.toNat = true → exec (.paddockCreate e rs lim ex) s = .next s) ∧
    (s.hub.ready = true → entSkipped s e.toNat = false →
      ∃ (s' : State) (x : Paddock), exec (.paddockCreate e rs lim ex) s = .next s' ∧ s'.ten.paddocks = s.ten.paddocks ++ [x] ∧ s'.mem = s.mem ∧ s'.cores = s.cores ∧
        s'.fab = s.fab ∧ x.first = bits e.toNat 5 0 ∧ x.count = bits e.toNat 13 8 + 1 ∧ x.first + x.count ≤ 64 ∧ x.mask = bits e.toNat 19 16 ∧
        x.mode = bits e.toNat 23 22 ∧ x.pen = bits e.toNat 63 32 ∧
        (∀ q ∈ s.ten.paddocks, q.id ≠ x.id ∧ q.place ≠ x.place ∧ (x.first + x.count ≤ q.first ∨ q.first + q.count ≤ x.first)) ∧
        (∀ k ∈ s.hub.excluded, k < x.first ∨ x.first + x.count ≤ k) ∧
        (∀ k, x.first ≤ k → k < x.first + x.count → dieOfStrip k ∉ s.hub.dead) ∧ x.ranges.Pairwise (fun a b => a.clash b = false) ∧
        (∀ (i : Nat) (y : Export), s.ten.exports[i]? = some y → y ≠ Export.none → s'.ten.exports[i]? = some y) ∧
        (∀ t, t < 4 → ((x.tenant t).enabled = true ↔ x.mask / 2 ^ t % 2 = 1) ∧ ((x.tenant t).enabled = true → (x.tenant t).tdi = .unlocked)))) ∧
  (∀ (s : State) (p t m : Nat) (x : Paddock), s.pad? p = some x →
    (x.frozen = true → exec (.paddockTeardown p) s = .next (s.mapPad p Paddock.refuse) ∧
      exec (.vfReassignment p t) s = .next (s.mapPad p Paddock.refuse)) ∧
    (∀ n, n < 4 → let v := (Paddock.refuse x).tenant n
      ((x.tenant n).tdi = .locked ∨ (x.tenant n).tdi = .run → v = { x.tenant n with tdi := .error }) ∧
      ((x.tenant n).tdi ≠ .locked → (x.tenant n).tdi ≠ .run → v = x.tenant n)) ∧
    (x.frozen = false →
      ∃ s', exec (.paddockTeardown p) s = .next s' ∧ (∀ y ∈ s'.ten.paddocks, y.id ≠ p) ∧ (∀ l ∈ s'.drv.launches, l.pad ≠ p) ∧
        (s'.ten.exports = s.ten.exports.map (fun y => if y.pad = p then Export.none else y)) ∧
        (∀ t, t < 4 → (x.tenant t).enabled = true → ((x.tenant t).vf, (x.tenant t).fgen, (x.tenant t).stalepr) ∈ s'.ten.vfs) ∧ (∀ y ∈ s'.mem.tlb, y.pad ≠ p) ∧ (∀ y ∈ s'.eng.fibres, y.pad ≠ p) ∧
        (∀ a, regionOf a = 0 → x.first * 4 * tileBytes ≤ offsetOf a → offsetOf a < (x.first + x.count) * 4 * tileBytes →
          readByte s'.mem.bytes a = 0)) ∧
    (x.frozen = false → t < 4 → (∀ l ∈ s.drv.launches, ¬(l.pad = p ∧ l.ten = t)) → (∀ c ∈ s.fab.confs, ¬(c.pad = p ∧ c.ten = t)) →
      (∀ k ∈ s.drv.ckpts, ¬(k.conf.pad = p ∧ k.conf.ten = t)) → ((x.tenant t).enabled = true ∨ (usedVfs s).length < 64) →
      ∃ s', exec (.vfReassignment p t) s = .next s' ∧ (s'.tenant p t).enabled = true ∧
        (s'.tenant p t).key = some (Config.freshKey s.ctl.fresh) ∧ (s'.tenant p t).keyNo = s.ctl.ids ∧ (s'.tenant p t).lflg = 0 ∧
        (s'.tenant p t).tdi = .unlocked ∧ (s'.tenant p t).sysScope = (x.tenant t).sysScope ∧ (∀ e ∈ s'.mem.tlb, ¬(e.pad = p ∧ e.ten = t)) ∧
        ((x.tenant t).enabled = true → (s'.tenant p t).vf = (x.tenant t).vf ∧ (s'.tenant p t).stalepr = (x.tenant t).stalepr ∧
          (s'.tenant p t).fgen = ((x.tenant t).fgen + 1) % 2 ^ 16) ∧
        ((x.tenant t).enabled = false → let n := leastFree (usedVfs s) 0
          (s'.tenant p t).vf = n ∧ n ∉ usedVfs s ∧ s'.hub = s.hub ∧ (∀ y ∈ s'.ten.vfs, y.1 ≠ n) ∧
          (∀ y, s.ten.vfs.find? (fun y => y.1 = n) = some y → (s'.tenant p t).fgen = (y.2.1 + 1) % 2 ^ 16 ∧ (s'.tenant p t).stalepr = y.2.2) ∧
          ((∀ y ∈ s.ten.vfs, y.1 ≠ n) → (s'.tenant p t).fgen = 0 ∧ (s'.tenant p t).stalepr = 0))) ∧
    (let work := (∃ c ∈ s.fab.confs, c.pad = p) ∨ (∃ u ∈ s.eng.units, u.pad = p) ∨ (∃ k ∈ s.drv.ckpts, k.conf.pad = p)
     (work ∨ 4 ≤ m ∨ (x.frozen = true ∧ m ≠ 0) → exec (.serviceModeChange p m) s = .next s) ∧
     (¬ work → m < 4 → (x.frozen = false ∨ m = 0) →
       exec (.serviceModeChange p m) s = .next (s.mapPad p (fun x => { x with mode := m })))) ∧
    (∀ l, (x.frozen = true → runAct (.scopePolicy p t l) s = .next (s.mapPad p Paddock.refuse)) ∧
      (x.frozen = false → t < 4 → ∃ s', runAct (.scopePolicy p t l) s = .next s' ∧ (s'.tenant p t).sysScope = !l)) ∧
    (∀ on cap, ∃ s', exec (.traceEnable p on cap) s = .next s' ∧
      s'.pad? p = some { x with tracing := on, cap := cap, trace := [], traceDrops := 0 } ∧ s'.cores = s.cores ∧ s'.mem = s.mem))

/-- Other devices, moved pages, translations of the host and PACKED tables (R226, R349, R363, R365 to R368): a request outside its export
is refused; an own request that another device refuses raises REMOTE subcode 3; a link that goes down ends what is in flight on it; a moved
line has its bytes at the new home and is marked moved; a translation of the host goes when no access of its page is left. The model's
choices: the base of an export counts from the paddock's first strip, a request in the device's own number is refused, and the accesses of an
ended configuration that a lost link completes are dropped with one record (log 40); a remote read of a poisoned word and a remote write to a
live header are refused, and REMOTE subcode 3 is raised at translation (log 46). -/
def Obligations.DevicesAndPagesMove : Prop :=
  (∀ (s : State) (dev pad ten win off : Nat) (op : RemoteOp),
    let n := opBytes op
    (s.ten.exports[win]? = none → exec (.remoteRequest dev pad ten win off op) s = .next (s.say (.remoteData dev none 0))) ∧
    (∀ e p, s.ten.exports[win]? = some e → s.pad? e.pad = some p →
      let a := p.first * 4 * tileBytes + e.base + off
      (dev = s.ten.device ∨ (dev, pad) ∉ e.importers ∨ (opWrites op = true ∧ e.write = false) ∨ e.len < off + n →
        exec (.remoteRequest dev pad ten win off op) s = .next (s.say (.remoteData dev none 0))) ∧
      (dev ≠ s.ten.device → (dev, pad) ∈ e.importers → (opWrites op = true → e.write = true) → off + n ≤ e.len → a + n ≤ (p.first + p.count) * 4 * tileBytes →
        s.mem.moved = [] → s.mem.partials = [] → s.mem.outside = [] →
        let ks := (lineCuts (n / 64 + 2) a n).map (fun c => (regionKey 0 c.1, c.2))
        let x : Outside := { id := s.ctl.ids, src := .device dev, who := whoOf e.pad ten, op := op, keys := ks }
        let v : State := { s.newId.2 with mem := { s.mem with outside := [x] } }
        (∀ k ∈ ks, mayPass v k.1 7 x.id = true) →
        (∀ m, op = .read m → (∃ k ∈ ks, s.poisoned k.1 k.2 = true) → ∃ s1 : State,
          exec (.remoteRequest dev pad ten win off op) s = .next (s1.say (.remoteData dev none 0)) ∧ s1.mem.bytes = s.mem.bytes) ∧
        (∀ d, op = .write d → (∃ k ∈ ks, liveHeader s k.1 = true) → ∃ s1 : State,
          exec (.remoteRequest dev pad ten win off op) s = .next (s1.say (.remoteData dev none 0)) ∧ s1.mem.bytes = s.mem.bytes) ∧
        (∀ m, op = .read m → (∀ k ∈ ks, s.poisoned k.1 k.2 = false) → (∀ k ∈ ks, ∀ y ∈ s.mem.sealed, y.1 = lineOf k.1 → y.2 = s.keyOf (whoOf e.pad ten)) →
          s.plainL2 → ∃ s1 : State, exec (.remoteRequest dev pad ten win off op) s =
            .next (s1.say (.remoteData dev (some (ks.flatMap (fun k => readBytes s.mem.bytes k.1 k.2))) 0)) ∧ s1.mem.bytes = s.mem.bytes) ∧
        (∀ d, op = .write d → (∀ k ∈ ks, liveHeader s k.1 = false) → ∃ s1 : State, s1.mem.bytes = s.mem.bytes ∧
          exec (.remoteRequest dev pad ten win off op) s = .next ((writeKeys s1 (whoOf e.pad ten) 0 ks d).1.say (.remoteData dev (some []) 0))) ∧
        (∀ code b new k, op = .amo code n b new → ks = [(k, n)] → code ≠ 9 → k % n = 0 → liveHeader s k = false → s.poisoned k n = false →
          (∀ y ∈ s.mem.sealed, y.1 = lineOf k → y.2 = s.keyOf (whoOf e.pad ten)) → s.plainL2 → s.memWf → ∃ s1 : State,
            exec (.remoteRequest dev pad ten win off op) s =
              .next (s1.say (.remoteData dev (some (toBytes n (s.read k n))) (atomicOp code (8 * n) (s.read k n) b.toNat).2)) ∧
            ∀ a, readByte s1.mem.bytes a = if k ≤ a ∧ a < k + n then
              (toBytes n (atomicOp code (8 * n) (s.read k n) b.toNat).1).getD (a - k) 0 else readByte s.mem.bytes a)))) ∧
  (∀ (s : State) (p : Paddock) (e : RangeEnt) (ten ia : Nat) (d : Denied), bits e.attr.toNat 4 3 = 2 → bits e.attr.toNat 2 1 = 3 →
    bits e.attr.toNat 22 12 ∉ s.ten.downRoutes → d ∈ s.ten.denied → d.pad = p.id → d.dev = bits e.attr.toNat 22 12 →
    d.win = bits e.attr.toNat 27 23 → d.first ≤ (ia + e.offset.toNat) % 2 ^ 56 →
    (d.reads = true → rangeUse s p ten e ia true false = .fault 0x15 3 0) ∧ (d.writes = true → rangeUse s p ten e ia false true = .fault 0x15 3 0)) ∧
  (∀ (s : State) (dev : Nat), (∀ t ∈ s.cores.tasks, t.queue = [] ∧ t.reds = []) →
    (∀ d ∈ s.eng.deliveries, ¬(bits d.word.toNat 63 62 = 2 ∧ regionOf d.key = 3 ∧ remoteDevice d.key = dev)) →
    ∃ s', exec (.linkDown dev) s = .next s' ∧ dev ∈ s'.ten.downRoutes ∧ (∀ r, r ∈ s'.mem.rtc ↔ r ∈ s.mem.rtc ∧ r.dev ≠ dev) ∧
      s'.cores = s.cores ∧ s'.fab = s.fab ∧ s'.eng = s.eng ∧
      (∀ y, y ∈ s'.mem.retired ↔ y ∈ s.mem.retired ∧ ∀ k, some k ∈ y.req.keys → ¬(regionOf k = 3 ∧ remoteDevice k = dev)) ∧
      ((∀ y ∈ s.mem.retired, y.req.toDevice dev = 0) → s'.mem.bytes = s.mem.bytes) ∧
      (∀ y, s.mem.retired = [y] → y.req.toDevice dev ≠ 0 → ∃ s1 : State, s1.mem.bytes = s.mem.bytes ∧ s1.ten.paddocks = s.ten.paddocks ∧
        let u := (writeRecord s1 y.task.part.toNat y.task.ten.toNat
          { code := 0x15, sub := 2, cfg := y.task.cfg.toNat, extra := BitVec.ofNat 64 (y.req.toDevice dev) }).1
        s'.mem.bytes = u.mem.bytes ∧ s'.ten = u.ten)) ∧
  (∀ (s : State) (dev : Nat) (t : Task) (r : Req) (c : Conf), s.fab.confs = [c] → s.cores.tasks = [t] → t.cid = c.cid →
    t.queue = [r] → t.reds = [] → r.toDevice dev ≠ 0 → s.eng.deliveries = [] →
    ∃ (s1 : State) (l : List Retired), s1.cores = s.cores ∧ s1.fab = s.fab ∧ exec (.linkDown dev) s =
        .next (let u := confFault s1 c.cid { code := 0x15, sub := 2, extra := BitVec.ofNat 64 (r.toDevice dev) }
          { u with mem := { u.mem with retired := l } }) ∧
      ∀ y ∈ l, y.req.toDevice dev = 0) ∧
  (∀ (dev : Nat) (r : Req) (ks : List Nat), r.keys = ks.map some → (∀ k ∈ ks, regionOf k = 3 ∧ remoteDevice k = dev) → r.toDevice dev = ks.length) ∧
  (∀ (s : State) (n : Nat), (n < 2048 → runAct (.deviceNumber n) s = .next { s with ten := { s.ten with device := n } }) ∧
    (2048 ≤ n → runAct (.deviceNumber n) s = .next s)) ∧
  (∀ (s : State) (dev : Nat) (c : Conf) (d : Delivery), s.fab.confs = [c] → s.cores.tasks = [] → s.eng.deliveries = [d] → d.cid = c.cid →
    bits d.word.toNat 63 62 = 2 → regionOf d.key = 3 → remoteDevice d.key = dev →
    ∃ (s1 : State) (l : List Retired), s1.cores = s.cores ∧ s1.fab = s.fab ∧ s1.eng.deliveries = [] ∧ exec (.linkDown dev) s =
        .next (let u := confFault s1 c.cid { code := 0x15, sub := 2, extra := 1 }; { u with mem := { u.mem with retired := l } })) ∧
  (∀ (s : State) (dev : Nat), ∃ s', exec (.routeRestore dev) s = .next s' ∧ dev ∉ s'.ten.downRoutes ∧ s'.mem = s.mem ∧ s'.cores = s.cores ∧
    (∀ d, d ≠ dev → (d ∈ s'.ten.downRoutes ↔ d ∈ s.ten.downRoutes))) ∧
  (∀ (s : State) (old new : Nat),
    ((movedTo s (old * 64)).isSome ∨ old = new ∨ moveFibre s old new = none → exec (.pageMigrate old new) s = .next s) ∧
    (movedTo s (old * 64) = none → old ≠ new → parked s (old * 64) = false → parked s (new * 64) = false →
      (∀ q ∈ s.mem.partials, q.line ≠ old) → (∀ f ∈ s.eng.fibres, lineOf f.key ≠ old) → s.plainL2 → s.memWf →
      ∃ s', exec (.pageMigrate old new) s = .next s' ∧ s'.mem.moved = s.mem.moved ++ [(old, new)] ∧ s'.cores = s.cores ∧ s'.fab = s.fab ∧
        ∀ a, readByte s'.mem.bytes a =
          if new * 64 ≤ a ∧ a < new * 64 + 64 then readByte s.mem.bytes (old * 64 + (a - new * 64)) else readByte s.mem.bytes a)) ∧
  (∀ (s : State) (b : Nat),
    exec (.dieCrossingLost b) s = .next ((s.ten.paddocks.filter (fun p => dieOfStrip p.first ≤ b ∧ b < dieOfStrip (p.first + p.count - 1))).foldl
      (fun s p => paddockFault s p.id 0x3F 2) s)) ∧
  (∀ (s : State) (p t page : Nat),
    let g := regionKey 1 0 / 2 ^ 16 + hostPageOf s p t page
    (pageBusy s g = true → exec (.atsInvalidate p t page) s = .next s) ∧
    (∀ c ∈ s.mem.hostOld, c.1 / 2 ^ 16 = g → pageBusy s g = true) ∧ (∀ d ∈ s.eng.deliveries, d.key / 2 ^ 16 = g → pageBusy s g = true) ∧
    (∀ x ∈ s.cores.tasks, ∀ r ∈ x.queue ++ x.reds, ∀ k, some k ∈ r.keys → k / 2 ^ 16 = g → pageBusy s g = true) ∧
    (pageBusy s g = false → ∃ s', exec (.atsInvalidate p t page) s = .next s' ∧ s'.hub.out = s.hub.out ++ [.atsDone page] ∧
      s'.mem.bytes = s.mem.bytes ∧ ∀ x, x ∈ s'.mem.ats ↔ x ∈ s.mem.ats ∧ ¬(x.pad = p ∧ x.ten = t ∧ x.page = page))) ∧
  (∀ (s : State) (p die : Nat) (ls : List Nat),
    (lengthsOk ls = false ∨ (p, die) ∉ s.mem.phases → exec (.packedTableUpdate p die ls) s = .next s) ∧
    (lengthsOk ls = true → (p, die) ∈ s.mem.phases → (∀ m ∈ s.mem.packMeta, False) →
      ∃ s' t, exec (.packedTableUpdate p die ls) s = .next s' ∧ currentTable s' p die = some t ∧ t.lens.map (·.2) = ls ∧
        (∀ c, currentTable s p die = some c → t.num = 1 - c.num) ∧ s'.mem.bytes = s.mem.bytes ∧ (p, die) ∉ s'.mem.phases ∧
        (∀ x ∈ s'.mem.samples, ¬(x.pad = p ∧ x.die = die))) ∧
    (currentTable s p die = none → exec (.packedSweep p die) s = .next s) ∧
    (∀ t, currentTable s p die = some t → ∃ s', exec (.packedSweep p die) s = .next s' ∧ s'.mem.bytes = s.mem.bytes ∧ s'.cores = s.cores ∧
      ∀ b ∈ codedWith s p die (1 - t.num), ∀ m, (b, m) ∈ s'.mem.packMeta → m = blockMeta (some t) (blockEls s b)))

/-! ### Bring-up, power and images -/

/-- Bring-up (R381 to R384): power-on does step 1 and the others follow of themselves; with the images of the factory, or with any that every
die accepts, the device reaches READY, its memory zeros; strips that own a failed pseudo-channel are excluded and stand in no paddock; with
none failed one paddock spans the device (AUTO for want of a boot policy, log 6, and identifier 1, log 20, are the model's). An image that a
die rejects, or a step that passes its limit, ends bring-up with BOOTERR, READY not set; a compute die that has started has measured its
boot ROM. A configuration request is to be asked again until step 6 has ended. -/
def Obligations.BringUpReachesReady : Prop :=
  (∀ s : State, runAct .bootNext s = .next (bootNext s) ∧ (s.hub.stage = 0 → bootNext s = s) ∧ (6 ≤ s.hub.stage → bootNext s = s) ∧
    (s.hub.bootDie ≠ 0 → bootNext s = s) ∧ (s.hub.bootDie = 0 → 1 ≤ s.hub.stage → s.hub.stage < 6 → Act.bootNext ∈ candidates s)) ∧
  (∀ failed : List Nat, ∃ s1, exec (.powerOnReset failed) State.reset = .next s1 ∧ s1.hub.stage = 1 ∧ s1.hub.ready = false ∧
    let s' := bootNext (bootNext (bootNext (bootNext (bootNext s1))))
    s'.hub.ready = true ∧ s'.hub.stage = 6 ∧ s'.hub.bootDie = 0 ∧
    s'.hub.excluded = excludedBy failed ∧ s'.mem.bytes = [] ∧
    (∀ p ∈ s'.ten.paddocks, ∀ f ∈ failed, f / 16 < p.first ∨ p.first + p.count ≤ f / 16) ∧
    (failed = [] → s'.ten.paddocks.map (fun p => (p.id, p.first, p.count, p.mask, p.mode, p.pen)) = [(1, 0, 64, 1, 0, 262144)])) ∧
  (∀ (s : State) (failed : List Nat), s.hub.stage = 0 → s.hub.bootDie = 0 → s.ten.paddocks = [] →
    (∀ d, d < 5 → ∃ b, s.hub.boots[d]? = some b ∧ (∀ f fuse, b.candidate 2 = some (f, fuse) → b.accepts f = true) ∧
      (d = 0 → ∀ f fuse, b.candidate 3 = some (f, fuse) →
        b.accepts f = true ∧ ∀ g, b.candidate 2 = some (g, true) → g.version ≤ f.version)) →
    ∃ s1, exec (.powerOnReset failed) s = .next s1 ∧
      let s' := bootNext (bootNext (bootNext (bootNext (bootNext s1))))
      s'.hub.ready = true ∧ s'.hub.stage = 6 ∧ s'.hub.bootDie = 0 ∧
      s'.hub.excluded = excludedBy failed ∧ s'.cores = s.cores ∧ s'.fab = s.fab ∧ s'.drv = s.drv ∧
      (∀ p ∈ s'.ten.paddocks, ∀ f ∈ failed, f / 16 < p.first ∨ p.first + p.count ≤ f / 16) ∧
      (s.memWf → ∀ a, regionOf a = 0 → offsetOf a < 256 * tileBytes → readByte s'.mem.bytes a = 0)) ∧
  (∀ (s : State) (failed : List Nat), s.hub.stage ≠ 0 → exec (.powerOnReset failed) s = .next s) ∧
  (∀ (s : State) (b : DieBoot) (f : Firmware) (fuse : Bool), s.hub.stage = 1 → s.hub.bootDie = 0 → s.hub.boots[0]? = some b →
    b.candidate 2 = some (f, fuse) → b.accepts f = false →
    (bootNext s).hub.bootDie = 1 ∧ (bootNext s).hub.bootStep = 2 ∧ (bootNext s).hub.ready = s.hub.ready ∧ (bootNext s).ten = s.ten ∧
      ((bootNext s).hub.boots[0]?).map (·.inRom) = some true) ∧
  (∀ (b : DieBoot) (f : Firmware), b.accepts f = true ↔ f.keyHash = b.keyHash ∧ f.sigOk = true ∧ b.version ≤ f.version) ∧
  (∀ (s : State) (die stage : Nat), 2 ≤ stage → stage ≤ 6 → (stage = 3 → 1 ≤ die ∧ die ≤ 4) → (stage ≠ 3 → die = 0) →
    (stage = s.hub.stage + 1 → s.hub.bootDie = 0 →
      ∃ s', exec (.bootStepTimeout die stage) s = .next s' ∧ s'.hub.bootDie = die + 1 ∧ s'.hub.bootStep = stage ∧ s'.hub.ready = s.hub.ready ∧
        s'.mem = s.mem ∧ s'.ten = s.ten ∧
        (stage = 3 → ∀ b, s'.hub.boots[die]? = some b → b.inRom = true ∧ (b.measured.find? (fun m => m.1 = 1)).isSome = true)) ∧
    (stage ≠ s.hub.stage + 1 → exec (.bootStepTimeout die stage) s = .next s)) ∧
  (∀ s : State, (s.hub.stage < 6 → s.hub.bootDie = 0 → runAct .configRequest s = .next (s.say (.configAnswer true))) ∧
    (6 ≤ s.hub.stage ∨ s.hub.bootDie ≠ 0 → runAct .configRequest s = .next (s.say (.configAnswer false))))

/-- The side-band port (R380, R382, R388): from step 1 on it answers a measurement, of a die in its boot ROM index 1 only; it reads
sensors and states; an image that it takes waits for the next reset. Power and heat (R386, R387): a surge, the package's limit or a hot die
throttles issue by one to fifteen of sixteen cycles, each of which is counted, until nothing asks for it; a die beyond its second threshold
ends its paddocks' work, sets THERM and closes its channels, and no paddock is made on it. How many cycles are skipped, and which, is the
model's, log 19. -/
def Obligations.HousekeepingActs : Prop :=
  ((∀ (s : State) (die index : Nat) (b : DieBoot), s.hub.boots[die]? = some b →
      (s.hub.stage = 0 → s.hub.bootDie = 0 → exec (.spdmRequest die index) s = .next s ∧ exec .pldmMonitor s = .next s) ∧
      (1 ≤ s.hub.stage ∨ s.hub.bootDie ≠ 0 →
        (b.inRom = true → index ≠ 1 → exec (.spdmRequest die index) s = .next (s.say (.spdm die index none b.identity))) ∧
        (b.inRom = false ∨ index = 1 → ∀ v, b.measured.find? (fun m => m.1 = index) = some (index, v) →
          exec (.spdmRequest die index) s = .next (s.say (.spdm die index (some v) b.identity))))) ∧
    (∀ s : State, 1 ≤ s.hub.stage →
      ∃ s', exec .pldmMonitor s = .next s' ∧ s'.mem = s.mem ∧ s'.cores = s.cores ∧ s'.ten = s.ten ∧
        ∃ rails, s'.hub.out = s.hub.out ++ [.monitor s.hub.hstat s'.hub.pwr.toNat rails s'.hub.temp.toNat s.hub.skipMask
          (s.ten.paddocks.map (fun p => BitVec.ofNat 64 p.pstat))]) ∧
    (∀ (s : State) (die index kh ver : Nat) (sig fuse : Bool) (body : List Byte) (b : DieBoot), s.hub.boots[die]? = some b →
      (index ≠ 2 → ¬(die = 0 ∧ index = 3) → exec (.pldmFirmwareUpdate die index kh ver sig body fuse) s = .next s) ∧
      (1 ≤ s.hub.stage → index = 2 ∨ (die = 0 ∧ index = 3) →
        ∃ s' b', exec (.pldmFirmwareUpdate die index kh ver sig body fuse) s = .next s' ∧ s'.hub.boots[die]? = some b' ∧
          b'.candidate index = some ({ keyHash := kh, version := ver, sigOk := sig, body := body }, fuse) ∧ b'.images = b.images ∧
          b'.version = b.version ∧ s'.mem = s.mem ∧ s'.ten = s.ten))) ∧
  ((∀ s : State, ∃ s', exec .powerSurgeLimit s = .next s' ∧ s'.hub.surge = true ∧ 1 ≤ s'.hub.skip ∧ s'.hub.skip ≤ 15 ∧ s'.mem = s.mem ∧
      s'.cores = s.cores ∧ s'.fab = s.fab) ∧
    (∀ (s : State) (die : Nat), die < 4 → ∃ s', exec (.thermalThreshold1 die) s = .next s' ∧ die ∈ s'.hub.hot ∧ 1 ≤ s'.hub.skip ∧
      s'.hub.skip ≤ 15 ∧ s'.mem = s.mem ∧ s'.cores = s.cores ∧ s'.fab = s.fab) ∧
    (∀ s : State, ∃ s', exec .currentBelowLimit s = .next s' ∧ s'.hub.surge = false ∧ s'.hub.hot = s.hub.hot ∧
      s'.hub.skip = (if s.hub.hot = [] ∧ s.hub.atLimit = false then 0 else s.hub.skip) ∧ s'.mem = s.mem ∧ s'.cores = s.cores) ∧
    (∀ (s : State) (die : Nat), ∃ s', exec (.junctionBelowThreshold die) s = .next s' ∧ (∀ d, d ∈ s'.hub.hot ↔ d ∈ s.hub.hot ∧ d ≠ die) ∧
      s'.hub.skip = (if s.hub.surge = false ∧ s.hub.atLimit = false ∧ (∀ d ∈ s.hub.hot, d = die) then 0 else s.hub.skip) ∧ s'.mem = s.mem ∧ s'.cores = s.cores) ∧
    (∀ (s : State) (die : Nat), die < 4 → ∃ s', exec (.thermalThreshold2 die) s = .next s' ∧ s'.hub.therm = true ∧ die ∈ s'.hub.dead ∧
      (∃ s0 : State, s0.ten = s.ten ∧ s0.mem = s.mem ∧ s0.cores = s.cores ∧ s0.fab = s.fab ∧ s0.eng = s.eng ∧ s0.drv = s.drv ∧
        let u := (s.ten.paddocks.filter (fun p => dieOfStrip p.first ≤ die ∧ die ≤ dieOfStrip (p.first + p.count - 1))).foldl
          (fun s p => (paddockFault s p.id 0x3F 3).mapPad p.id (fun p => { p with ended := true })) s0
        s' = { spillDie u die with hub := s'.hub }) ∧
      (∀ a, dieOf (homeTile a) = die → channelDown s' a = true) ∧
      (∀ e k, bits e 5 0 ≤ k → k ≤ bits e 5 0 + bits e 13 8 → dieOfStrip k = die → entSkipped s' e = true) ∧
      (s.ten.paddocks = [] → s.eng.units = [] → s'.mem = s.mem ∧ s'.cores = s.cores ∧ s'.fab = s.fab)) ∧
    (∀ s : State, (∃ s', runAct (.powerLimit true) s = .next s' ∧ s'.hub.atLimit = true ∧ 1 ≤ s'.hub.skip ∧ s'.hub.skip ≤ 15 ∧ s'.mem = s.mem) ∧
      ∃ s', runAct (.powerLimit false) s = .next s' ∧ s'.hub.atLimit = false ∧
        s'.hub.skip = (if s.hub.surge = false ∧ s.hub.hot = [] then 0 else s.hub.skip)) ∧
    (∀ s : State, s.hub.skip ≤ 16 → (advance s 1).hub.skipped = s.hub.skipped + (if s.hub.skips (s.ctl.now + 1) = true then 1 else 0)) ∧
    (∀ (s : State) (p : Paddock) (code sub : Nat), s.pad? p.id = some p →
      let s' := paddockFault s p.id code sub
      (∀ l ∈ s'.drv.launches, l.pad ≠ p.id) ∧ (∀ k ∈ s'.drv.ckpts, k.conf.pad ≠ p.id) ∧ (∀ g ∈ s'.eng.progs, g.pad ≠ p.id) ∧
      (∀ q ∈ s'.mem.pages, q.pad = p.id → q.stale = true)))

/-- Loading an image (R83 to R87): a rejected file or one for no tenant places nothing; a section goes to its base with its relocations
applied, on no NM page and `.rodata` on no writable one, and two sections share no page of either kind: ABS64 and CFGREF put S + A into 64
bits, MOVI and MOVHI sixteen bits of it into the immediate. Which sections are mapped, and that one that cannot be, or that shares a page, makes
the load place nothing, is the model's choice, log 56. -/
def Obligations.ImagesArePlaced : Prop :=
  (∀ (s : State) (p t : Nat) (f : List Byte) (bases : List Nat) (es : List (Nat × BitVec 64)) (rs : List (Nat × Nat × Nat × Nat × Nat × Nat)),
    (dofRejected f = true ∨ (s.tenant p t).enabled = false → exec (.imageLoad p t f bases es rs) s = .next s) ∧
    (dofHeaderBad f = true → dofRejected f = true) ∧
    (∀ c i ks, dofRejected f = false → (s.tenant p t).enabled = true → mappedSections f = [(c, i)] → (∀ y ∈ dofSymbols f, y.kind ≠ 6) →
      s.mem.partials = [] →
      bases.getD i 0 % 2 ^ c.align = 0 → sectionKeys s p t (bases.getD i 0) c.len (c.type = 6) = some ks →
      (∀ k ∈ ks, mayPass s k.1 7 0 = true ∧ liveHeader s k.1 = false) →
      ∃ s', exec (.imageLoad p t f bases [] rs) s = .next s' ∧ s'.mem = (writeKeys s (whoOf p t) 0 ks (sectionBytes f bases rs i c)).1.mem ∧ s'.cores = s.cores ∧
        s'.fab = s.fab ∧ s'.drv.launches = s.drv.launches ∧
        ∀ r ∈ rs, ∃ x ∈ s'.drv.texts, x.pad = p ∧ x.ten = t ∧ x.word = bases.getD r.1 0 + r.2.1 ∧
          x.va = bases.getD r.2.2.1 0 + r.2.2.2.1 ∧ x.words = r.2.2.2.2.1 ∧ x.first = r.2.2.2.2.2)) ∧
  (∀ (s : State) (p t : Nat) (f : List Byte) (bases : List Nat) (rs : List (Nat × Nat × Nat × Nat × Nat × Nat)) (x y : DofSection × Nat),
    x ∈ mappedSections f → y ∈ mappedSections f → x.2 ≠ y.2 → x.1.len ≠ 0 → y.1.len ≠ 0 →
    (∃ a ∈ sectionLeaves s p t (bases.getD x.2 0) x.1.len, a ∈ sectionLeaves s p t (bases.getD y.2 0) y.1.len) →
    ∃ n, exec (.imageLoad p t f bases [] rs) s = .next (s.countDrops p n) ∨ exec (.imageLoad p t f bases [] rs) s = .next s) ∧
  (∀ (r : DofReloc) (S old : Nat), old < 2 ^ 32 →
    let v := ofBytes (r.patch S old)
    (r.type = 1 ∨ r.type = 5 → v = (S + r.addend) % 2 ^ 64 ∧ (r.patch S old).length = 8) ∧
    (r.type = 3 → bits v 24 9 = (S + r.addend) % 2 ^ 16 ∧ v % 2 ^ 9 = old % 2 ^ 9 ∧ v / 2 ^ 25 = old / 2 ^ 25 ∧ (r.patch S old).length = 4) ∧
    (r.type = 4 → r.shift < 4 → bits v 24 9 = (S + r.addend) % 2 ^ 64 / 2 ^ (16 * r.shift) % 2 ^ 16 ∧ v % 2 ^ 9 = old % 2 ^ 9 ∧
      v / 2 ^ 25 = old / 2 ^ 25 ∧ (r.patch S old).length = 4))

/-! ### Faults, frames, reset and the invariant of memory -/

/-- Taking a fault (R29, R63, R64, R344 to R348): a bad field or target raises ILLEGAL, a poisoned operand POISON (a bad field and a word
that is no instruction count among the firings that are not null, also where an operand is: the model's choice, log 46); the record goes to the
fault area; a held task waits in FAULTED with its registers as committed, the fired flags kept and the record's address in `x.fault`;
another fault ends the configuration, and an error in the paddock's state the paddock's work. -/
def Obligations.FaultsAreTaken : Prop :=
  (∀ (s : State) (i : Instr) (t : Task) (f : Frame) (idx : Nat) (x : Ins), (encode i).isSome → i.link = none → waiting? s = none →
    firing? s i = some (t, f, idx, x) →
    (∀ sub, i.badSub = some sub →
      exec i s = .next (blockFault s (t.count 1) (f.fired idx x) { code := 0x01, sub := sub, idx := idx })) ∧
    (i.badSub = none → x.firesNull i = false → i.targets.any (targetIllegal s (t.count 1) (f.fired idx x) idx) = true →
      exec i s = .next (blockFault s (t.count 1) (f.fired idx x) { code := 0x01, sub := 3, idx := idx })) ∧
    (x.firesNull i = false → firingFault s (t.count 1) (f.fired idx x) idx i i.targets = none → i.badSub = none → x.poisoned i = true →
      exec i s = .next (blockFault s (t.count 1) (f.fired idx x) { code := 0x16, sub := 1, idx := idx }))) ∧
  (∀ (s : State) (w : BitVec 1) (c : BitVec 6) (l : BitVec 2) (d : BitVec 5) (a b : BitVec 9) (t : Task) (f : Frame) (idx : Nat) (x : Ins),
    waiting? s = none →
    ∀ i ∈ [Instr.ialu w c a b, .vialu l d a b], i.badSub = some 2 → firing? s i = some (t, f, idx, x) → x.firesNull i = true →
      exec i s = .next (blockFault s (t.count 1) (f.fired idx x) { code := 0x01, sub := 2, idx := idx })) ∧
  (∀ (s : State) (dt pos slot idx : Nat) (rest : List (Nat × Act)) (t : Task) (f : Frame), s.ctl.sched = (dt, .fire pos slot idx) :: rest →
    let s1 := advance s 0
    let u := advance { s1 with ctl := { s1.ctl with sched := rest } } dt
    (dt = 0 ∨ dueActs s1 = []) → span s1 dt = dt → firstActs (advance s1 dt) = [] → (issueOrder u pos).head? = some (slot, idx) →
    sendFaultFirst u pos slot f idx = false → u.task? pos slot = some t → t.frame = some f → decodeWord (u.insWord pos f.hdr idx) = none → t.st = .running → t.saved = false →
    idx < f.n → readyAt u t f idx = true →
    step s = .next (blockFault u (t.count 1) f { code := 0x01, sub := illegalSub (u.insWord pos f.hdr idx), idx := idx })) ∧
  (∀ (s : State) (t t0 : Task) (f : Frame) (r : Raise) (c : Conf), s.conf? t.cid = some c → s.task? t.pos t.slot = some t0 →
    let u := blockFault s t f r
    let holdIt := faultClass r.code r.sub = .holdable ∧ holds (s.tenant c.pad c.ten) r.code = true
    (holdIt →
      let w := writeRecord s c.pad c.ten { code := r.code, sub := r.sub, held := true, cfg := c.ident, tile := t.pos, slot := t.slot, idx := r.idx
                                           blk := f.hdr, addr := r.addr, extra := r.extra, cyc := s.ctl.now - t.bound
                                           graph := ((s.launch? c.launch).map (·.graph)).getD 0, node := c.node }
      u.task? t.pos t.slot = some { t with
          flg := t.flg ||| BitVec.ofNat 64 (f.flags ||| r.flags), scope := if t.narrowedBy f then t.scope ||| 1 else t.scope
          frame := none, st := .faulted, fault := w.2, held := true, code := r.code, perf := t.perf.set! 7 (t.perf.toList.getD 7 0 + 1) } ∧
        u.fab = s.fab ∧ u.eng = s.eng ∧ u.drv.launches = s.drv.launches ∧ u.cores.bars = s.cores.bars ∧
        (∀ pos slot, ¬(pos = t.pos ∧ slot = t.slot) → u.task? pos slot = s.task? pos slot) ∧
        ((s.tenant c.pad c.ten).fasize < 2 ^ 32 → (s.tenant c.pad c.ten).nqsize < 2 ^ 32 → s.memWf →
          ∀ k, regionOf k ≠ 1 → readByte u.mem.bytes k = readByte s.mem.bytes k)) ∧
    (¬ holdIt → (∀ y ∈ u.fab.confs, y.cid ≠ t.cid) ∧ (∀ y ∈ u.cores.tasks, y.cid ≠ t.cid))) ∧
  (∀ (s : State) (p : Nat) (x : Paddock), s.pad? p = some x → runAct (.stateError p) s = .next (paddockFault s p 0x3F 1) ∧
    (∀ l ∈ (paddockFault s p 0x3F 1).drv.launches, l.pad ≠ p) ∧ (∀ g ∈ (paddockFault s p 0x3F 1).eng.progs, g.pad ≠ p)) ∧
  (∀ (s : State) (pad ten : Nat) (p : Paddock) (r : FaultRec), s.pad? pad = some p → ten < 4 → s.memWf →
    let t := p.tenant ten
    let full := t.fabase = 0 ∨ t.fasize = 0 ∨ (t.fahead + 2 ^ 32 - t.fatail) % 2 ^ 32 = t.fasize
    let u := writeRecord s pad ten r
    (full → u.2 = 0 ∧ u.1.mem = s.mem ∧ (u.1.tenant pad ten).falost = (t.falost + 1) % 2 ^ 32 ∧ (u.1.tenant pad ten).lost = true) ∧
    (¬ full →
      let a := t.fabase.toNat + 64 * (t.fahead % t.fasize)
      u.2 = BitVec.ofNat 64 a ∧ (u.1.tenant pad ten).fahead = (t.fahead + 1) % 2 ^ 32 ∧
      readBytes u.1.mem.bytes (regionKey 1 a) 64 = r.bytes ten pad p.seq t.lost ∧
      ∀ k, k < regionKey 1 a ∨ regionKey 1 a + 64 ≤ k → readByte u.1.mem.bytes k = readByte s.mem.bytes k))

/-- The frame of the instructions that work on tokens and registers only (R18, R26, R29, R92 to R110, R113, R117 to R132): whatever one
answers, either nothing changed, or only its task changed, by a count of firings and its block's frame, of which the registers as
committed, the header and the memory chain stay, or its block took a fault. Memory, special registers and other tasks stay, but that the
timestamp of a task that joins a copy by a GET may rise, and it then owes what the copy has written to host memory (R251, R253). -/
def Obligations.RegisterInstructionFrame : Prop :=
  (∀ (o : BitVec 23) (g x7 : BitVec 7) (g6 i6 c6 : BitVec 6) (t u : BitVec 9) (im : BitVec 16) (w1 a1 : BitVec 1) (f3 : BitVec 3)
    (c4 d4 s4 : BitVec 4) (w2 m2 : BitVec 2) (v5 c5 : BitVec 5),
    ∀ i ∈ [Instr.br o, .call o, .ybr o, .brx, .callx, .ret, .tend, .trap, .bkpt, .get g6 t u, .movi im u, .movhi im u, .flowMov t u, .steerD t u,
      .steerN t u, .flowMerge t u, .flowNull t u, .flowJoin t u, .sel t u, .getx x7 t u, .putx g t u, .ialu w1 c6 t u, .addi im u, .andi im u,
      .ori im u, .xori im u, .shli i6 u, .shri i6 u, .sari i6 u, .cmpeqi im u, .cmplti im u, .cmpltui im u, .muli im u, .falu f3 c4 t u,
      .faluDyn c4 t u, .cvt d4 s4 w2 a1 m2 u, .cvtx d4 s4 u, .perf t u, .waitt t u, .vget v5 t u, .splat w2 t u, .vext w2 v5 t u, .vflowMov t u,
      .vflowSteerD t u, .vflowSteerN t u, .vflowMerge t u, .vflowNull t u, .vflowJoin t u, .vsel t u, .vins w2 v5 t u, .vialu w2 c5 t u,
      .vfalu f3 c4 t u, .vcvt d4 s4 w2 a1 m2 u, .vqnt d4 w2 s4 u, .vdqnt d4 w2 s4 u, .vscacc a1 t u, .vperm w2 c5 t u, .vred f3 c4 t u, .vmatch u],
    ∀ (s : State), exec i s = .next s ∨ ∃ pos slot idx k f f' n, s.ctl.focus = .fire pos slot idx ∧ s.task? pos slot = some k ∧
      k.frame = some f ∧ f'.hdr = f.hdr ∧ f'.n = f.n ∧ f'.m = f.m ∧ f'.w = f.w ∧ f'.g0 = f.g0 ∧ f'.spr = f.spr ∧ f'.chain = f.chain ∧ f'.id = f.id ∧
      (exec i s = .next (s.setFrame k f') ∨ exec i s = .next (s.setFrame (k.count n) f') ∨
        (∃ g p o, i = .get g t u ∧ k.pts.toNat ≤ p.toNat ∧ (∀ l ∈ k.owed, l ∈ o) ∧ exec i s = .next (s.setFrame { (k.count n) with pts := p, owed := o } f')) ∨
        ∃ r, exec i s = .next (blockFault s k f' r) ∨ exec i s = .next (blockFault s (k.count n) f' r))) ∧
  (∀ (s : State) (k : Task) (f : Frame) (n : Nat), s.task? k.pos k.slot = some k →
    let u := s.setFrame (k.count n) f
    u.mem = s.mem ∧ u.fab = s.fab ∧ u.eng = s.eng ∧ u.drv = s.drv ∧ u.ten = s.ten ∧ u.hub = s.hub ∧ u.ctl = s.ctl ∧ u.cores.bars = s.cores.bars ∧
    (∀ a, readByte u.mem.bytes a = readByte s.mem.bytes a) ∧
    (∀ pos slot, ¬(pos = k.pos ∧ slot = k.slot) → u.task? pos slot = s.task? pos slot) ∧
    ∃ p, u.task? k.pos k.slot = some { k with frame := some f, perf := p })

/-- Power-on (R302, R345, R376, R381, R389): the device is not READY, no paddock, configuration, task or launch exists, and memory lists
nothing, which is its canonical form; a function's registers are 0, FPOL holds its lower two classes; a task is bound with registers
of zeros (R13, R176; memory's zeros and the registers that the spec leaves open are the model's, logs 4 and 10). -/
def Obligations.ResetLeaves : Prop :=
  State.reset.hub.ready = false ∧ State.reset.hub.stage = 0 ∧ State.reset.hub.bootDie = 0 ∧ State.reset.ten.paddocks = [] ∧
  State.reset.fab.confs = [] ∧ State.reset.cores.tasks = [] ∧ State.reset.drv.launches = [] ∧ State.reset.drv.ckpts = [] ∧
  State.reset.mem.bytes = [] ∧ State.reset.memWf ∧ (windowRead State.reset none 0x000 4).2 = 0 ∧ (windowRead State.reset none 0x004 4).2 = 1 ∧
  Tenant.reset.fpol = 3 ∧ Tenant.reset.lflg = 0 ∧ Tenant.reset.nqsize = 0 ∧ Tenant.reset.fabase = 0 ∧ Tenant.reset.tdi = .unlocked ∧
  Tenant.reset.fgen = 0 ∧ Tenant.reset.lstat = 0 ∧ (∀ a, readByte State.reset.mem.bytes a = 0) ∧
  ∀ (s : State) (p : Paddock) (l : Load) (cid ident first w : Nat) (ws : List Nat),
    let t := bindTask s p l cid ident first ws w
    t.st = .idle ∧ t.g = Vector.replicate 64 0 ∧ t.v = Vector.replicate 32 0 ∧ t.lnk = 0 ∧ t.flg = 0 ∧ t.rm = 0 ∧ t.fault = 0 ∧ t.scope = 0 ∧
    t.shp = Vector.replicate 8 0 ∧ t.frame = none ∧ t.cur = bits w 37 24 ∧ t.prio = bits w 23 22 ∧ t.cid = cid

/-- Every step, whatever it runs, keeps memory in its canonical form: addresses rise strictly and no entry equals what an unlisted byte
reads as (the form is the model's, log 4). -/
def Obligations.StepKeepsMemoryCanonical : Prop :=
  ∀ s s' : State, s.memWf → step s = .next s' → s'.memWf
end

