-- ==== Sys2Proof/Laws/Dispatch.lean ====
section
/-! SUPPORT. The meaning of each instruction is its own: what `exec` answers, one equation per constructor. -/

namespace Sys2Proof.Machine

@[simp] theorem exec_br (o) (s : State) :
    exec (Instr.br o) s = execBr o s := rfl
@[simp] theorem exec_call (o) (s : State) :
    exec (Instr.call o) s = execCall o s := rfl
@[simp] theorem exec_ybr (o) (s : State) :
    exec (Instr.ybr o) s = execYbr o s := rfl
@[simp] theorem exec_brx (s : State) :
    exec (Instr.brx) s = execBrx s := rfl
@[simp] theorem exec_callx (s : State) :
    exec (Instr.callx) s = execCallx s := rfl
@[simp] theorem exec_ret (s : State) :
    exec (Instr.ret) s = execRet s := rfl
@[simp] theorem exec_tend (s : State) :
    exec (Instr.tend) s = execTend s := rfl
@[simp] theorem exec_trap (s : State) :
    exec (Instr.trap) s = execTrap s := rfl
@[simp] theorem exec_bkpt (s : State) :
    exec (Instr.bkpt) s = execBkpt s := rfl
@[simp] theorem exec_get (g) (t) (u) (s : State) :
    exec (Instr.get g t u) s = execGet g t u s := rfl
@[simp] theorem exec_movi (i) (u) (s : State) :
    exec (Instr.movi i u) s = execMovi i u s := rfl
@[simp] theorem exec_movhi (i) (u) (s : State) :
    exec (Instr.movhi i u) s = execMovhi i u s := rfl
@[simp] theorem exec_flowMov (t) (u) (s : State) :
    exec (Instr.flowMov t u) s = execFlowMov t u s := rfl
@[simp] theorem exec_steerD (t) (u) (s : State) :
    exec (Instr.steerD t u) s = execSteerD t u s := rfl
@[simp] theorem exec_steerN (t) (u) (s : State) :
    exec (Instr.steerN t u) s = execSteerN t u s := rfl
@[simp] theorem exec_flowMerge (t) (u) (s : State) :
    exec (Instr.flowMerge t u) s = execFlowMerge t u s := rfl
@[simp] theorem exec_flowNull (t) (u) (s : State) :
    exec (Instr.flowNull t u) s = execFlowNull t u s := rfl
@[simp] theorem exec_flowJoin (t) (u) (s : State) :
    exec (Instr.flowJoin t u) s = execFlowJoin t u s := rfl
@[simp] theorem exec_sel (t) (u) (s : State) :
    exec (Instr.sel t u) s = execSel t u s := rfl
@[simp] theorem exec_recv (p) (e) (t) (u) (s : State) :
    exec (Instr.recv p e t u) s = execRecv p e t u s := rfl
@[simp] theorem exec_arrive (b) (t) (u) (s : State) :
    exec (Instr.arrive b t u) s = execArrive b t u s := rfl
@[simp] theorem exec_arriveRlx (b) (t) (u) (s : State) :
    exec (Instr.arriveRlx b t u) s = execArriveRlx b t u s := rfl
@[simp] theorem exec_wait (b) (t) (u) (s : State) :
    exec (Instr.wait b t u) s = execWait b t u s := rfl
@[simp] theorem exec_barcfg (b) (t) (u) (s : State) :
    exec (Instr.barcfg b t u) s = execBarcfg b t u s := rfl
@[simp] theorem exec_rarrive (e) (t) (u) (s : State) :
    exec (Instr.rarrive e t u) s = execRarrive e t u s := rfl
@[simp] theorem exec_remoteArrivalApply (k) (s : State) :
    exec (Instr.remoteArrivalApply k) s = execRemoteArrivalApply k s := rfl
@[simp] theorem exec_rnext (t) (u) (s : State) :
    exec (Instr.rnext t u) s = execRnext t u s := rfl
@[simp] theorem exec_stealRequest (k) (s : State) :
    exec (Instr.stealRequest k) s = execStealRequest k s := rfl
@[simp] theorem exec_stealReply (k) (s : State) :
    exec (Instr.stealReply k) s = execStealReply k s := rfl
@[simp] theorem exec_getx (x) (t) (u) (s : State) :
    exec (Instr.getx x t u) s = execGetx x t u s := rfl
@[simp] theorem exec_putx (x) (t) (u) (s : State) :
    exec (Instr.putx x t u) s = execPutx x t u s := rfl
@[simp] theorem exec_ialu (w) (c) (t) (u) (s : State) :
    exec (Instr.ialu w c t u) s = execIalu w c t u s := rfl
@[simp] theorem exec_addi (i) (u) (s : State) :
    exec (Instr.addi i u) s = execAddi i u s := rfl
@[simp] theorem exec_andi (i) (u) (s : State) :
    exec (Instr.andi i u) s = execAndi i u s := rfl
@[simp] theorem exec_ori (i) (u) (s : State) :
    exec (Instr.ori i u) s = execOri i u s := rfl
@[simp] theorem exec_xori (i) (u) (s : State) :
    exec (Instr.xori i u) s = execXori i u s := rfl
@[simp] theorem exec_shli (i) (u) (s : State) :
    exec (Instr.shli i u) s = execShli i u s := rfl
@[simp] theorem exec_shri (i) (u) (s : State) :
    exec (Instr.shri i u) s = execShri i u s := rfl
@[simp] theorem exec_sari (i) (u) (s : State) :
    exec (Instr.sari i u) s = execSari i u s := rfl
@[simp] theorem exec_cmpeqi (i) (u) (s : State) :
    exec (Instr.cmpeqi i u) s = execCmpeqi i u s := rfl
@[simp] theorem exec_cmplti (i) (u) (s : State) :
    exec (Instr.cmplti i u) s = execCmplti i u s := rfl
@[simp] theorem exec_cmpltui (i) (u) (s : State) :
    exec (Instr.cmpltui i u) s = execCmpltui i u s := rfl
@[simp] theorem exec_muli (i) (u) (s : State) :
    exec (Instr.muli i u) s = execMuli i u s := rfl
@[simp] theorem exec_falu (f) (c) (t) (u) (s : State) :
    exec (Instr.falu f c t u) s = execFalu f c t u s := rfl
@[simp] theorem exec_faluDyn (c) (t) (u) (s : State) :
    exec (Instr.faluDyn c t u) s = execFaluDyn c t u s := rfl
@[simp] theorem exec_cvt (d) (src) (h) (a) (m) (u) (s : State) :
    exec (Instr.cvt d src h a m u) s = execCvt d src h a m u s := rfl
@[simp] theorem exec_cvtx (d) (src) (u) (s : State) :
    exec (Instr.cvtx d src u) s = execCvtx d src u s := rfl
@[simp] theorem exec_bmode (t) (u) (s : State) :
    exec (Instr.bmode t u) s = execBmode t u s := rfl
@[simp] theorem exec_mshape (n) (f) (t) (u) (s : State) :
    exec (Instr.mshape n f t u) s = execMshape n f t u s := rfl
@[simp] theorem exec_acopy (g) (t) (u) (s : State) :
    exec (Instr.acopy g t u) s = execAcopy g t u s := rfl
@[simp] theorem exec_copyStart (k) (s : State) :
    exec (Instr.copyStart k) s = execCopyStart k s := rfl
@[simp] theorem exec_ringReserve (k) (s : State) :
    exec (Instr.ringReserve k) s = execRingReserve k s := rfl
@[simp] theorem exec_copyComplete (k) (s : State) :
    exec (Instr.copyComplete k) s = execCopyComplete k s := rfl
@[simp] theorem exec_rbwait (src) (t) (u) (s : State) :
    exec (Instr.rbwait src t u) s = execRbwait src t u s := rfl
@[simp] theorem exec_rbrel (t) (u) (s : State) :
    exec (Instr.rbrel t u) s = execRbrel t u s := rfl
@[simp] theorem exec_rbopen (t) (u) (s : State) :
    exec (Instr.rbopen t u) s = execRbopen t u s := rfl
@[simp] theorem exec_rbclose (t) (u) (s : State) :
    exec (Instr.rbclose t u) s = execRbclose t u s := rfl
@[simp] theorem exec_ldb (q) (p) (d) (o) (u) (s : State) :
    exec (Instr.ldb q p d o u) s = execLdb q p d o u s := rfl
@[simp] theorem exec_ldbz (q) (p) (d) (o) (u) (s : State) :
    exec (Instr.ldbz q p d o u) s = execLdbz q p d o u s := rfl
@[simp] theorem exec_ldh (q) (p) (d) (o) (u) (s : State) :
    exec (Instr.ldh q p d o u) s = execLdh q p d o u s := rfl
@[simp] theorem exec_ldhz (q) (p) (d) (o) (u) (s : State) :
    exec (Instr.ldhz q p d o u) s = execLdhz q p d o u s := rfl
@[simp] theorem exec_ldw (q) (p) (d) (o) (u) (s : State) :
    exec (Instr.ldw q p d o u) s = execLdw q p d o u s := rfl
@[simp] theorem exec_ldwz (q) (p) (d) (o) (u) (s : State) :
    exec (Instr.ldwz q p d o u) s = execLdwz q p d o u s := rfl
@[simp] theorem exec_ldd (q) (p) (d) (o) (u) (s : State) :
    exec (Instr.ldd q p d o u) s = execLdd q p d o u s := rfl
@[simp] theorem exec_stb (q) (p) (d) (o) (s : State) :
    exec (Instr.stb q p d o) s = execStb q p d o s := rfl
@[simp] theorem exec_sth (q) (p) (d) (o) (s : State) :
    exec (Instr.sth q p d o) s = execSth q p d o s := rfl
@[simp] theorem exec_stw (q) (p) (d) (o) (s : State) :
    exec (Instr.stw q p d o) s = execStw q p d o s := rfl
@[simp] theorem exec_std (q) (p) (d) (o) (s : State) :
    exec (Instr.std q p d o) s = execStd q p d o s := rfl
@[simp] theorem exec_memoryIssue (pe) (slot) (s : State) :
    exec (Instr.memoryIssue pe slot) s = execMemoryIssue pe slot s := rfl
@[simp] theorem exec_loadResponse (pe) (slot) (cached) (s : State) :
    exec (Instr.loadResponse pe slot cached) s = execLoadResponse pe slot cached s := rfl
@[simp] theorem exec_amo (q) (p) (d) (c) (z) (e) (u) (s : State) :
    exec (Instr.amo q p d c z e u) s = execAmo q p d c z e u s := rfl
@[simp] theorem exec_amoCas (q) (p) (d) (z) (e) (u) (s : State) :
    exec (Instr.amoCas q p d z e u) s = execAmoCas q p d z e u s := rfl
@[simp] theorem exec_amod (q) (p) (d) (c) (z) (s : State) :
    exec (Instr.amod q p d c z) s = execAmod q p d c z s := rfl
@[simp] theorem exec_amodDelivery (k) (s : State) :
    exec (Instr.amodDelivery k) s = execAmodDelivery k s := rfl
@[simp] theorem exec_red (q) (p) (d) (c) (z) (e) (s : State) :
    exec (Instr.red q p d c z e) s = execRed q p d c z e s := rfl
@[simp] theorem exec_partialLineEvict (k) (s : State) :
    exec (Instr.partialLineEvict k) s = execPartialLineEvict k s := rfl
@[simp] theorem exec_fence (q) (p) (d) (e) (j) (u) (s : State) :
    exec (Instr.fence q p d e j u) s = execFence q p d e j u s := rfl
@[simp] theorem exec_fprb (q) (p) (d) (u) (s : State) :
    exec (Instr.fprb q p d u) s = execFprb q p d u s := rfl
@[simp] theorem exec_fins (q) (p) (d) (m) (s : State) :
    exec (Instr.fins q p d m) s = execFins q p d m s := rfl
@[simp] theorem exec_fnew (q) (p) (d) (u) (s : State) :
    exec (Instr.fnew q p d u) s = execFnew q p d u s := rfl
@[simp] theorem exec_fdel (q) (p) (d) (u) (s : State) :
    exec (Instr.fdel q p d u) s = execFdel q p d u s := rfl
@[simp] theorem exec_fclr (q) (p) (d) (u) (s : State) :
    exec (Instr.fclr q p d u) s = execFclr q p d u s := rfl
@[simp] theorem exec_fcnt (q) (p) (d) (u) (s : State) :
    exec (Instr.fcnt q p d u) s = execFcnt q p d u s := rfl
@[simp] theorem exec_fseal (q) (p) (d) (u) (s : State) :
    exec (Instr.fseal q p d u) s = execFseal q p d u s := rfl
@[simp] theorem exec_funseal (q) (p) (d) (u) (s : State) :
    exec (Instr.funseal q p d u) s = execFunseal q p d u s := rfl
@[simp] theorem exec_fstat (q) (p) (d) (u) (s : State) :
    exec (Instr.fstat q p d u) s = execFstat q p d u s := rfl
@[simp] theorem exec_glaunch (t) (u) (s : State) :
    exec (Instr.glaunch t u) s = execGlaunch t u s := rfl
@[simp] theorem exec_note (t) (u) (s : State) :
    exec (Instr.note t u) s = execNote t u s := rfl
@[simp] theorem exec_perf (t) (u) (s : State) :
    exec (Instr.perf t u) s = execPerf t u s := rfl
@[simp] theorem exec_waitt (t) (u) (s : State) :
    exec (Instr.waitt t u) s = execWaitt t u s := rfl
@[simp] theorem exec_waittExpire (pe) (slot) (idx) (s : State) :
    exec (Instr.waittExpire pe slot idx) s = execWaittExpire pe slot idx s := rfl
@[simp] theorem exec_fscan (t) (u) (s : State) :
    exec (Instr.fscan t u) s = execFscan t u s := rfl
@[simp] theorem exec_fscanSlot (k) (s : State) :
    exec (Instr.fscanSlot k) s = execFscanSlot k s := rfl
@[simp] theorem exec_vget (v) (t) (u) (s : State) :
    exec (Instr.vget v t u) s = execVget v t u s := rfl
@[simp] theorem exec_splat (w) (t) (u) (s : State) :
    exec (Instr.splat w t u) s = execSplat w t u s := rfl
@[simp] theorem exec_vext (w) (l) (t) (u) (s : State) :
    exec (Instr.vext w l t u) s = execVext w l t u s := rfl
@[simp] theorem exec_vflowMov (t) (u) (s : State) :
    exec (Instr.vflowMov t u) s = execVflowMov t u s := rfl
@[simp] theorem exec_vflowSteerD (t) (u) (s : State) :
    exec (Instr.vflowSteerD t u) s = execVflowSteerD t u s := rfl
@[simp] theorem exec_vflowSteerN (t) (u) (s : State) :
    exec (Instr.vflowSteerN t u) s = execVflowSteerN t u s := rfl
@[simp] theorem exec_vflowMerge (t) (u) (s : State) :
    exec (Instr.vflowMerge t u) s = execVflowMerge t u s := rfl
@[simp] theorem exec_vflowNull (t) (u) (s : State) :
    exec (Instr.vflowNull t u) s = execVflowNull t u s := rfl
@[simp] theorem exec_vflowJoin (t) (u) (s : State) :
    exec (Instr.vflowJoin t u) s = execVflowJoin t u s := rfl
@[simp] theorem exec_vsel (t) (u) (s : State) :
    exec (Instr.vsel t u) s = execVsel t u s := rfl
@[simp] theorem exec_vrecv (p) (e) (t) (u) (s : State) :
    exec (Instr.vrecv p e t u) s = execVrecv p e t u s := rfl
@[simp] theorem exec_vins (w) (l) (t) (u) (s : State) :
    exec (Instr.vins w l t u) s = execVins w l t u s := rfl
@[simp] theorem exec_vialu (w) (c) (t) (u) (s : State) :
    exec (Instr.vialu w c t u) s = execVialu w c t u s := rfl
@[simp] theorem exec_vfalu (f) (c) (t) (u) (s : State) :
    exec (Instr.vfalu f c t u) s = execVfalu f c t u s := rfl
@[simp] theorem exec_vcvt (d) (src) (h) (a) (m) (u) (s : State) :
    exec (Instr.vcvt d src h a m u) s = execVcvt d src h a m u s := rfl
@[simp] theorem exec_vqnt (d) (g) (src) (u) (s : State) :
    exec (Instr.vqnt d g src u) s = execVqnt d g src u s := rfl
@[simp] theorem exec_vdqnt (d) (g) (src) (u) (s : State) :
    exec (Instr.vdqnt d g src u) s = execVdqnt d g src u s := rfl
@[simp] theorem exec_vscacc (k) (t) (u) (s : State) :
    exec (Instr.vscacc k t u) s = execVscacc k t u s := rfl
@[simp] theorem exec_vperm (w) (c) (t) (u) (s : State) :
    exec (Instr.vperm w c t u) s = execVperm w c t u s := rfl
@[simp] theorem exec_vred (f) (c) (t) (u) (s : State) :
    exec (Instr.vred f c t u) s = execVred f c t u s := rfl
@[simp] theorem exec_vld (q) (p) (d) (o) (u) (s : State) :
    exec (Instr.vld q p d o u) s = execVld q p d o u s := rfl
@[simp] theorem exec_vst (q) (p) (d) (o) (s : State) :
    exec (Instr.vst q p d o) s = execVst q p d o s := rfl
@[simp] theorem exec_vlds (q) (p) (d) (w) (u) (s : State) :
    exec (Instr.vlds q p d w u) s = execVlds q p d w u s := rfl
@[simp] theorem exec_vsts (q) (p) (d) (w) (s : State) :
    exec (Instr.vsts q p d w) s = execVsts q p d w s := rfl
@[simp] theorem exec_vgath (q) (p) (d) (u) (s : State) :
    exec (Instr.vgath q p d u) s = execVgath q p d u s := rfl
@[simp] theorem exec_vscat (q) (p) (d) (s : State) :
    exec (Instr.vscat q p d) s = execVscat q p d s := rfl
@[simp] theorem exec_vfrd (q) (p) (d) (u) (s : State) :
    exec (Instr.vfrd q p d u) s = execVfrd q p d u s := rfl
@[simp] theorem exec_vfmrg (q) (p) (d) (m) (s : State) :
    exec (Instr.vfmrg q p d m) s = execVfmrg q p d m s := rfl
@[simp] theorem exec_vfprb (q) (p) (d) (u) (s : State) :
    exec (Instr.vfprb q p d u) s = execVfprb q p d u s := rfl
@[simp] theorem exec_vfhit (q) (p) (d) (u) (s : State) :
    exec (Instr.vfhit q p d u) s = execVfhit q p d u s := rfl
@[simp] theorem exec_vmatch (u) (s : State) :
    exec (Instr.vmatch u) s = execVmatch u s := rfl
@[simp] theorem exec_wakeTask (pe) (slot) (s : State) :
    exec (Instr.wakeTask pe slot) s = execWakeTask pe slot s := rfl
@[simp] theorem exec_blockDispatch (pe) (s : State) :
    exec (Instr.blockDispatch pe) s = execBlockDispatch pe s := rfl
@[simp] theorem exec_blockComplete (pe) (slot) (s : State) :
    exec (Instr.blockComplete pe slot) s = execBlockComplete pe slot s := rfl
@[simp] theorem exec_blockWatchdog (pe) (slot) (s : State) :
    exec (Instr.blockWatchdog pe slot) s = execBlockWatchdog pe slot s := rfl
@[simp] theorem exec_ptsTick (s : State) :
    exec (Instr.ptsTick) s = execPtsTick s := rfl
@[simp] theorem exec_linkSendAccept (pe) (slot) (k) (s : State) :
    exec (Instr.linkSendAccept pe slot k) s = execLinkSendAccept pe slot k s := rfl
@[simp] theorem exec_tokenArrive (l) (s : State) :
    exec (Instr.tokenArrive l) s = execTokenArrive l s := rfl
@[simp] theorem exec_creditReturn (l) (s : State) :
    exec (Instr.creditReturn l) s = execCreditReturn l s := rfl
@[simp] theorem exec_pulseArrive (l) (s : State) :
    exec (Instr.pulseArrive l) s = execPulseArrive l s := rfl
@[simp] theorem exec_linkFlitError (l) (s : State) :
    exec (Instr.linkFlitError l) s = execLinkFlitError l s := rfl
@[simp] theorem exec_elemCnt (pos) (slot) (s : State) :
    exec (Instr.elemCnt pos slot) s = execElemCnt pos slot s := rfl
@[simp] theorem exec_elemSteer (pos) (slot) (s : State) :
    exec (Instr.elemSteer pos slot) s = execElemSteer pos slot s := rfl
@[simp] theorem exec_elemMerge (pos) (slot) (s : State) :
    exec (Instr.elemMerge pos slot) s = execElemMerge pos slot s := rfl
@[simp] theorem exec_elemJoin (pos) (slot) (s : State) :
    exec (Instr.elemJoin pos slot) s = execElemJoin pos slot s := rfl
@[simp] theorem exec_elemRepl (pos) (slot) (s : State) :
    exec (Instr.elemRepl pos slot) s = execElemRepl pos slot s := rfl
@[simp] theorem exec_elemWin (pos) (slot) (s : State) :
    exec (Instr.elemWin pos slot) s = execElemWin pos slot s := rfl
@[simp] theorem exec_elemWinFrame (pos) (slot) (s : State) :
    exec (Instr.elemWinFrame pos slot) s = execElemWinFrame pos slot s := rfl
@[simp] theorem exec_elemMaxr (pos) (slot) (s : State) :
    exec (Instr.elemMaxr pos slot) s = execElemMaxr pos slot s := rfl
@[simp] theorem exec_elemDly (pos) (slot) (s : State) :
    exec (Instr.elemDly pos slot) s = execElemDly pos slot s := rfl
@[simp] theorem exec_elemCvt (pos) (slot) (s : State) :
    exec (Instr.elemCvt pos slot) s = execElemCvt pos slot s := rfl
@[simp] theorem exec_elemXfm (pos) (slot) (s : State) :
    exec (Instr.elemXfm pos slot) s = execElemXfm pos slot s := rfl
@[simp] theorem exec_memStreamReadPass (pos) (slot) (s : State) :
    exec (Instr.memStreamReadPass pos slot) s = execMemStreamReadPass pos slot s := rfl
@[simp] theorem exec_memStreamWrite (pos) (slot) (s : State) :
    exec (Instr.memStreamWrite pos slot) s = execMemStreamWrite pos slot s := rfl
@[simp] theorem exec_memRandomLoad (pos) (slot) (s : State) :
    exec (Instr.memRandomLoad pos slot) s = execMemRandomLoad pos slot s := rfl
@[simp] theorem exec_memRandomStore (pos) (slot) (s : State) :
    exec (Instr.memRandomStore pos slot) s = execMemRandomStore pos slot s := rfl
@[simp] theorem exec_memOrderedUpdate (pos) (slot) (s : State) :
    exec (Instr.memOrderedUpdate pos slot) s = execMemOrderedUpdate pos slot s := rfl
@[simp] theorem exec_memHandover (pos) (slot) (s : State) :
    exec (Instr.memHandover pos slot) s = execMemHandover pos slot s := rfl
@[simp] theorem exec_memRegionReceive (pos) (slot) (s : State) :
    exec (Instr.memRegionReceive pos slot) s = execMemRegionReceive pos slot s := rfl
@[simp] theorem exec_mma (c) (s : State) :
    exec (Instr.mma c) s = execMma c s := rfl
@[simp] theorem exec_mmai (c) (s : State) :
    exec (Instr.mmai c) s = execMmai c s := rfl
@[simp] theorem exec_mgv (c) (s : State) :
    exec (Instr.mgv c) s = execMgv c s := rfl
@[simp] theorem exec_mgat (c) (s : State) :
    exec (Instr.mgat c) s = execMgat c s := rfl
@[simp] theorem exec_msca (c) (s : State) :
    exec (Instr.msca c) s = execMsca c s := rfl
@[simp] theorem exec_mdrn (c) (s : State) :
    exec (Instr.mdrn c) s = execMdrn c s := rfl
@[simp] theorem exec_mstt (c) (s : State) :
    exec (Instr.mstt c) s = execMstt c s := rfl
@[simp] theorem exec_mldt (c) (s : State) :
    exec (Instr.mldt c) s = execMldt c s := rfl
@[simp] theorem exec_mldp (c) (s : State) :
    exec (Instr.mldp c) s = execMldp c s := rfl
@[simp] theorem exec_mclm (c) (s : State) :
    exec (Instr.mclm c) s = execMclm c s := rfl
@[simp] theorem exec_mrel (c) (s : State) :
    exec (Instr.mrel c) s = execMrel c s := rfl
@[simp] theorem exec_mzro (c) (s : State) :
    exec (Instr.mzro c) s = execMzro c s := rfl
@[simp] theorem exec_mtrn (c) (s : State) :
    exec (Instr.mtrn c) s = execMtrn c s := rfl
@[simp] theorem exec_matrixReservedCommand (w) (s : State) :
    exec (Instr.matrixReservedCommand w) s = execMatrixReservedCommand w s := rfl
@[simp] theorem exec_agstrm (kind) (count) (adv) (tstr) (s : State) :
    exec (Instr.agstrm kind count adv tstr) s = execAgstrm kind count adv tstr s := rfl
@[simp] theorem exec_agsink (kind) (count) (adv) (tstr) (s : State) :
    exec (Instr.agsink kind count adv tstr) s = execAgsink kind count adv tstr s := rfl
@[simp] theorem exec_agcopy (count) (adv) (s : State) :
    exec (Instr.agcopy count adv) s = execAgcopy count adv s := rfl
@[simp] theorem exec_agfill (count) (adv) (tstr) (s : State) :
    exec (Instr.agfill count adv tstr) s = execAgfill count adv tstr s := rfl
@[simp] theorem exec_agloop (lid) (n) (back) (s : State) :
    exec (Instr.agloop lid n back) s = execAgloop lid n back s := rfl
@[simp] theorem exec_agwait (k) (port) (s : State) :
    exec (Instr.agwait k port) s = execAgwait k port s := rfl
@[simp] theorem exec_agend (s : State) :
    exec (Instr.agend) s = execAgend s := rfl
@[simp] theorem exec_agUnallocatedWord (w) (s : State) :
    exec (Instr.agUnallocatedWord w) s = execAgUnallocatedWord w s := rfl
@[simp] theorem exec_lgo (p) (t) (tag) (s : State) :
    exec (Instr.lgo p t tag) s = execLgo p t tag s := rfl
@[simp] theorem exec_knodeDispatch (l) (n) (s : State) :
    exec (Instr.knodeDispatch l n) s = execKnodeDispatch l n s := rfl
@[simp] theorem exec_cnodeDispatch (l) (n) (s : State) :
    exec (Instr.cnodeDispatch l n) s = execCnodeDispatch l n s := rfl
@[simp] theorem exec_nnodeDispatch (l) (n) (s : State) :
    exec (Instr.nnodeDispatch l n) s = execNnodeDispatch l n s := rfl
@[simp] theorem exec_hnodeNotify (l) (n) (s : State) :
    exec (Instr.hnodeNotify l n) s = execHnodeNotify l n s := rfl
@[simp] theorem exec_enode (l) (n) (s : State) :
    exec (Instr.enode l n) s = execEnode l n s := rfl
@[simp] theorem exec_nodeDone (l) (n) (s : State) :
    exec (Instr.nodeDone l n) s = execNodeDone l n s := rfl
@[simp] theorem exec_nodeAgeing (l) (n) (s : State) :
    exec (Instr.nodeAgeing l n) s = execNodeAgeing l n s := rfl
@[simp] theorem exec_configComplete (c) (s : State) :
    exec (Instr.configComplete c) s = execConfigComplete c s := rfl
@[simp] theorem exec_configWatchdog (c) (s : State) :
    exec (Instr.configWatchdog c) s = execConfigWatchdog c s := rfl
@[simp] theorem exec_nmdot (u) (s : State) :
    exec (Instr.nmdot u) s = execNmdot u s := rfl
@[simp] theorem exec_nmaxpy (u) (s : State) :
    exec (Instr.nmaxpy u) s = execNmaxpy u s := rfl
@[simp] theorem exec_nmfill (u) (s : State) :
    exec (Instr.nmfill u) s = execNmfill u s := rfl
@[simp] theorem exec_nmcopy (u) (s : State) :
    exec (Instr.nmcopy u) s = execNmcopy u s := rfl
@[simp] theorem exec_nmRowStep (u) (s : State) :
    exec (Instr.nmRowStep u) s = execNmRowStep u s := rfl
@[simp] theorem exec_nmBoundary (u) (s : State) :
    exec (Instr.nmBoundary u) s = execNmBoundary u s := rfl
@[simp] theorem exec_nmCancel (u) (s : State) :
    exec (Instr.nmCancel u) s = execNmCancel u s := rfl
@[simp] theorem exec_nmSpill (u) (s : State) :
    exec (Instr.nmSpill u) s = execNmSpill u s := rfl
@[simp] theorem exec_nmRestore (u) (s : State) :
    exec (Instr.nmRestore u) s = execNmRestore u s := rfl
@[simp] theorem exec_pageResponse (k) (ok) (entries) (s : State) :
    exec (Instr.pageResponse k ok entries) s = execPageResponse k ok entries s := rfl
@[simp] theorem exec_drainLimit (k) (s : State) :
    exec (Instr.drainLimit k) s = execDrainLimit k s := rfl
@[simp] theorem exec_drainStart (c) (why) (s : State) :
    exec (Instr.drainStart c why) s = execDrainStart c why s := rfl
@[simp] theorem exec_bellwetherArrive (e) (s : State) :
    exec (Instr.bellwetherArrive e) s = execBellwetherArrive e s := rfl
@[simp] theorem exec_drainComplete (c) (s : State) :
    exec (Instr.drainComplete c) s = execDrainComplete c s := rfl
@[simp] theorem exec_drainWatchdog (c) (s : State) :
    exec (Instr.drainWatchdog c) s = execDrainWatchdog c s := rfl
@[simp] theorem exec_restore (k) (s : State) :
    exec (Instr.restore k) s = execRestore k s := rfl
@[simp] theorem exec_tenantSliceEnd (p) (s : State) :
    exec (Instr.tenantSliceEnd p) s = execTenantSliceEnd p s := rfl
@[simp] theorem exec_tlbInvalidate (p) (page) (tenant) (entries) (s : State) :
    exec (Instr.tlbInvalidate p page tenant entries) s = execTlbInvalidate p page tenant entries s := rfl
@[simp] theorem exec_tctlResume (p) (t) (w) (s : State) :
    exec (Instr.tctlResume p t w) s = execTctlResume p t w s := rfl
@[simp] theorem exec_tctlAbort (p) (t) (w) (s : State) :
    exec (Instr.tctlAbort p t w) s = execTctlAbort p t w s := rfl
@[simp] theorem exec_stop (p) (t) (s : State) :
    exec (Instr.stop p t) s = execStop p t s := rfl
@[simp] theorem exec_report (p) (t) (s : State) :
    exec (Instr.report p t) s = execReport p t s := rfl
@[simp] theorem exec_registerWrite (fn) (off) (size) (v) (s : State) :
    exec (Instr.registerWrite fn off size v) s = execRegisterWrite fn off size v s := rfl
@[simp] theorem exec_hostMemoryRead (p) (t) (va) (n) (s : State) :
    exec (Instr.hostMemoryRead p t va n) s = execHostMemoryRead p t va n s := rfl
@[simp] theorem exec_hostMemoryWrite (p) (t) (va) (bytes) (s : State) :
    exec (Instr.hostMemoryWrite p t va bytes) s = execHostMemoryWrite p t va bytes s := rfl
@[simp] theorem exec_tdispLock (p) (t) (s : State) :
    exec (Instr.tdispLock p t) s = execTdispLock p t s := rfl
@[simp] theorem exec_tdispStart (p) (t) (s : State) :
    exec (Instr.tdispStart p t) s = execTdispStart p t s := rfl
@[simp] theorem exec_atsInvalidate (p) (t) (page) (s : State) :
    exec (Instr.atsInvalidate p t page) s = execAtsInvalidate p t page s := rfl
@[simp] theorem exec_vfFlr (p) (t) (s : State) :
    exec (Instr.vfFlr p t) s = execVfFlr p t s := rfl
@[simp] theorem exec_pfReset (s : State) :
    exec (Instr.pfReset) s = execPfReset s := rfl
@[simp] theorem exec_powerOnReset (failed) (s : State) :
    exec (Instr.powerOnReset failed) s = execPowerOnReset failed s := rfl
@[simp] theorem exec_bootStepTimeout (die) (stage) (s : State) :
    exec (Instr.bootStepTimeout die stage) s = execBootStepTimeout die stage s := rfl
@[simp] theorem exec_spdmRequest (die) (index) (s : State) :
    exec (Instr.spdmRequest die index) s = execSpdmRequest die index s := rfl
@[simp] theorem exec_pldmMonitor (s : State) :
    exec (Instr.pldmMonitor) s = execPldmMonitor s := rfl
@[simp] theorem exec_pldmFirmwareUpdate (die) (index) (keyHash) (version) (sigOk) (body) (fuse) (s : State) :
    exec (Instr.pldmFirmwareUpdate die index keyHash version sigOk body fuse) s = execPldmFirmwareUpdate die index keyHash version sigOk body fuse s := rfl
@[simp] theorem exec_remoteRequest (dev) (pad) (ten) (win) (off) (op) (s : State) :
    exec (Instr.remoteRequest dev pad ten win off op) s = execRemoteRequest dev pad ten win off op s := rfl
@[simp] theorem exec_linkDown (dev) (s : State) :
    exec (Instr.linkDown dev) s = execLinkDown dev s := rfl
@[simp] theorem exec_pageMigrate (old) (new) (s : State) :
    exec (Instr.pageMigrate old new) s = execPageMigrate old new s := rfl
@[simp] theorem exec_redirect (pe) (slot) (s : State) :
    exec (Instr.redirect pe slot) s = execRedirect pe slot s := rfl
@[simp] theorem exec_dieCrossingLost (b) (s : State) :
    exec (Instr.dieCrossingLost b) s = execDieCrossingLost b s := rfl
@[simp] theorem exec_packedTableUpdate (p) (die) (lengths) (s : State) :
    exec (Instr.packedTableUpdate p die lengths) s = execPackedTableUpdate p die lengths s := rfl
@[simp] theorem exec_packedSweep (p) (die) (s : State) :
    exec (Instr.packedSweep p die) s = execPackedSweep p die s := rfl
@[simp] theorem exec_imageLoad (p) (t) (file) (bases) (entries) (ranges) (s : State) :
    exec (Instr.imageLoad p t file bases entries ranges) s = execImageLoad p t file bases entries ranges s := rfl
@[simp] theorem exec_paddockCreate (ent) (ranges) (limited) (exports) (s : State) :
    exec (Instr.paddockCreate ent ranges limited exports) s = execPaddockCreate ent ranges limited exports s := rfl
@[simp] theorem exec_powerSurgeLimit (s : State) :
    exec (Instr.powerSurgeLimit) s = execPowerSurgeLimit s := rfl
@[simp] theorem exec_thermalThreshold1 (die) (s : State) :
    exec (Instr.thermalThreshold1 die) s = execThermalThreshold1 die s := rfl
@[simp] theorem exec_thermalThreshold2 (die) (s : State) :
    exec (Instr.thermalThreshold2 die) s = execThermalThreshold2 die s := rfl
@[simp] theorem exec_storePerformed (pe) (slot) (k) (s : State) :
    exec (Instr.storePerformed pe slot k) s = execStorePerformed pe slot k s := rfl
@[simp] theorem exec_leaseExpiry (line) (s : State) :
    exec (Instr.leaseExpiry line) s = execLeaseExpiry line s := rfl
@[simp] theorem exec_routeRestore (dev) (s : State) :
    exec (Instr.routeRestore dev) s = execRouteRestore dev s := rfl
@[simp] theorem exec_paddockTeardown (p) (s : State) :
    exec (Instr.paddockTeardown p) s = execPaddockTeardown p s := rfl
@[simp] theorem exec_vfReassignment (p) (t) (s : State) :
    exec (Instr.vfReassignment p t) s = execVfReassignment p t s := rfl
@[simp] theorem exec_serviceModeChange (p) (mode) (s : State) :
    exec (Instr.serviceModeChange p mode) s = execServiceModeChange p mode s := rfl
@[simp] theorem exec_traceEnable (p) (on) (cap) (s : State) :
    exec (Instr.traceEnable p on cap) s = execTraceEnable p on cap s := rfl
@[simp] theorem exec_currentBelowLimit (s : State) :
    exec (Instr.currentBelowLimit) s = execCurrentBelowLimit s := rfl
@[simp] theorem exec_junctionBelowThreshold (die) (s : State) :
    exec (Instr.junctionBelowThreshold die) s = execJunctionBelowThreshold die s := rfl

end Sys2Proof.Machine
end

