-- ==== Sys2Proof/Laws/Firing.lean ====
section
/-! SUPPORT. What the shared operations of firing can do: everything that a firing answers, said once. -/

namespace Sys2Proof.Machine

theorem setFrame_eq (s : State) (t : Task) (f : Frame) : s.setFrame t f = s.setTask { t with frame := some f } := rfl

theorem finish_ok (s : State) (t : Task) (f f' : Frame) : finish s t f (.ok f') = s.setFrame t f' := rfl

theorem finish_error (s : State) (t : Task) (f : Frame) (e : Raise) : finish s t f (.error e) = blockFault s t f e := rfl

/-- Where it may not fire, nothing happens. -/
theorem fireWith_idle {i : Instr} {s : State} (h : firing? s i = none) (tgts : Ins → List Tgt) (n b : Body) :
    fireWith i s tgts n b = .next s := by
  simp [fireWith, h]

/-- A normal firing runs the instruction's own operation. -/
theorem fireWith_normal {i : Instr} {s : State} {t : Task} {f : Frame} {idx : Nat} {x : Ins} (tgts : Ins → List Tgt)
    (n b : Body) (h : FiresTo s i t f idx x (tgts x)) :
    fireWith i s tgts n b =
      .next (finish (b s (t.count 1) (f.fired idx x) idx x).1 (b s (t.count 1) (f.fired idx x) idx x).2.1 (f.fired idx x)
        (b s (t.count 1) (f.fired idx x) idx x).2.2) := by
  obtain ⟨h1, h2, h3, h4, h5⟩ := h
  unfold Frame.fired at h4
  simp only [fireWith, h1, h2, h3, Option.isNone_none, Bool.and_false, Bool.false_eq_true, if_false, h4, h5]
  rfl

/-- A normal firing of an instruction with one result sends it. -/
theorem fireResult_sends {i : Instr} {s : State} {t : Task} {f f' : Frame} {idx : Nat} {x : Ins} (r : Task → Frame → Ins → Tok × Nat)
    (h : Fires s i t f idx x)
    (hp : Frame.putAll { f.fired idx x with flags := f.flags ||| (r (t.count 1) (f.fired idx x) x).2 } idx (r (t.count 1) (f.fired idx x) x).1 i.targets
      = .ok f') :
    fireResult i s r = .next (left s t f') := by
  have := fireWith_normal (fun _ => i.targets) (passNull i) (fun s t f idx x =>
    let r := r t f x
    (s, t, keepFlags r.2 ({ f with flags := f.flags ||| r.2 }.putAll idx r.1 i.targets))) h
  unfold fireResult
  rw [this]
  have hf : (f.fired idx x).flags = f.flags := rfl
  simp only [hf, hp, keepFlags]
  rfl

/-- An instruction whose meaning is `fireResult` sends the value that its rule gives. -/
theorem sends_of_result {i : Instr} {val : State → Task → Frame → Ins → Tok × Nat} (r : Task → Frame → Ins → Tok × Nat)
    (he : ∀ s, exec i s = fireResult i s r) (hv : ∀ s t f idx x, r t (f.fired idx x) x = val s t f x) : Sends i val := by
  intro s t f idx x f' h hp
  rw [he s]
  have e := hv s (t.count 1) f idx x
  exact fireResult_sends r h (by rw [e]; exact hp)

/-- The same for a scalar without flags. -/
theorem sends_of_scalar {i : Instr} {val : Ins → Word} (r : Ins → Word)
    (he : ∀ s, exec i s = fireScalar i s r) (hv : ∀ x, r x = val x) : SendsScalar i val :=
  sends_of_result (fun _ _ x => (scalar (r x), 0)) he (fun _ _ _ _ x => by rw [hv x])

/-- The same for a vector without flags. -/
theorem sends_of_vector {i : Instr} {val : Ins → Vec} (r : Ins → Vec)
    (he : ∀ s, exec i s = fireVector i s r) (hv : ∀ x, r x = val x) : SendsVector i val :=
  sends_of_result (fun _ _ x => (vector (r x), 0)) he (fun _ _ _ _ x => by rw [hv x])

/-- Every firing answers a next state. -/
theorem fireWith_next (i : Instr) (s : State) (tgts : Ins → List Tgt) (n b : Body) : ∃ s', fireWith i s tgts n b = .next s' := by
  unfold fireWith
  split
  · exact ⟨_, rfl⟩
  · dsimp only
    split <;> exact ⟨_, rfl⟩

/-- So does every instruction that may wait. -/
theorem fireWaiting_next (i : Instr) (s : State) (c : State → Task → Frame → Nat → Ins → Option Raise)
    (k : State → Task → Ins → WaitKind) (a : Attempt) : ∃ s', fireWaiting i s c k a = .next s' := by
  unfold fireWaiting
  split
  · split <;> exact ⟨_, rfl⟩
  · exact fireWith_next _ _ _ _ _

/-- An instruction whose wait is over goes on. -/
theorem fireWaiting_over {i : Instr} {s s' : State} {t t' : Task} {f : Frame} {idx : Nat} {x : Ins} {w : Wait} {r : Except Raise Frame}
    (c : State → Task → Frame → Nat → Ins → Option Raise) (k : State → Task → Ins → WaitKind) (a : Attempt)
    (hw : waiting? s = some (t, f, idx, x, w))
    (ha : a s t (f.unwait idx) idx x w.kind (f.waits.takeWhile (fun y => y.idx ≠ idx)) = some (s', t', r)) :
    fireWaiting i s c k a = .next (finishLate s' t' (f.unwait idx) r) := by
  simp only [fireWaiting, hw, ha]

/-- One whose wait is not over stays as it is. -/
theorem fireWaiting_stays {i : Instr} {s : State} {t : Task} {f : Frame} {idx : Nat} {x : Ins} {w : Wait}
    (c : State → Task → Frame → Nat → Ins → Option Raise) (k : State → Task → Ins → WaitKind) (a : Attempt)
    (hw : waiting? s = some (t, f, idx, x, w))
    (ha : a s t (f.unwait idx) idx x w.kind (f.waits.takeWhile (fun y => y.idx ≠ idx)) = none) :
    fireWaiting i s c k a = .next s := by
  simp only [fireWaiting, hw, ha]

/-- One that fires without a fault of its own and need not wait does what it does at once. -/
theorem fireWaiting_now {i : Instr} {s s' : State} {t t' : Task} {f : Frame} {idx : Nat} {x : Ins} {r : Except Raise Frame}
    (c : State → Task → Frame → Nat → Ins → Option Raise) (k : State → Task → Ins → WaitKind) (a : Attempt)
    (hn : waiting? s = none) (h : Fires s i t f idx x) (hc : c s (t.count 1) (f.fired idx x) idx x = none)
    (ha : a s (t.count 1) (f.fired idx x) idx x (k s (t.count 1) x) f.waits = some (s', t', r)) :
    fireWaiting i s c k a = .next (finish s' t' (f.fired idx x) r) := by
  have hf : (f.fired idx x).waits = f.waits := rfl
  simp only [fireWaiting, hn]
  rw [fireWith_normal (fun _ => i.targets) _ _ h]
  simp only [hc, hf, ha]

/-- One that must wait begins to. -/
theorem fireWaiting_waits {i : Instr} {s : State} {t : Task} {f : Frame} {idx : Nat} {x : Ins}
    (c : State → Task → Frame → Nat → Ins → Option Raise) (k : State → Task → Ins → WaitKind) (a : Attempt)
    (hn : waiting? s = none) (h : Fires s i t f idx x) (hc : c s (t.count 1) (f.fired idx x) idx x = none)
    (ha : a s (t.count 1) (f.fired idx x) idx x (k s (t.count 1) x) f.waits = none) :
    fireWaiting i s c k a = .next (left s t ((f.fired idx x).wait idx (k s (t.count 1) x))) := by
  have hf : (f.fired idx x).waits = f.waits := rfl
  simp only [fireWaiting, hn]
  rw [fireWith_normal (fun _ => i.targets) _ _ h]
  simp only [hc, hf, ha]
  rfl

end Sys2Proof.Machine
end

