-- ==== Sys2Proof/Laws/Memory.lean ====
section
/-! SUPPORT. The laws of memory: every operation keeps the canonical form; a byte written reads as written, every other as before. -/

namespace Sys2Proof.Machine

theorem wfFrom_mono {m : List Host.Cell} {lo hi : Nat} (h : wfFrom hi m = true) (le : lo ≤ hi) : wfFrom lo m = true := by
  cases m with
  | nil => rfl
  | cons c rest =>
    obtain ⟨a, v⟩ := c
    simp only [wfFrom, Bool.and_eq_true, decide_eq_true_eq] at h ⊢
    exact ⟨⟨by omega, h.1.2⟩, h.2⟩

theorem wfFrom_writeByte {m : List Host.Cell} {lo k : Nat} {v : Byte} (h : wfFrom lo m = true) (le : lo ≤ k) :
    wfFrom lo (writeByte m k v) = true := by
  induction m generalizing lo with
  | nil => unfold writeByte; split <;> simp_all [wfFrom]
  | cons c rest ih =>
    obtain ⟨a, w⟩ := c
    simp only [wfFrom, Bool.and_eq_true, decide_eq_true_eq] at h
    unfold writeByte
    split
    · split
      · simp only [wfFrom, Bool.and_eq_true, decide_eq_true_eq]; exact h
      · simp only [wfFrom, Bool.and_eq_true, decide_eq_true_eq]
        exact ⟨⟨le, by assumption⟩, ⟨by omega, h.1.2⟩, h.2⟩
    · split
      · split
        · exact wfFrom_mono h.2 (by omega)
        · simp only [wfFrom, Bool.and_eq_true, decide_eq_true_eq]
          exact ⟨⟨le, by assumption⟩, by subst_vars; exact h.2⟩
      · simp only [wfFrom, Bool.and_eq_true, decide_eq_true_eq]
        exact ⟨h.1, ih h.2 (by omega)⟩

theorem writeByte_wf {m : List Host.Cell} (h : Memory.wf m) (k : Nat) (v : Byte) : Memory.wf (writeByte m k v) :=
  wfFrom_writeByte h (Nat.zero_le k)

theorem writeBytes_wf {m : List Host.Cell} (h : Memory.wf m) (k : Nat) (bs : List Byte) : Memory.wf (writeBytes m k bs) := by
  induction bs generalizing m k with
  | nil => exact h
  | cons b bs ih => exact ih (writeByte_wf h k b) (k + 1)

theorem wfFrom_filter {m : List Host.Cell} {lo : Nat} (p : Host.Cell → Bool) (h : wfFrom lo m = true) : wfFrom lo (m.filter p) = true := by
  induction m generalizing lo with
  | nil => rfl
  | cons c rest ih =>
    obtain ⟨a, v⟩ := c
    simp only [wfFrom, Bool.and_eq_true, decide_eq_true_eq] at h
    rw [List.filter_cons]
    split
    · simp only [wfFrom, Bool.and_eq_true, decide_eq_true_eq]; exact ⟨h.1, ih h.2⟩
    · exact wfFrom_mono (ih h.2) (by omega)

theorem filter_wf {m : List Host.Cell} (p : Host.Cell → Bool) (h : Memory.wf m) : Memory.wf (m.filter p) := wfFrom_filter p h

theorem foldl_writeByte_wf {m : List Host.Cell} (h : Memory.wf m) (cs : List Host.Cell) :
    Memory.wf (cs.foldl (fun m b => writeByte m b.1 b.2) m) := by
  induction cs generalizing m with
  | nil => exact h
  | cons c cs ih => exact ih (writeByte_wf h c.1 c.2)

theorem write_memWf {s : State} (h : s.memWf) (k : Nat) (bs : List Byte) : (s.write k bs).memWf := writeBytes_wf h k bs

theorem zero_memWf {s : State} (h : s.memWf) (k n : Nat) : (s.zero k n).memWf := filter_wf _ h

theorem taint_memWf {s : State} (h : s.memWf) (k n : Nat) : (s.taint k n).memWf := h

theorem reset_memWf : State.reset.memWf := by decide

/-! #### Reading after writing -/

/-- Below its first address a memory reads as unlisted. -/
theorem readByte_below {m : List Host.Cell} {lo a : Nat} (h : wfFrom lo m = true) (lt : a < lo) : readByte m a = unlisted := by
  induction m generalizing lo with
  | nil => rfl
  | cons c rest ih =>
    obtain ⟨b, v⟩ := c
    simp only [wfFrom, Bool.and_eq_true, decide_eq_true_eq] at h
    have e : b ≠ a := by omega
    simp [readByte, e, ih h.2 (by omega)]

theorem readByte_cons (b : Nat) (w : Byte) (rest : List Host.Cell) (a : Nat) :
    readByte ((b, w) :: rest) a = if b = a then w else if a < b then unlisted else readByte rest a := rfl

theorem readByte_writeByte_from {m : List Host.Cell} {lo : Nat} (h : wfFrom lo m = true) (k a : Nat) (v : Byte) :
    readByte (writeByte m k v) a = if a = k then v else readByte m a := by
  induction m generalizing lo with
  | nil =>
    unfold writeByte
    by_cases e : a = k
    · subst e; split <;> simp_all [readByte]
    · have e' : ¬ k = a := fun x => e x.symm
      split <;> simp [readByte, e']
  | cons c rest ih =>
    obtain ⟨b, w⟩ := c
    simp only [wfFrom, Bool.and_eq_true, decide_eq_true_eq] at h
    have low : ∀ x, x ≤ b → readByte rest x = unlisted := fun x hx => readByte_below h.2 (by omega)
    unfold writeByte
    rcases Nat.lt_trichotomy k b with kb | kb | kb
    · rw [if_pos kb]
      by_cases e : a = k
      · subst e
        split
        · rename_i hv; subst hv; simp [readByte_cons, kb, show b ≠ a by omega]
        · simp [readByte_cons]
      · rw [if_neg e]
        split
        · rfl
        · rw [readByte_cons k v, if_neg (Ne.symm e)]
          by_cases l : a < k
          · rw [if_pos l, readByte_cons, if_neg (by omega), if_pos (by omega)]
          · rw [if_neg l]
    · subst kb
      rw [if_neg (Nat.lt_irrefl k), if_pos rfl]
      by_cases e : a = k
      · subst e
        split
        · rename_i hv; subst hv; simp [low a (Nat.le_refl a)]
        · simp [readByte_cons]
      · rw [if_neg e, readByte_cons k w, if_neg (Ne.symm e)]
        split
        · by_cases l : a < k
          · rw [if_pos l, low a (by omega)]
          · rw [if_neg l]
        · rw [readByte_cons, if_neg (Ne.symm e)]
    · rw [if_neg (by omega), if_neg (by omega), readByte_cons, readByte_cons, ih h.2]
      by_cases e : a = k
      · subst e; rw [if_neg (by omega), if_neg (by omega), if_pos rfl, if_pos rfl]
      · rw [if_neg e, if_neg e]

/-- A byte reads as last written, every other as before. -/
theorem readByte_writeByte {m : List Host.Cell} (h : Memory.wf m) (k a : Nat) (v : Byte) :
    readByte (writeByte m k v) a = if a = k then v else readByte m a := readByte_writeByte_from h k a v

theorem readByte_writeBytes {m : List Host.Cell} (h : Memory.wf m) (k a : Nat) (bs : List Byte) :
    readByte (writeBytes m k bs) a = if k ≤ a ∧ a < k + bs.length then bs.getD (a - k) 0 else readByte m a := by
  induction bs generalizing m k with
  | nil => have : ¬ (k ≤ a ∧ a < k) := by omega
           simp [writeBytes, this]
  | cons b bs ih =>
    rw [writeBytes, ih (writeByte_wf h k b), readByte_writeByte h]
    by_cases e : a = k
    · subst e; simp
    · by_cases hr : k ≤ a ∧ a < k + (bs.length + 1)
      · have hr' : k + 1 ≤ a ∧ a < k + 1 + bs.length := by omega
        have : a - k = (a - (k + 1)) + 1 := by omega
        simp only [hr', hr, and_self, if_true, List.length_cons, this, List.getD_cons_succ]
      · have hr' : ¬ (k + 1 ≤ a ∧ a < k + 1 + bs.length) := by omega
        simp only [hr', hr, if_false, e, List.length_cons]

/-- Cells taken away by their addresses read as unlisted, the others as before. -/
theorem readByte_filter {m : List Host.Cell} {lo : Nat} (h : wfFrom lo m = true) (p : Nat → Bool) (a : Nat) :
    readByte (m.filter (fun c => p c.1)) a = if p a then readByte m a else unlisted := by
  induction m generalizing lo with
  | nil => simp [readByte]
  | cons c rest ih =>
    obtain ⟨b, v⟩ := c
    simp only [wfFrom, Bool.and_eq_true, decide_eq_true_eq] at h
    have low : ∀ x, x ≤ b → readByte (rest.filter (fun c => p c.1)) x = unlisted := by
      intro x hx; exact readByte_below (wfFrom_filter _ h.2) (by omega)
    rw [List.filter_cons]
    by_cases e : b = a
    · subst e
      cases hp : p b <;> simp [readByte, low b (Nat.le_refl b)]
    · by_cases l : a < b
      · cases hp : p b <;> simp [readByte, e, l, low a (by omega)]
      · cases hp : p b <;> simp [readByte, e, l, ih h.2]

theorem write_readByte {s : State} (h : s.memWf) (k a : Nat) (bs : List Byte) :
    readByte (s.write k bs).mem.bytes a = if k ≤ a ∧ a < k + bs.length then bs.getD (a - k) 0 else readByte s.mem.bytes a :=
  readByte_writeBytes h k a bs

theorem zero_readByte {s : State} (h : s.memWf) (k n a : Nat) :
    readByte (s.zero k n).mem.bytes a = if k ≤ a ∧ a < k + n then 0 else readByte s.mem.bytes a := by
  have := readByte_filter h (fun x => !(decide (k ≤ x) && decide (x < k + n))) a
  simp only [State.zero]
  rw [this]
  by_cases hr : k ≤ a ∧ a < k + n <;> simp [hr, unlisted]

theorem readBytes_length (m : List Host.Cell) (k n : Nat) : (readBytes m k n).length = n := by
  induction n generalizing k with
  | zero => rfl
  | succ n ih => simp [readBytes, ih]

theorem readBytes_getD (m : List Host.Cell) (k n i : Nat) (h : i < n) : (readBytes m k n).getD i 0 = readByte m (k + i) := by
  induction n generalizing k i with
  | zero => omega
  | succ n ih =>
    cases i with
    | zero => rfl
    | succ i => rw [readBytes, List.getD_cons_succ, ih (k + 1) i (by omega)]; congr 1; omega

/-- A number of bytes reads back as the bytes it was written with. -/
theorem ofBytes_toBytes (n v : Nat) : ofBytes (toBytes n v) = v % 2 ^ (8 * n) := by
  induction n generalizing v with
  | zero => simp [toBytes, ofBytes, Nat.mod_one]
  | succ n ih =>
    simp only [toBytes, ofBytes, ih]
    have : (2 : Nat) ^ (8 * (n + 1)) = 256 * 2 ^ (8 * n) := by rw [Nat.mul_succ, Nat.pow_add]; omega
    rw [this, Nat.mod_mul]
    simp

end Sys2Proof.Machine
end

