-- ==== Sys2Proof/Laws/State.lean ====
section
/-! SUPPORT. What each update of a record leaves as it was, field by field, so that no proof unfolds one. -/

namespace Sys2Proof.Machine

/-! #### setTask -/

@[simp] theorem setTask_ctl (s : State) (t : Task) : (s.setTask t).ctl = s.ctl := rfl
@[simp] theorem setTask_mixes (s : State) (t : Task) : (s.setTask t).cores.mixes = s.cores.mixes := rfl
@[simp] theorem setTask_bars (s : State) (t : Task) : (s.setTask t).cores.bars = s.cores.bars := rfl
@[simp] theorem setTask_arrivals (s : State) (t : Task) : (s.setTask t).cores.arrivals = s.cores.arrivals := rfl
@[simp] theorem setTask_dropped (s : State) (t : Task) : (s.setTask t).cores.dropped = s.cores.dropped := rfl
@[simp] theorem setTask_fab (s : State) (t : Task) : (s.setTask t).fab = s.fab := rfl
@[simp] theorem setTask_mem (s : State) (t : Task) : (s.setTask t).mem = s.mem := rfl
@[simp] theorem setTask_eng (s : State) (t : Task) : (s.setTask t).eng = s.eng := rfl
@[simp] theorem setTask_drv (s : State) (t : Task) : (s.setTask t).drv = s.drv := rfl
@[simp] theorem setTask_ten (s : State) (t : Task) : (s.setTask t).ten = s.ten := rfl
@[simp] theorem setTask_hub (s : State) (t : Task) : (s.setTask t).hub = s.hub := rfl
/-! #### setFrame -/

@[simp] theorem setFrame_ctl (s : State) (t : Task) (f : Frame) : (s.setFrame t f).ctl = s.ctl := rfl
@[simp] theorem setFrame_mixes (s : State) (t : Task) (f : Frame) : (s.setFrame t f).cores.mixes = s.cores.mixes := rfl
@[simp] theorem setFrame_bars (s : State) (t : Task) (f : Frame) : (s.setFrame t f).cores.bars = s.cores.bars := rfl
@[simp] theorem setFrame_arrivals (s : State) (t : Task) (f : Frame) : (s.setFrame t f).cores.arrivals = s.cores.arrivals := rfl
@[simp] theorem setFrame_dropped (s : State) (t : Task) (f : Frame) : (s.setFrame t f).cores.dropped = s.cores.dropped := rfl
@[simp] theorem setFrame_fab (s : State) (t : Task) (f : Frame) : (s.setFrame t f).fab = s.fab := rfl
@[simp] theorem setFrame_mem (s : State) (t : Task) (f : Frame) : (s.setFrame t f).mem = s.mem := rfl
@[simp] theorem setFrame_eng (s : State) (t : Task) (f : Frame) : (s.setFrame t f).eng = s.eng := rfl
@[simp] theorem setFrame_drv (s : State) (t : Task) (f : Frame) : (s.setFrame t f).drv = s.drv := rfl
@[simp] theorem setFrame_ten (s : State) (t : Task) (f : Frame) : (s.setFrame t f).ten = s.ten := rfl
@[simp] theorem setFrame_hub (s : State) (t : Task) (f : Frame) : (s.setFrame t f).hub = s.hub := rfl
/-! #### left -/

@[simp] theorem left_ctl (s : State) (t : Task) (f : Frame) : (left s t f).ctl = s.ctl := rfl
@[simp] theorem left_mixes (s : State) (t : Task) (f : Frame) : (left s t f).cores.mixes = s.cores.mixes := rfl
@[simp] theorem left_bars (s : State) (t : Task) (f : Frame) : (left s t f).cores.bars = s.cores.bars := rfl
@[simp] theorem left_arrivals (s : State) (t : Task) (f : Frame) : (left s t f).cores.arrivals = s.cores.arrivals := rfl
@[simp] theorem left_dropped (s : State) (t : Task) (f : Frame) : (left s t f).cores.dropped = s.cores.dropped := rfl
@[simp] theorem left_fab (s : State) (t : Task) (f : Frame) : (left s t f).fab = s.fab := rfl
@[simp] theorem left_mem (s : State) (t : Task) (f : Frame) : (left s t f).mem = s.mem := rfl
@[simp] theorem left_eng (s : State) (t : Task) (f : Frame) : (left s t f).eng = s.eng := rfl
@[simp] theorem left_drv (s : State) (t : Task) (f : Frame) : (left s t f).drv = s.drv := rfl
@[simp] theorem left_ten (s : State) (t : Task) (f : Frame) : (left s t f).ten = s.ten := rfl
@[simp] theorem left_hub (s : State) (t : Task) (f : Frame) : (left s t f).hub = s.hub := rfl
/-! #### mapConf -/

@[simp] theorem mapConf_ctl (s : State) (c : Nat) (g : Conf → Conf) : (s.mapConf c g).ctl = s.ctl := rfl
@[simp] theorem mapConf_cores (s : State) (c : Nat) (g : Conf → Conf) : (s.mapConf c g).cores = s.cores := rfl
@[simp] theorem mapConf_elems (s : State) (c : Nat) (g : Conf → Conf) : (s.mapConf c g).fab.elems = s.fab.elems := rfl
@[simp] theorem mapConf_inputs (s : State) (c : Nat) (g : Conf → Conf) : (s.mapConf c g).fab.inputs = s.fab.inputs := rfl
@[simp] theorem mapConf_links (s : State) (c : Nat) (g : Conf → Conf) : (s.mapConf c g).fab.links = s.fab.links := rfl
@[simp] theorem mapConf_badHops (s : State) (c : Nat) (g : Conf → Conf) : (s.mapConf c g).fab.badHops = s.fab.badHops := rfl
@[simp] theorem mapConf_mem (s : State) (c : Nat) (g : Conf → Conf) : (s.mapConf c g).mem = s.mem := rfl
@[simp] theorem mapConf_eng (s : State) (c : Nat) (g : Conf → Conf) : (s.mapConf c g).eng = s.eng := rfl
@[simp] theorem mapConf_drv (s : State) (c : Nat) (g : Conf → Conf) : (s.mapConf c g).drv = s.drv := rfl
@[simp] theorem mapConf_ten (s : State) (c : Nat) (g : Conf → Conf) : (s.mapConf c g).ten = s.ten := rfl
@[simp] theorem mapConf_hub (s : State) (c : Nat) (g : Conf → Conf) : (s.mapConf c g).hub = s.hub := rfl
/-! #### mapPad -/

@[simp] theorem mapPad_ctl (s : State) (c : Nat) (g : Paddock → Paddock) : (s.mapPad c g).ctl = s.ctl := rfl
@[simp] theorem mapPad_cores (s : State) (c : Nat) (g : Paddock → Paddock) : (s.mapPad c g).cores = s.cores := rfl
@[simp] theorem mapPad_fab (s : State) (c : Nat) (g : Paddock → Paddock) : (s.mapPad c g).fab = s.fab := rfl
@[simp] theorem mapPad_mem (s : State) (c : Nat) (g : Paddock → Paddock) : (s.mapPad c g).mem = s.mem := rfl
@[simp] theorem mapPad_eng (s : State) (c : Nat) (g : Paddock → Paddock) : (s.mapPad c g).eng = s.eng := rfl
@[simp] theorem mapPad_drv (s : State) (c : Nat) (g : Paddock → Paddock) : (s.mapPad c g).drv = s.drv := rfl
@[simp] theorem mapPad_exports (s : State) (c : Nat) (g : Paddock → Paddock) : (s.mapPad c g).ten.exports = s.ten.exports := rfl
@[simp] theorem mapPad_downRoutes (s : State) (c : Nat) (g : Paddock → Paddock) : (s.mapPad c g).ten.downRoutes = s.ten.downRoutes := rfl
@[simp] theorem mapPad_denied (s : State) (c : Nat) (g : Paddock → Paddock) : (s.mapPad c g).ten.denied = s.ten.denied := rfl
@[simp] theorem mapPad_device (s : State) (c : Nat) (g : Paddock → Paddock) : (s.mapPad c g).ten.device = s.ten.device := rfl
@[simp] theorem mapPad_lag (s : State) (c : Nat) (g : Paddock → Paddock) : (s.mapPad c g).ten.lag = s.ten.lag := rfl
@[simp] theorem mapPad_posted (s : State) (c : Nat) (g : Paddock → Paddock) : (s.mapPad c g).ten.posted = s.ten.posted := rfl
@[simp] theorem mapPad_vfs (s : State) (c : Nat) (g : Paddock → Paddock) : (s.mapPad c g).ten.vfs = s.ten.vfs := rfl
@[simp] theorem mapPad_hub (s : State) (c : Nat) (g : Paddock → Paddock) : (s.mapPad c g).hub = s.hub := rfl
/-! #### mapTenant -/

@[simp] theorem mapTenant_ctl (s : State) (c k : Nat) (g : Tenant → Tenant) : (s.mapTenant c k g).ctl = s.ctl := rfl
@[simp] theorem mapTenant_cores (s : State) (c k : Nat) (g : Tenant → Tenant) : (s.mapTenant c k g).cores = s.cores := rfl
@[simp] theorem mapTenant_fab (s : State) (c k : Nat) (g : Tenant → Tenant) : (s.mapTenant c k g).fab = s.fab := rfl
@[simp] theorem mapTenant_mem (s : State) (c k : Nat) (g : Tenant → Tenant) : (s.mapTenant c k g).mem = s.mem := rfl
@[simp] theorem mapTenant_eng (s : State) (c k : Nat) (g : Tenant → Tenant) : (s.mapTenant c k g).eng = s.eng := rfl
@[simp] theorem mapTenant_drv (s : State) (c k : Nat) (g : Tenant → Tenant) : (s.mapTenant c k g).drv = s.drv := rfl
@[simp] theorem mapTenant_exports (s : State) (c k : Nat) (g : Tenant → Tenant) : (s.mapTenant c k g).ten.exports = s.ten.exports := rfl
@[simp] theorem mapTenant_downRoutes (s : State) (c k : Nat) (g : Tenant → Tenant) : (s.mapTenant c k g).ten.downRoutes = s.ten.downRoutes := rfl
@[simp] theorem mapTenant_denied (s : State) (c k : Nat) (g : Tenant → Tenant) : (s.mapTenant c k g).ten.denied = s.ten.denied := rfl
@[simp] theorem mapTenant_device (s : State) (c k : Nat) (g : Tenant → Tenant) : (s.mapTenant c k g).ten.device = s.ten.device := rfl
@[simp] theorem mapTenant_lag (s : State) (c k : Nat) (g : Tenant → Tenant) : (s.mapTenant c k g).ten.lag = s.ten.lag := rfl
@[simp] theorem mapTenant_posted (s : State) (c k : Nat) (g : Tenant → Tenant) : (s.mapTenant c k g).ten.posted = s.ten.posted := rfl
@[simp] theorem mapTenant_vfs (s : State) (c k : Nat) (g : Tenant → Tenant) : (s.mapTenant c k g).ten.vfs = s.ten.vfs := rfl
@[simp] theorem mapTenant_hub (s : State) (c k : Nat) (g : Tenant → Tenant) : (s.mapTenant c k g).hub = s.hub := rfl
/-! #### newId -/

@[simp] theorem newId_now (s : State) : (s.newId.2).ctl.now = s.ctl.now := rfl
@[simp] theorem newId_pace (s : State) : (s.newId.2).ctl.pace = s.ctl.pace := rfl
@[simp] theorem newId_sched (s : State) : (s.newId.2).ctl.sched = s.ctl.sched := rfl
@[simp] theorem newId_lats (s : State) : (s.newId.2).ctl.lats = s.ctl.lats := rfl
@[simp] theorem newId_eager (s : State) : (s.newId.2).ctl.eager = s.ctl.eager := rfl
@[simp] theorem newId_fresh (s : State) : (s.newId.2).ctl.fresh = s.ctl.fresh := rfl
@[simp] theorem newId_focus (s : State) : (s.newId.2).ctl.focus = s.ctl.focus := rfl
@[simp] theorem newId_cores (s : State) : (s.newId.2).cores = s.cores := rfl
@[simp] theorem newId_fab (s : State) : (s.newId.2).fab = s.fab := rfl
@[simp] theorem newId_mem (s : State) : (s.newId.2).mem = s.mem := rfl
@[simp] theorem newId_eng (s : State) : (s.newId.2).eng = s.eng := rfl
@[simp] theorem newId_drv (s : State) : (s.newId.2).drv = s.drv := rfl
@[simp] theorem newId_ten (s : State) : (s.newId.2).ten = s.ten := rfl
@[simp] theorem newId_hub (s : State) : (s.newId.2).hub = s.hub := rfl
/-! #### draw -/

@[simp] theorem draw_now (s : State) : (s.draw.2).ctl.now = s.ctl.now := rfl
@[simp] theorem draw_pace (s : State) : (s.draw.2).ctl.pace = s.ctl.pace := rfl
@[simp] theorem draw_sched (s : State) : (s.draw.2).ctl.sched = s.ctl.sched := rfl
@[simp] theorem draw_lats (s : State) : (s.draw.2).ctl.lats = s.ctl.lats := rfl
@[simp] theorem draw_eager (s : State) : (s.draw.2).ctl.eager = s.ctl.eager := rfl
@[simp] theorem draw_ids (s : State) : (s.draw.2).ctl.ids = s.ctl.ids := rfl
@[simp] theorem draw_focus (s : State) : (s.draw.2).ctl.focus = s.ctl.focus := rfl
@[simp] theorem draw_cores (s : State) : (s.draw.2).cores = s.cores := rfl
@[simp] theorem draw_fab (s : State) : (s.draw.2).fab = s.fab := rfl
@[simp] theorem draw_mem (s : State) : (s.draw.2).mem = s.mem := rfl
@[simp] theorem draw_eng (s : State) : (s.draw.2).eng = s.eng := rfl
@[simp] theorem draw_drv (s : State) : (s.draw.2).drv = s.drv := rfl
@[simp] theorem draw_ten (s : State) : (s.draw.2).ten = s.ten := rfl
@[simp] theorem draw_hub (s : State) : (s.draw.2).hub = s.hub := rfl
/-! #### say -/

@[simp] theorem say_ctl (s : State) (m : Msg) : (s.say m).ctl = s.ctl := rfl
@[simp] theorem say_cores (s : State) (m : Msg) : (s.say m).cores = s.cores := rfl
@[simp] theorem say_fab (s : State) (m : Msg) : (s.say m).fab = s.fab := rfl
@[simp] theorem say_mem (s : State) (m : Msg) : (s.say m).mem = s.mem := rfl
@[simp] theorem say_eng (s : State) (m : Msg) : (s.say m).eng = s.eng := rfl
@[simp] theorem say_drv (s : State) (m : Msg) : (s.say m).drv = s.drv := rfl
@[simp] theorem say_ten (s : State) (m : Msg) : (s.say m).ten = s.ten := rfl
@[simp] theorem say_ready (s : State) (m : Msg) : (s.say m).hub.ready = s.hub.ready := rfl
@[simp] theorem say_therm (s : State) (m : Msg) : (s.say m).hub.therm = s.hub.therm := rfl
@[simp] theorem say_bootDie (s : State) (m : Msg) : (s.say m).hub.bootDie = s.hub.bootDie := rfl
@[simp] theorem say_bootStep (s : State) (m : Msg) : (s.say m).hub.bootStep = s.hub.bootStep := rfl
@[simp] theorem say_stage (s : State) (m : Msg) : (s.say m).hub.stage = s.hub.stage := rfl
@[simp] theorem say_failed (s : State) (m : Msg) : (s.say m).hub.failed = s.hub.failed := rfl
@[simp] theorem say_resetting (s : State) (m : Msg) : (s.say m).hub.resetting = s.hub.resetting := rfl
@[simp] theorem say_atLimit (s : State) (m : Msg) : (s.say m).hub.atLimit = s.hub.atLimit := rfl
@[simp] theorem say_excluded (s : State) (m : Msg) : (s.say m).hub.excluded = s.hub.excluded := rfl
@[simp] theorem say_pwr (s : State) (m : Msg) : (s.say m).hub.pwr = s.hub.pwr := rfl
@[simp] theorem say_skipped (s : State) (m : Msg) : (s.say m).hub.skipped = s.hub.skipped := rfl
@[simp] theorem say_temp (s : State) (m : Msg) : (s.say m).hub.temp = s.hub.temp := rfl
@[simp] theorem say_policy (s : State) (m : Msg) : (s.say m).hub.policy = s.hub.policy := rfl
@[simp] theorem say_auto (s : State) (m : Msg) : (s.say m).hub.auto = s.hub.auto := rfl
@[simp] theorem say_skipMask (s : State) (m : Msg) : (s.say m).hub.skipMask = s.hub.skipMask := rfl
@[simp] theorem say_skip (s : State) (m : Msg) : (s.say m).hub.skip = s.hub.skip := rfl
@[simp] theorem say_boots (s : State) (m : Msg) : (s.say m).hub.boots = s.hub.boots := rfl
@[simp] theorem say_surge (s : State) (m : Msg) : (s.say m).hub.surge = s.hub.surge := rfl
@[simp] theorem say_hot (s : State) (m : Msg) : (s.say m).hub.hot = s.hub.hot := rfl
@[simp] theorem say_dead (s : State) (m : Msg) : (s.say m).hub.dead = s.hub.dead := rfl
@[simp] theorem say_thresholds (s : State) (m : Msg) : (s.say m).hub.thresholds = s.hub.thresholds := rfl
/-! #### mapInput -/

@[simp] theorem mapInput_ctl (s : State) (e : Ep) (g : Input → Input) : (s.mapInput e g).ctl = s.ctl := rfl
@[simp] theorem mapInput_cores (s : State) (e : Ep) (g : Input → Input) : (s.mapInput e g).cores = s.cores := rfl
@[simp] theorem mapInput_confs (s : State) (e : Ep) (g : Input → Input) : (s.mapInput e g).fab.confs = s.fab.confs := rfl
@[simp] theorem mapInput_elems (s : State) (e : Ep) (g : Input → Input) : (s.mapInput e g).fab.elems = s.fab.elems := rfl
@[simp] theorem mapInput_links (s : State) (e : Ep) (g : Input → Input) : (s.mapInput e g).fab.links = s.fab.links := rfl
@[simp] theorem mapInput_badHops (s : State) (e : Ep) (g : Input → Input) : (s.mapInput e g).fab.badHops = s.fab.badHops := rfl
@[simp] theorem mapInput_mem (s : State) (e : Ep) (g : Input → Input) : (s.mapInput e g).mem = s.mem := rfl
@[simp] theorem mapInput_eng (s : State) (e : Ep) (g : Input → Input) : (s.mapInput e g).eng = s.eng := rfl
@[simp] theorem mapInput_drv (s : State) (e : Ep) (g : Input → Input) : (s.mapInput e g).drv = s.drv := rfl
@[simp] theorem mapInput_ten (s : State) (e : Ep) (g : Input → Input) : (s.mapInput e g).ten = s.ten := rfl
@[simp] theorem mapInput_hub (s : State) (e : Ep) (g : Input → Input) : (s.mapInput e g).hub = s.hub := rfl
/-! #### setLink -/

@[simp] theorem setLink_ctl (s : State) (l : Nat) (x : Link) : (s.setLink l x).ctl = s.ctl := rfl
@[simp] theorem setLink_cores (s : State) (l : Nat) (x : Link) : (s.setLink l x).cores = s.cores := rfl
@[simp] theorem setLink_confs (s : State) (l : Nat) (x : Link) : (s.setLink l x).fab.confs = s.fab.confs := rfl
@[simp] theorem setLink_elems (s : State) (l : Nat) (x : Link) : (s.setLink l x).fab.elems = s.fab.elems := rfl
@[simp] theorem setLink_inputs (s : State) (l : Nat) (x : Link) : (s.setLink l x).fab.inputs = s.fab.inputs := rfl
@[simp] theorem setLink_badHops (s : State) (l : Nat) (x : Link) : (s.setLink l x).fab.badHops = s.fab.badHops := rfl
@[simp] theorem setLink_mem (s : State) (l : Nat) (x : Link) : (s.setLink l x).mem = s.mem := rfl
@[simp] theorem setLink_eng (s : State) (l : Nat) (x : Link) : (s.setLink l x).eng = s.eng := rfl
@[simp] theorem setLink_drv (s : State) (l : Nat) (x : Link) : (s.setLink l x).drv = s.drv := rfl
@[simp] theorem setLink_ten (s : State) (l : Nat) (x : Link) : (s.setLink l x).ten = s.ten := rfl
@[simp] theorem setLink_hub (s : State) (l : Nat) (x : Link) : (s.setLink l x).hub = s.hub := rfl
/-! #### touch -/

@[simp] theorem touch_ctl (s : State) (c : Nat) : (s.touch c).ctl = s.ctl := rfl
@[simp] theorem touch_cores (s : State) (c : Nat) : (s.touch c).cores = s.cores := rfl
@[simp] theorem touch_elems (s : State) (c : Nat) : (s.touch c).fab.elems = s.fab.elems := rfl
@[simp] theorem touch_inputs (s : State) (c : Nat) : (s.touch c).fab.inputs = s.fab.inputs := rfl
@[simp] theorem touch_links (s : State) (c : Nat) : (s.touch c).fab.links = s.fab.links := rfl
@[simp] theorem touch_badHops (s : State) (c : Nat) : (s.touch c).fab.badHops = s.fab.badHops := rfl
@[simp] theorem touch_mem (s : State) (c : Nat) : (s.touch c).mem = s.mem := rfl
@[simp] theorem touch_eng (s : State) (c : Nat) : (s.touch c).eng = s.eng := rfl
@[simp] theorem touch_drv (s : State) (c : Nat) : (s.touch c).drv = s.drv := rfl
@[simp] theorem touch_ten (s : State) (c : Nat) : (s.touch c).ten = s.ten := rfl
@[simp] theorem touch_hub (s : State) (c : Nat) : (s.touch c).hub = s.hub := rfl
/-! #### setBar -/

@[simp] theorem setBar_ctl (s : State) (b : Bar) : (s.setBar b).ctl = s.ctl := rfl
@[simp] theorem setBar_tasks (s : State) (b : Bar) : (s.setBar b).cores.tasks = s.cores.tasks := rfl
@[simp] theorem setBar_mixes (s : State) (b : Bar) : (s.setBar b).cores.mixes = s.cores.mixes := rfl
@[simp] theorem setBar_arrivals (s : State) (b : Bar) : (s.setBar b).cores.arrivals = s.cores.arrivals := rfl
@[simp] theorem setBar_dropped (s : State) (b : Bar) : (s.setBar b).cores.dropped = s.cores.dropped := rfl
@[simp] theorem setBar_fab (s : State) (b : Bar) : (s.setBar b).fab = s.fab := rfl
@[simp] theorem setBar_mem (s : State) (b : Bar) : (s.setBar b).mem = s.mem := rfl
@[simp] theorem setBar_eng (s : State) (b : Bar) : (s.setBar b).eng = s.eng := rfl
@[simp] theorem setBar_drv (s : State) (b : Bar) : (s.setBar b).drv = s.drv := rfl
@[simp] theorem setBar_ten (s : State) (b : Bar) : (s.setBar b).ten = s.ten := rfl
@[simp] theorem setBar_hub (s : State) (b : Bar) : (s.setBar b).hub = s.hub := rfl
/-! #### mapLaunch -/

@[simp] theorem mapLaunch_ctl (s : State) (l : Nat) (g : Launch → Launch) : (s.mapLaunch l g).ctl = s.ctl := rfl
@[simp] theorem mapLaunch_cores (s : State) (l : Nat) (g : Launch → Launch) : (s.mapLaunch l g).cores = s.cores := rfl
@[simp] theorem mapLaunch_fab (s : State) (l : Nat) (g : Launch → Launch) : (s.mapLaunch l g).fab = s.fab := rfl
@[simp] theorem mapLaunch_mem (s : State) (l : Nat) (g : Launch → Launch) : (s.mapLaunch l g).mem = s.mem := rfl
@[simp] theorem mapLaunch_eng (s : State) (l : Nat) (g : Launch → Launch) : (s.mapLaunch l g).eng = s.eng := rfl
@[simp] theorem mapLaunch_ckpts (s : State) (l : Nat) (g : Launch → Launch) : (s.mapLaunch l g).drv.ckpts = s.drv.ckpts := rfl
@[simp] theorem mapLaunch_notes (s : State) (l : Nat) (g : Launch → Launch) : (s.mapLaunch l g).drv.notes = s.drv.notes := rfl
@[simp] theorem mapLaunch_notifySeq (s : State) (l : Nat) (g : Launch → Launch) : (s.mapLaunch l g).drv.notifySeq = s.drv.notifySeq := rfl
@[simp] theorem mapLaunch_texts (s : State) (l : Nat) (g : Launch → Launch) : (s.mapLaunch l g).drv.texts = s.drv.texts := rfl
@[simp] theorem mapLaunch_launchedAt (s : State) (l : Nat) (g : Launch → Launch) : (s.mapLaunch l g).drv.launchedAt = s.drv.launchedAt := rfl
@[simp] theorem mapLaunch_ten (s : State) (l : Nat) (g : Launch → Launch) : (s.mapLaunch l g).ten = s.ten := rfl
@[simp] theorem mapLaunch_hub (s : State) (l : Nat) (g : Launch → Launch) : (s.mapLaunch l g).hub = s.hub := rfl
/-! #### focusOn -/

@[simp] theorem focusOn_now (s : State) (f : Focus) : (s.focusOn f).ctl.now = s.ctl.now := rfl
@[simp] theorem focusOn_pace (s : State) (f : Focus) : (s.focusOn f).ctl.pace = s.ctl.pace := rfl
@[simp] theorem focusOn_sched (s : State) (f : Focus) : (s.focusOn f).ctl.sched = s.ctl.sched := rfl
@[simp] theorem focusOn_lats (s : State) (f : Focus) : (s.focusOn f).ctl.lats = s.ctl.lats := rfl
@[simp] theorem focusOn_eager (s : State) (f : Focus) : (s.focusOn f).ctl.eager = s.ctl.eager := rfl
@[simp] theorem focusOn_fresh (s : State) (f : Focus) : (s.focusOn f).ctl.fresh = s.ctl.fresh := rfl
@[simp] theorem focusOn_ids (s : State) (f : Focus) : (s.focusOn f).ctl.ids = s.ctl.ids := rfl
@[simp] theorem focusOn_cores (s : State) (f : Focus) : (s.focusOn f).cores = s.cores := rfl
@[simp] theorem focusOn_fab (s : State) (f : Focus) : (s.focusOn f).fab = s.fab := rfl
@[simp] theorem focusOn_mem (s : State) (f : Focus) : (s.focusOn f).mem = s.mem := rfl
@[simp] theorem focusOn_eng (s : State) (f : Focus) : (s.focusOn f).eng = s.eng := rfl
@[simp] theorem focusOn_drv (s : State) (f : Focus) : (s.focusOn f).drv = s.drv := rfl
@[simp] theorem focusOn_ten (s : State) (f : Focus) : (s.focusOn f).ten = s.ten := rfl
@[simp] theorem focusOn_hub (s : State) (f : Focus) : (s.focusOn f).hub = s.hub := rfl
/-! #### sweepLaunches -/

@[simp] theorem sweepLaunches_ctl (s : State) : (sweepLaunches s).ctl = s.ctl := rfl
@[simp] theorem sweepLaunches_cores (s : State) : (sweepLaunches s).cores = s.cores := rfl
@[simp] theorem sweepLaunches_fab (s : State) : (sweepLaunches s).fab = s.fab := rfl
@[simp] theorem sweepLaunches_mem (s : State) : (sweepLaunches s).mem = s.mem := rfl
@[simp] theorem sweepLaunches_eng (s : State) : (sweepLaunches s).eng = s.eng := rfl
@[simp] theorem sweepLaunches_ckpts (s : State) : (sweepLaunches s).drv.ckpts = s.drv.ckpts := rfl
@[simp] theorem sweepLaunches_notes (s : State) : (sweepLaunches s).drv.notes = s.drv.notes := rfl
@[simp] theorem sweepLaunches_notifySeq (s : State) : (sweepLaunches s).drv.notifySeq = s.drv.notifySeq := rfl
@[simp] theorem sweepLaunches_texts (s : State) : (sweepLaunches s).drv.texts = s.drv.texts := rfl
@[simp] theorem sweepLaunches_launchedAt (s : State) : (sweepLaunches s).drv.launchedAt = s.drv.launchedAt := rfl
@[simp] theorem sweepLaunches_ten (s : State) : (sweepLaunches s).ten = s.ten := rfl
@[simp] theorem sweepLaunches_hub (s : State) : (sweepLaunches s).hub = s.hub := rfl
/-! #### setElem -/

@[simp] theorem setElem_ctl (s : State) (e : Elem) : (s.setElem e).ctl = s.ctl := rfl
@[simp] theorem setElem_cores (s : State) (e : Elem) : (s.setElem e).cores = s.cores := rfl
@[simp] theorem setElem_confs (s : State) (e : Elem) : (s.setElem e).fab.confs = s.fab.confs := rfl
@[simp] theorem setElem_inputs (s : State) (e : Elem) : (s.setElem e).fab.inputs = s.fab.inputs := rfl
@[simp] theorem setElem_links (s : State) (e : Elem) : (s.setElem e).fab.links = s.fab.links := rfl
@[simp] theorem setElem_badHops (s : State) (e : Elem) : (s.setElem e).fab.badHops = s.fab.badHops := rfl
@[simp] theorem setElem_mem (s : State) (e : Elem) : (s.setElem e).mem = s.mem := rfl
@[simp] theorem setElem_eng (s : State) (e : Elem) : (s.setElem e).eng = s.eng := rfl
@[simp] theorem setElem_drv (s : State) (e : Elem) : (s.setElem e).drv = s.drv := rfl
@[simp] theorem setElem_ten (s : State) (e : Elem) : (s.setElem e).ten = s.ten := rfl
@[simp] theorem setElem_hub (s : State) (e : Elem) : (s.setElem e).hub = s.hub := rfl
/-! #### setProg -/

@[simp] theorem setProg_ctl (s : State) (g : AgProg) : (s.setProg g).ctl = s.ctl := rfl
@[simp] theorem setProg_cores (s : State) (g : AgProg) : (s.setProg g).cores = s.cores := rfl
@[simp] theorem setProg_fab (s : State) (g : AgProg) : (s.setProg g).fab = s.fab := rfl
@[simp] theorem setProg_mem (s : State) (g : AgProg) : (s.setProg g).mem = s.mem := rfl
@[simp] theorem setProg_tiles (s : State) (g : AgProg) : (s.setProg g).eng.tiles = s.eng.tiles := rfl
@[simp] theorem setProg_copies (s : State) (g : AgProg) : (s.setProg g).eng.copies = s.eng.copies := rfl
@[simp] theorem setProg_rings (s : State) (g : AgProg) : (s.setProg g).eng.rings = s.eng.rings := rfl
@[simp] theorem setProg_scans (s : State) (g : AgProg) : (s.setProg g).eng.scans = s.eng.scans := rfl
@[simp] theorem setProg_fibres (s : State) (g : AgProg) : (s.setProg g).eng.fibres = s.eng.fibres := rfl
@[simp] theorem setProg_pens (s : State) (g : AgProg) : (s.setProg g).eng.pens = s.eng.pens := rfl
@[simp] theorem setProg_units (s : State) (g : AgProg) : (s.setProg g).eng.units = s.eng.units := rfl
@[simp] theorem setProg_rowRegs (s : State) (g : AgProg) : (s.setProg g).eng.rowRegs = s.eng.rowRegs := rfl
@[simp] theorem setProg_deliveries (s : State) (g : AgProg) : (s.setProg g).eng.deliveries = s.eng.deliveries := rfl
@[simp] theorem setProg_drv (s : State) (g : AgProg) : (s.setProg g).drv = s.drv := rfl
@[simp] theorem setProg_ten (s : State) (g : AgProg) : (s.setProg g).ten = s.ten := rfl
@[simp] theorem setProg_hub (s : State) (g : AgProg) : (s.setProg g).hub = s.hub := rfl
/-! #### setRing -/

@[simp] theorem setRing_ctl (s : State) (r : Ring) : (s.setRing r).ctl = s.ctl := rfl
@[simp] theorem setRing_cores (s : State) (r : Ring) : (s.setRing r).cores = s.cores := rfl
@[simp] theorem setRing_fab (s : State) (r : Ring) : (s.setRing r).fab = s.fab := rfl
@[simp] theorem setRing_mem (s : State) (r : Ring) : (s.setRing r).mem = s.mem := rfl
@[simp] theorem setRing_tiles (s : State) (r : Ring) : (s.setRing r).eng.tiles = s.eng.tiles := rfl
@[simp] theorem setRing_copies (s : State) (r : Ring) : (s.setRing r).eng.copies = s.eng.copies := rfl
@[simp] theorem setRing_scans (s : State) (r : Ring) : (s.setRing r).eng.scans = s.eng.scans := rfl
@[simp] theorem setRing_progs (s : State) (r : Ring) : (s.setRing r).eng.progs = s.eng.progs := rfl
@[simp] theorem setRing_fibres (s : State) (r : Ring) : (s.setRing r).eng.fibres = s.eng.fibres := rfl
@[simp] theorem setRing_pens (s : State) (r : Ring) : (s.setRing r).eng.pens = s.eng.pens := rfl
@[simp] theorem setRing_units (s : State) (r : Ring) : (s.setRing r).eng.units = s.eng.units := rfl
@[simp] theorem setRing_rowRegs (s : State) (r : Ring) : (s.setRing r).eng.rowRegs = s.eng.rowRegs := rfl
@[simp] theorem setRing_deliveries (s : State) (r : Ring) : (s.setRing r).eng.deliveries = s.eng.deliveries := rfl
@[simp] theorem setRing_drv (s : State) (r : Ring) : (s.setRing r).drv = s.drv := rfl
@[simp] theorem setRing_ten (s : State) (r : Ring) : (s.setRing r).ten = s.ten := rfl
@[simp] theorem setRing_hub (s : State) (r : Ring) : (s.setRing r).hub = s.hub := rfl
/-! #### setCopy -/

@[simp] theorem setCopy_ctl (s : State) (c : CopyOp) : (s.setCopy c).ctl = s.ctl := rfl
@[simp] theorem setCopy_cores (s : State) (c : CopyOp) : (s.setCopy c).cores = s.cores := rfl
@[simp] theorem setCopy_fab (s : State) (c : CopyOp) : (s.setCopy c).fab = s.fab := rfl
@[simp] theorem setCopy_mem (s : State) (c : CopyOp) : (s.setCopy c).mem = s.mem := rfl
@[simp] theorem setCopy_tiles (s : State) (c : CopyOp) : (s.setCopy c).eng.tiles = s.eng.tiles := rfl
@[simp] theorem setCopy_rings (s : State) (c : CopyOp) : (s.setCopy c).eng.rings = s.eng.rings := rfl
@[simp] theorem setCopy_scans (s : State) (c : CopyOp) : (s.setCopy c).eng.scans = s.eng.scans := rfl
@[simp] theorem setCopy_progs (s : State) (c : CopyOp) : (s.setCopy c).eng.progs = s.eng.progs := rfl
@[simp] theorem setCopy_fibres (s : State) (c : CopyOp) : (s.setCopy c).eng.fibres = s.eng.fibres := rfl
@[simp] theorem setCopy_pens (s : State) (c : CopyOp) : (s.setCopy c).eng.pens = s.eng.pens := rfl
@[simp] theorem setCopy_units (s : State) (c : CopyOp) : (s.setCopy c).eng.units = s.eng.units := rfl
@[simp] theorem setCopy_rowRegs (s : State) (c : CopyOp) : (s.setCopy c).eng.rowRegs = s.eng.rowRegs := rfl
@[simp] theorem setCopy_deliveries (s : State) (c : CopyOp) : (s.setCopy c).eng.deliveries = s.eng.deliveries := rfl
@[simp] theorem setCopy_drv (s : State) (c : CopyOp) : (s.setCopy c).drv = s.drv := rfl
@[simp] theorem setCopy_ten (s : State) (c : CopyOp) : (s.setCopy c).ten = s.ten := rfl
@[simp] theorem setCopy_hub (s : State) (c : CopyOp) : (s.setCopy c).hub = s.hub := rfl
/-! #### setTile -/

@[simp] theorem setTile_ctl (s : State) (t : Tile) : (s.setTile t).ctl = s.ctl := rfl
@[simp] theorem setTile_cores (s : State) (t : Tile) : (s.setTile t).cores = s.cores := rfl
@[simp] theorem setTile_fab (s : State) (t : Tile) : (s.setTile t).fab = s.fab := rfl
@[simp] theorem setTile_mem (s : State) (t : Tile) : (s.setTile t).mem = s.mem := rfl
@[simp] theorem setTile_copies (s : State) (t : Tile) : (s.setTile t).eng.copies = s.eng.copies := rfl
@[simp] theorem setTile_rings (s : State) (t : Tile) : (s.setTile t).eng.rings = s.eng.rings := rfl
@[simp] theorem setTile_scans (s : State) (t : Tile) : (s.setTile t).eng.scans = s.eng.scans := rfl
@[simp] theorem setTile_progs (s : State) (t : Tile) : (s.setTile t).eng.progs = s.eng.progs := rfl
@[simp] theorem setTile_fibres (s : State) (t : Tile) : (s.setTile t).eng.fibres = s.eng.fibres := rfl
@[simp] theorem setTile_pens (s : State) (t : Tile) : (s.setTile t).eng.pens = s.eng.pens := rfl
@[simp] theorem setTile_units (s : State) (t : Tile) : (s.setTile t).eng.units = s.eng.units := rfl
@[simp] theorem setTile_rowRegs (s : State) (t : Tile) : (s.setTile t).eng.rowRegs = s.eng.rowRegs := rfl
@[simp] theorem setTile_deliveries (s : State) (t : Tile) : (s.setTile t).eng.deliveries = s.eng.deliveries := rfl
@[simp] theorem setTile_drv (s : State) (t : Tile) : (s.setTile t).drv = s.drv := rfl
@[simp] theorem setTile_ten (s : State) (t : Tile) : (s.setTile t).ten = s.ten := rfl
@[simp] theorem setTile_hub (s : State) (t : Tile) : (s.setTile t).hub = s.hub := rfl
/-! #### setUnit -/

@[simp] theorem setUnit_ctl (s : State) (u : RowUnit) : (s.setUnit u).ctl = s.ctl := rfl
@[simp] theorem setUnit_cores (s : State) (u : RowUnit) : (s.setUnit u).cores = s.cores := rfl
@[simp] theorem setUnit_fab (s : State) (u : RowUnit) : (s.setUnit u).fab = s.fab := rfl
@[simp] theorem setUnit_mem (s : State) (u : RowUnit) : (s.setUnit u).mem = s.mem := rfl
@[simp] theorem setUnit_tiles (s : State) (u : RowUnit) : (s.setUnit u).eng.tiles = s.eng.tiles := rfl
@[simp] theorem setUnit_copies (s : State) (u : RowUnit) : (s.setUnit u).eng.copies = s.eng.copies := rfl
@[simp] theorem setUnit_rings (s : State) (u : RowUnit) : (s.setUnit u).eng.rings = s.eng.rings := rfl
@[simp] theorem setUnit_scans (s : State) (u : RowUnit) : (s.setUnit u).eng.scans = s.eng.scans := rfl
@[simp] theorem setUnit_progs (s : State) (u : RowUnit) : (s.setUnit u).eng.progs = s.eng.progs := rfl
@[simp] theorem setUnit_fibres (s : State) (u : RowUnit) : (s.setUnit u).eng.fibres = s.eng.fibres := rfl
@[simp] theorem setUnit_pens (s : State) (u : RowUnit) : (s.setUnit u).eng.pens = s.eng.pens := rfl
@[simp] theorem setUnit_rowRegs (s : State) (u : RowUnit) : (s.setUnit u).eng.rowRegs = s.eng.rowRegs := rfl
@[simp] theorem setUnit_deliveries (s : State) (u : RowUnit) : (s.setUnit u).eng.deliveries = s.eng.deliveries := rfl
@[simp] theorem setUnit_drv (s : State) (u : RowUnit) : (s.setUnit u).drv = s.drv := rfl
@[simp] theorem setUnit_ten (s : State) (u : RowUnit) : (s.setUnit u).ten = s.ten := rfl
@[simp] theorem setUnit_hub (s : State) (u : RowUnit) : (s.setUnit u).hub = s.hub := rfl
/-! #### setBank -/

@[simp] theorem setBank_ctl (s : State) (b : Bank) : (s.setBank b).ctl = s.ctl := rfl
@[simp] theorem setBank_cores (s : State) (b : Bank) : (s.setBank b).cores = s.cores := rfl
@[simp] theorem setBank_fab (s : State) (b : Bank) : (s.setBank b).fab = s.fab := rfl
@[simp] theorem setBank_bytes (s : State) (b : Bank) : (s.setBank b).mem.bytes = s.mem.bytes := rfl
@[simp] theorem setBank_poison (s : State) (b : Bank) : (s.setBank b).mem.poison = s.mem.poison := rfl
@[simp] theorem setBank_lines (s : State) (b : Bank) : (s.setBank b).mem.lines = s.mem.lines := rfl
@[simp] theorem setBank_copies (s : State) (b : Bank) : (s.setBank b).mem.copies = s.mem.copies := rfl
@[simp] theorem setBank_tlb (s : State) (b : Bank) : (s.setBank b).mem.tlb = s.mem.tlb := rfl
@[simp] theorem setBank_pages (s : State) (b : Bank) : (s.setBank b).mem.pages = s.mem.pages := rfl
@[simp] theorem setBank_partials (s : State) (b : Bank) : (s.setBank b).mem.partials = s.mem.partials := rfl
@[simp] theorem setBank_empties (s : State) (b : Bank) : (s.setBank b).mem.empties = s.mem.empties := rfl
@[simp] theorem setBank_parkedBy (s : State) (b : Bank) : (s.setBank b).mem.parkedBy = s.mem.parkedBy := rfl
@[simp] theorem setBank_outside (s : State) (b : Bank) : (s.setBank b).mem.outside = s.mem.outside := rfl
@[simp] theorem setBank_packMeta (s : State) (b : Bank) : (s.setBank b).mem.packMeta = s.mem.packMeta := rfl
@[simp] theorem setBank_tables (s : State) (b : Bank) : (s.setBank b).mem.tables = s.mem.tables := rfl
@[simp] theorem setBank_samples (s : State) (b : Bank) : (s.setBank b).mem.samples = s.mem.samples := rfl
@[simp] theorem setBank_phases (s : State) (b : Bank) : (s.setBank b).mem.phases = s.mem.phases := rfl
@[simp] theorem setBank_moved (s : State) (b : Bank) : (s.setBank b).mem.moved = s.mem.moved := rfl
@[simp] theorem setBank_packed (s : State) (b : Bank) : (s.setBank b).mem.packed = s.mem.packed := rfl
@[simp] theorem setBank_near (s : State) (b : Bank) : (s.setBank b).mem.near = s.mem.near := rfl
@[simp] theorem setBank_l2 (s : State) (b : Bank) : (s.setBank b).mem.l2 = s.mem.l2 := rfl
@[simp] theorem setBank_under (s : State) (b : Bank) : (s.setBank b).mem.under = s.mem.under := rfl
@[simp] theorem setBank_hostOld (s : State) (b : Bank) : (s.setBank b).mem.hostOld = s.mem.hostOld := rfl
@[simp] theorem setBank_hostLines (s : State) (b : Bank) : (s.setBank b).mem.hostLines = s.mem.hostLines := rfl
@[simp] theorem setBank_sealed (s : State) (b : Bank) : (s.setBank b).mem.sealed = s.mem.sealed := rfl
@[simp] theorem setBank_retired (s : State) (b : Bank) : (s.setBank b).mem.retired = s.mem.retired := rfl
@[simp] theorem setBank_rtc (s : State) (b : Bank) : (s.setBank b).mem.rtc = s.mem.rtc := rfl
@[simp] theorem setBank_ats (s : State) (b : Bank) : (s.setBank b).mem.ats = s.mem.ats := rfl
@[simp] theorem setBank_atsGen (s : State) (b : Bank) : (s.setBank b).mem.atsGen = s.mem.atsGen := rfl
@[simp] theorem setBank_eng (s : State) (b : Bank) : (s.setBank b).eng = s.eng := rfl
@[simp] theorem setBank_drv (s : State) (b : Bank) : (s.setBank b).drv = s.drv := rfl
@[simp] theorem setBank_ten (s : State) (b : Bank) : (s.setBank b).ten = s.ten := rfl
@[simp] theorem setBank_hub (s : State) (b : Bank) : (s.setBank b).hub = s.hub := rfl
/-! #### fired -/

@[simp] theorem fired_id (f : Frame) (idx : Nat) (x : Ins) : (f.fired idx x).id = f.id := rfl
@[simp] theorem fired_hdr (f : Frame) (idx : Nat) (x : Ins) : (f.fired idx x).hdr = f.hdr := rfl
@[simp] theorem fired_n (f : Frame) (idx : Nat) (x : Ins) : (f.fired idx x).n = f.n := rfl
@[simp] theorem fired_m (f : Frame) (idx : Nat) (x : Ins) : (f.fired idx x).m = f.m := rfl
@[simp] theorem fired_w (f : Frame) (idx : Nat) (x : Ins) : (f.fired idx x).w = f.w := rfl
@[simp] theorem fired_at_ (f : Frame) (idx : Nat) (x : Ins) : (f.fired idx x).at_ = f.at_ := rfl
@[simp] theorem fired_order (f : Frame) (idx : Nat) (x : Ins) : (f.fired idx x).order = f.order := rfl
@[simp] theorem fired_spr (f : Frame) (idx : Nat) (x : Ins) : (f.fired idx x).spr = f.spr := rfl
@[simp] theorem fired_g0 (f : Frame) (idx : Nat) (x : Ins) : (f.fired idx x).g0 = f.g0 := rfl
@[simp] theorem fired_gpend (f : Frame) (idx : Nat) (x : Ins) : (f.fired idx x).gpend = f.gpend := rfl
@[simp] theorem fired_outs (f : Frame) (idx : Nat) (x : Ins) : (f.fired idx x).outs = f.outs := rfl
@[simp] theorem fired_gw (f : Frame) (idx : Nat) (x : Ins) : (f.fired idx x).gw = f.gw := rfl
@[simp] theorem fired_vw (f : Frame) (idx : Nat) (x : Ins) : (f.fired idx x).vw = f.vw := rfl
@[simp] theorem fired_xw (f : Frame) (idx : Nat) (x : Ins) : (f.fired idx x).xw = f.xw := rfl
@[simp] theorem fired_flags (f : Frame) (idx : Nat) (x : Ins) : (f.fired idx x).flags = f.flags := rfl
@[simp] theorem fired_narrowed (f : Frame) (idx : Nat) (x : Ins) : (f.fired idx x).narrowed = f.narrowed := rfl
@[simp] theorem fired_exit (f : Frame) (idx : Nat) (x : Ins) : (f.fired idx x).exit = f.exit := rfl
@[simp] theorem fired_bkpt (f : Frame) (idx : Nat) (x : Ins) : (f.fired idx x).bkpt = f.bkpt := rfl
@[simp] theorem fired_chain (f : Frame) (idx : Nat) (x : Ins) : (f.fired idx x).chain = f.chain := rfl
@[simp] theorem fired_sends (f : Frame) (idx : Nat) (x : Ins) : (f.fired idx x).sends = f.sends := rfl
@[simp] theorem fired_waits (f : Frame) (idx : Nat) (x : Ins) : (f.fired idx x).waits = f.waits := rfl
@[simp] theorem fired_paused (f : Frame) (idx : Nat) (x : Ins) : (f.fired idx x).paused = f.paused := rfl
@[simp] theorem fired_flying (f : Frame) (idx : Nat) (x : Ins) : (f.fired idx x).flying = f.flying := rfl
@[simp] theorem fired_till (f : Frame) (idx : Nat) (x : Ins) : (f.fired idx x).till = f.till := rfl
@[simp] theorem fired_raised (f : Frame) (idx : Nat) (x : Ins) : (f.fired idx x).raised = f.raised := rfl
@[simp] theorem fired_shut (f : Frame) (idx : Nat) (x : Ins) : (f.fired idx x).shut = f.shut := rfl
@[simp] theorem fired_met (f : Frame) (idx : Nat) (x : Ins) : (f.fired idx x).met = f.met := rfl
/-! #### wait -/

@[simp] theorem wait_id (f : Frame) (idx : Nat) (k : WaitKind) : (f.wait idx k).id = f.id := rfl
@[simp] theorem wait_hdr (f : Frame) (idx : Nat) (k : WaitKind) : (f.wait idx k).hdr = f.hdr := rfl
@[simp] theorem wait_n (f : Frame) (idx : Nat) (k : WaitKind) : (f.wait idx k).n = f.n := rfl
@[simp] theorem wait_m (f : Frame) (idx : Nat) (k : WaitKind) : (f.wait idx k).m = f.m := rfl
@[simp] theorem wait_w (f : Frame) (idx : Nat) (k : WaitKind) : (f.wait idx k).w = f.w := rfl
@[simp] theorem wait_at_ (f : Frame) (idx : Nat) (k : WaitKind) : (f.wait idx k).at_ = f.at_ := rfl
@[simp] theorem wait_order (f : Frame) (idx : Nat) (k : WaitKind) : (f.wait idx k).order = f.order := rfl
@[simp] theorem wait_spr (f : Frame) (idx : Nat) (k : WaitKind) : (f.wait idx k).spr = f.spr := rfl
@[simp] theorem wait_g0 (f : Frame) (idx : Nat) (k : WaitKind) : (f.wait idx k).g0 = f.g0 := rfl
@[simp] theorem wait_gpend (f : Frame) (idx : Nat) (k : WaitKind) : (f.wait idx k).gpend = f.gpend := rfl
@[simp] theorem wait_ins (f : Frame) (idx : Nat) (k : WaitKind) : (f.wait idx k).ins = f.ins := rfl
@[simp] theorem wait_outs (f : Frame) (idx : Nat) (k : WaitKind) : (f.wait idx k).outs = f.outs := rfl
@[simp] theorem wait_gw (f : Frame) (idx : Nat) (k : WaitKind) : (f.wait idx k).gw = f.gw := rfl
@[simp] theorem wait_vw (f : Frame) (idx : Nat) (k : WaitKind) : (f.wait idx k).vw = f.vw := rfl
@[simp] theorem wait_xw (f : Frame) (idx : Nat) (k : WaitKind) : (f.wait idx k).xw = f.xw := rfl
@[simp] theorem wait_flags (f : Frame) (idx : Nat) (k : WaitKind) : (f.wait idx k).flags = f.flags := rfl
@[simp] theorem wait_narrowed (f : Frame) (idx : Nat) (k : WaitKind) : (f.wait idx k).narrowed = f.narrowed := rfl
@[simp] theorem wait_exit (f : Frame) (idx : Nat) (k : WaitKind) : (f.wait idx k).exit = f.exit := rfl
@[simp] theorem wait_bkpt (f : Frame) (idx : Nat) (k : WaitKind) : (f.wait idx k).bkpt = f.bkpt := rfl
@[simp] theorem wait_chain (f : Frame) (idx : Nat) (k : WaitKind) : (f.wait idx k).chain = f.chain := rfl
@[simp] theorem wait_sends (f : Frame) (idx : Nat) (k : WaitKind) : (f.wait idx k).sends = f.sends := rfl
@[simp] theorem wait_paused (f : Frame) (idx : Nat) (k : WaitKind) : (f.wait idx k).paused = f.paused := rfl
@[simp] theorem wait_flying (f : Frame) (idx : Nat) (k : WaitKind) : (f.wait idx k).flying = f.flying := rfl
@[simp] theorem wait_till (f : Frame) (idx : Nat) (k : WaitKind) : (f.wait idx k).till = f.till := rfl
@[simp] theorem wait_raised (f : Frame) (idx : Nat) (k : WaitKind) : (f.wait idx k).raised = f.raised := rfl
@[simp] theorem wait_shut (f : Frame) (idx : Nat) (k : WaitKind) : (f.wait idx k).shut = f.shut := rfl
@[simp] theorem wait_met (f : Frame) (idx : Nat) (k : WaitKind) : (f.wait idx k).met = f.met := rfl
/-! #### unwait -/

@[simp] theorem unwait_id (f : Frame) (idx : Nat) : (f.unwait idx).id = f.id := rfl
@[simp] theorem unwait_hdr (f : Frame) (idx : Nat) : (f.unwait idx).hdr = f.hdr := rfl
@[simp] theorem unwait_n (f : Frame) (idx : Nat) : (f.unwait idx).n = f.n := rfl
@[simp] theorem unwait_m (f : Frame) (idx : Nat) : (f.unwait idx).m = f.m := rfl
@[simp] theorem unwait_w (f : Frame) (idx : Nat) : (f.unwait idx).w = f.w := rfl
@[simp] theorem unwait_at_ (f : Frame) (idx : Nat) : (f.unwait idx).at_ = f.at_ := rfl
@[simp] theorem unwait_order (f : Frame) (idx : Nat) : (f.unwait idx).order = f.order := rfl
@[simp] theorem unwait_spr (f : Frame) (idx : Nat) : (f.unwait idx).spr = f.spr := rfl
@[simp] theorem unwait_g0 (f : Frame) (idx : Nat) : (f.unwait idx).g0 = f.g0 := rfl
@[simp] theorem unwait_gpend (f : Frame) (idx : Nat) : (f.unwait idx).gpend = f.gpend := rfl
@[simp] theorem unwait_ins (f : Frame) (idx : Nat) : (f.unwait idx).ins = f.ins := rfl
@[simp] theorem unwait_outs (f : Frame) (idx : Nat) : (f.unwait idx).outs = f.outs := rfl
@[simp] theorem unwait_gw (f : Frame) (idx : Nat) : (f.unwait idx).gw = f.gw := rfl
@[simp] theorem unwait_vw (f : Frame) (idx : Nat) : (f.unwait idx).vw = f.vw := rfl
@[simp] theorem unwait_xw (f : Frame) (idx : Nat) : (f.unwait idx).xw = f.xw := rfl
@[simp] theorem unwait_flags (f : Frame) (idx : Nat) : (f.unwait idx).flags = f.flags := rfl
@[simp] theorem unwait_narrowed (f : Frame) (idx : Nat) : (f.unwait idx).narrowed = f.narrowed := rfl
@[simp] theorem unwait_exit (f : Frame) (idx : Nat) : (f.unwait idx).exit = f.exit := rfl
@[simp] theorem unwait_bkpt (f : Frame) (idx : Nat) : (f.unwait idx).bkpt = f.bkpt := rfl
@[simp] theorem unwait_chain (f : Frame) (idx : Nat) : (f.unwait idx).chain = f.chain := rfl
@[simp] theorem unwait_sends (f : Frame) (idx : Nat) : (f.unwait idx).sends = f.sends := rfl
@[simp] theorem unwait_paused (f : Frame) (idx : Nat) : (f.unwait idx).paused = f.paused := rfl
@[simp] theorem unwait_flying (f : Frame) (idx : Nat) : (f.unwait idx).flying = f.flying := rfl
@[simp] theorem unwait_till (f : Frame) (idx : Nat) : (f.unwait idx).till = f.till := rfl
@[simp] theorem unwait_raised (f : Frame) (idx : Nat) : (f.unwait idx).raised = f.raised := rfl
@[simp] theorem unwait_shut (f : Frame) (idx : Nat) : (f.unwait idx).shut = f.shut := rfl
@[simp] theorem unwait_met (f : Frame) (idx : Nat) : (f.unwait idx).met = f.met := rfl
/-! #### setOp -/

@[simp] theorem setOp_id (f : Frame) (q : Nat) (k : OpSt) : (f.setOp q k).id = f.id := rfl
@[simp] theorem setOp_hdr (f : Frame) (q : Nat) (k : OpSt) : (f.setOp q k).hdr = f.hdr := rfl
@[simp] theorem setOp_n (f : Frame) (q : Nat) (k : OpSt) : (f.setOp q k).n = f.n := rfl
@[simp] theorem setOp_m (f : Frame) (q : Nat) (k : OpSt) : (f.setOp q k).m = f.m := rfl
@[simp] theorem setOp_w (f : Frame) (q : Nat) (k : OpSt) : (f.setOp q k).w = f.w := rfl
@[simp] theorem setOp_at_ (f : Frame) (q : Nat) (k : OpSt) : (f.setOp q k).at_ = f.at_ := rfl
@[simp] theorem setOp_order (f : Frame) (q : Nat) (k : OpSt) : (f.setOp q k).order = f.order := rfl
@[simp] theorem setOp_spr (f : Frame) (q : Nat) (k : OpSt) : (f.setOp q k).spr = f.spr := rfl
@[simp] theorem setOp_g0 (f : Frame) (q : Nat) (k : OpSt) : (f.setOp q k).g0 = f.g0 := rfl
@[simp] theorem setOp_gpend (f : Frame) (q : Nat) (k : OpSt) : (f.setOp q k).gpend = f.gpend := rfl
@[simp] theorem setOp_ins (f : Frame) (q : Nat) (k : OpSt) : (f.setOp q k).ins = f.ins := rfl
@[simp] theorem setOp_outs (f : Frame) (q : Nat) (k : OpSt) : (f.setOp q k).outs = f.outs := rfl
@[simp] theorem setOp_gw (f : Frame) (q : Nat) (k : OpSt) : (f.setOp q k).gw = f.gw := rfl
@[simp] theorem setOp_vw (f : Frame) (q : Nat) (k : OpSt) : (f.setOp q k).vw = f.vw := rfl
@[simp] theorem setOp_xw (f : Frame) (q : Nat) (k : OpSt) : (f.setOp q k).xw = f.xw := rfl
@[simp] theorem setOp_flags (f : Frame) (q : Nat) (k : OpSt) : (f.setOp q k).flags = f.flags := rfl
@[simp] theorem setOp_narrowed (f : Frame) (q : Nat) (k : OpSt) : (f.setOp q k).narrowed = f.narrowed := rfl
@[simp] theorem setOp_exit (f : Frame) (q : Nat) (k : OpSt) : (f.setOp q k).exit = f.exit := rfl
@[simp] theorem setOp_bkpt (f : Frame) (q : Nat) (k : OpSt) : (f.setOp q k).bkpt = f.bkpt := rfl
@[simp] theorem setOp_sends (f : Frame) (q : Nat) (k : OpSt) : (f.setOp q k).sends = f.sends := rfl
@[simp] theorem setOp_waits (f : Frame) (q : Nat) (k : OpSt) : (f.setOp q k).waits = f.waits := rfl
@[simp] theorem setOp_paused (f : Frame) (q : Nat) (k : OpSt) : (f.setOp q k).paused = f.paused := rfl
@[simp] theorem setOp_flying (f : Frame) (q : Nat) (k : OpSt) : (f.setOp q k).flying = f.flying := rfl
@[simp] theorem setOp_till (f : Frame) (q : Nat) (k : OpSt) : (f.setOp q k).till = f.till := rfl
@[simp] theorem setOp_raised (f : Frame) (q : Nat) (k : OpSt) : (f.setOp q k).raised = f.raised := rfl
@[simp] theorem setOp_shut (f : Frame) (q : Nat) (k : OpSt) : (f.setOp q k).shut = f.shut := rfl
@[simp] theorem setOp_met (f : Frame) (q : Nat) (k : OpSt) : (f.setOp q k).met = f.met := rfl
/-! #### count -/

@[simp] theorem count_pos (t : Task) (n k : Nat) : (t.count n k).pos = t.pos := rfl
@[simp] theorem count_slot (t : Task) (n k : Nat) : (t.count n k).slot = t.slot := rfl
@[simp] theorem count_cid (t : Task) (n k : Nat) : (t.count n k).cid = t.cid := rfl
@[simp] theorem count_st (t : Task) (n k : Nat) : (t.count n k).st = t.st := rfl
@[simp] theorem count_g (t : Task) (n k : Nat) : (t.count n k).g = t.g := rfl
@[simp] theorem count_v (t : Task) (n k : Nat) : (t.count n k).v = t.v := rfl
@[simp] theorem count_pending (t : Task) (n k : Nat) : (t.count n k).pending = t.pending := rfl
@[simp] theorem count_cur (t : Task) (n k : Nat) : (t.count n k).cur = t.cur := rfl
@[simp] theorem count_entry (t : Task) (n k : Nat) : (t.count n k).entry = t.entry := rfl
@[simp] theorem count_prio (t : Task) (n k : Nat) : (t.count n k).prio = t.prio := rfl
@[simp] theorem count_pass (t : Task) (n k : Nat) : (t.count n k).pass = t.pass := rfl
@[simp] theorem count_since (t : Task) (n k : Nat) : (t.count n k).since = t.since := rfl
@[simp] theorem count_readyAt (t : Task) (n k : Nat) : (t.count n k).readyAt = t.readyAt := rfl
@[simp] theorem count_clu (t : Task) (n k : Nat) : (t.count n k).clu = t.clu := rfl
@[simp] theorem count_part (t : Task) (n k : Nat) : (t.count n k).part = t.part := rfl
@[simp] theorem count_cfg (t : Task) (n k : Nat) : (t.count n k).cfg = t.cfg := rfl
@[simp] theorem count_ten (t : Task) (n k : Nat) : (t.count n k).ten = t.ten := rfl
@[simp] theorem count_lnk (t : Task) (n k : Nat) : (t.count n k).lnk = t.lnk := rfl
@[simp] theorem count_flg (t : Task) (n k : Nat) : (t.count n k).flg = t.flg := rfl
@[simp] theorem count_rm (t : Task) (n k : Nat) : (t.count n k).rm = t.rm := rfl
@[simp] theorem count_pts (t : Task) (n k : Nat) : (t.count n k).pts = t.pts := rfl
@[simp] theorem count_bound (t : Task) (n k : Nat) : (t.count n k).bound = t.bound := rfl
@[simp] theorem count_args (t : Task) (n k : Nat) : (t.count n k).args = t.args := rfl
@[simp] theorem count_rnglo (t : Task) (n k : Nat) : (t.count n k).rnglo = t.rnglo := rfl
@[simp] theorem count_rnghi (t : Task) (n k : Nat) : (t.count n k).rnghi = t.rnghi := rfl
@[simp] theorem count_steal (t : Task) (n k : Nat) : (t.count n k).steal = t.steal := rfl
@[simp] theorem count_shp (t : Task) (n k : Nat) : (t.count n k).shp = t.shp := rfl
@[simp] theorem count_fault (t : Task) (n k : Nat) : (t.count n k).fault = t.fault := rfl
@[simp] theorem count_scope (t : Task) (n k : Nat) : (t.count n k).scope = t.scope := rfl
@[simp] theorem count_ports (t : Task) (n k : Nat) : (t.count n k).ports = t.ports := rfl
@[simp] theorem count_sport (t : Task) (n k : Nat) : (t.count n k).sport = t.sport := rfl
@[simp] theorem count_frame (t : Task) (n k : Nat) : (t.count n k).frame = t.frame := rfl
@[simp] theorem count_queue (t : Task) (n k : Nat) : (t.count n k).queue = t.queue := rfl
@[simp] theorem count_reds (t : Task) (n k : Nat) : (t.count n k).reds = t.reds := rfl
@[simp] theorem count_lag (t : Task) (n k : Nat) : (t.count n k).lag = t.lag := rfl
@[simp] theorem count_owed (t : Task) (n k : Nat) : (t.count n k).owed = t.owed := rfl
@[simp] theorem count_joins (t : Task) (n k : Nat) : (t.count n k).joins = t.joins := rfl
@[simp] theorem count_redPts (t : Task) (n k : Nat) : (t.count n k).redPts = t.redPts := rfl
@[simp] theorem count_fenced (t : Task) (n k : Nat) : (t.count n k).fenced = t.fenced := rfl
@[simp] theorem count_steals (t : Task) (n k : Nat) : (t.count n k).steals = t.steals := rfl
@[simp] theorem count_replies (t : Task) (n k : Nat) : (t.count n k).replies = t.replies := rfl
@[simp] theorem count_served (t : Task) (n k : Nat) : (t.count n k).served = t.served := rfl
@[simp] theorem count_held (t : Task) (n k : Nat) : (t.count n k).held = t.held := rfl
@[simp] theorem count_code (t : Task) (n k : Nat) : (t.count n k).code = t.code := rfl
@[simp] theorem count_saved (t : Task) (n k : Nat) : (t.count n k).saved = t.saved := rfl

end Sys2Proof.Machine
end

