-- ==== Sys2Proof/Tests/Slice0.lean ====
section
/-! SUPPORT. The tests of the model: ill-formed terms, words of the spec, single steps whose outcome the spec gives, and for every
statement with hypotheses a state that meets them. -/

namespace Sys2Proof.Tests
open Sys2Proof Sys2Proof.Machine
set_option Elab.async false

/-! ### States of the tests -/

/-- The PE at column 0, row 0 runs a block of one instruction, whose word is `i`'s and whose slots hold `a`, `b` and `c`; the step
stands at that instruction. -/
def site (i : Instr) (a : Option Tok := none) (b : Option Tok := none) (c : Option Tok := none) : State :=
  let s := placeInstr State.reset (toBytes 4 ((encode i).getD 0))
  let s := { s with ctl := { s.ctl with sched := [], focus := .fire 0 0 0 } }
  s.mapTask 0 0 (fun t => { t with frame := t.frame.map (fun f => { f with ins := [{ a := a, b := b, c := c, fired := .notYet }] }) })

/-- The task of the site, its frame and the slots of its instruction. -/
def tk (s : State) : Task := (s.task? 0 0).getD (freshTask 0 0 0)
def fr (s : State) : Frame := (tk s).frame.getD (placedFrame s (tk s) 0)
def sl (s : State) : Ins := (fr s).ins.getD 0 Ins.empty

/-- The frame of the site changed. -/
def withFrame (s : State) (g : Frame → Frame) : State := s.mapTask 0 0 (fun t => { t with frame := t.frame.map g })
/-- The task of the site changed. -/
def withTask (s : State) (g : Task → Task) : State := s.mapTask 0 0 g

/-- `i` fires normally at the site of `s`, and its targets take `tok` with flags `fl`. -/
def firesTaking (s : State) (i : Instr) (tok : Tok) (fl : Nat := 0) : Bool :=
  decide (Fires s i (tk s) (fr s) 0 (sl s)) &&
  (Frame.putAll { (fr s).fired 0 (sl s) with flags := (fr s).flags ||| fl } 0 tok i.targets).isOk

/-- What `firesTaking` says. -/
theorem firesTaking_spec {s : State} {i : Instr} {tok : Tok} {fl : Nat} (h : firesTaking s i tok fl = true) :
    ∃ t f x f', Fires s i t f 0 x ∧ Frame.putAll { f.fired 0 x with flags := f.flags ||| fl } 0 tok i.targets = .ok f' := by
  rw [firesTaking, Bool.and_eq_true] at h
  refine ⟨tk s, fr s, sl s, ?_⟩
  cases e : Frame.putAll { (fr s).fired 0 (sl s) with flags := (fr s).flags ||| fl } 0 tok i.targets with
  | ok f' => exact ⟨f', of_decide_eq_true h.1, rfl⟩
  | error r => rw [e] at h; cases h.2

/-- A scalar and a vector operand. -/
def sc (x : Word) : Option Tok := some (scalar x)
def vc (x : Vec) : Option Tok := some (vector x)
/-- Targets of the tests: `g3`, `v3`, discard. -/
def tg : BitVec 9 := 259
def tv : BitVec 9 := 323
def td : BitVec 9 := 448

/-! ### Well-formedness: an ill-formed term for each check, refused; and one that is accepted -/

theorem wf_accepts : (Instr.addi 5 tg).wf = true := by decide
theorem wf_refuses_format : (Instr.cvt 6 0 0 0 0 tg).wf = false := by decide
theorem wf_refuses_register : (Instr.getx 0x7F td tg).wf = false := by decide
theorem wf_refuses_lane : (Instr.vext 3 8 td tg).wf = false := by decide
theorem wf_refuses_target : (Instr.addi 5 0x0C0).wf = false := by decide
theorem wf_refuses_special_target : (Instr.addi 5 0x1C1).wf = false := by decide
theorem wf_refuses_vector_target : (Instr.addi 5 0x160).wf = false := by decide
theorem wf_refuses_matrix_word : (Instr.matrixReservedCommand 0x2800000000300000).wf = false := by decide
theorem wf_refuses_ag_word : (Instr.agUnallocatedWord 0x1C00000000000000).wf = false := by decide
theorem wf_refuses_stream_kind : (Instr.agstrm 2 1 0 0).wf = false := by decide
theorem wf_refuses_sink_count : (Instr.agsink 0 0 0 0).wf = false := by decide
theorem wf_refuses_copy_count : (Instr.agcopy 0 0).wf = false := by decide
theorem wf_refuses_fill_count : (Instr.agfill 0 0 0).wf = false := by decide
theorem wf_refuses_loop_back : (Instr.agloop 0 1 0).wf = false := by decide
theorem wf_refuses_wait_count : (Instr.agwait 0 16).wf = false := by decide

/-! ### Words of the spec -/

/-- The words of AVG, the worked program of 05_isa_scalar.md, and the CVTX word of R110. -/
theorem decode_scalar_words :
    decodeWord 0x060B8005 = some (.get 1 448 5) ∧ decodeWord 0x0C008A46 = some (.flowMov 69 70) ∧
    decodeWord 0x08000006 = some (.movi 0 6) ∧ decodeWord 0x42200103 = some (.cvt 1 0 0 0 0 259) ∧
    decodeWord 0x400F800A = some (.falu 0 3 448 10) ∧ decodeWord 0x45600600 = some (.cvtx 11 0 0) := by decide
/-- The words of CLAMP, the worked program of 01_single_task.md. -/
theorem decode_memory_words :
    decodeWord 0x58040805 = some (.ldw 0 1 0 4 5) ∧ decodeWord 0x204B8047 = some (.ialu 0 18 448 71) ∧
    decodeWord 0x64290002 = some (.stw 2 2 1 2) ∧ decodeWord 0x0200000D = some (.br 13) := by decide
/-- The exits of R89. -/
theorem decode_exit_words :
    decodeWord 0x040381C0 = some .brx ∧ decodeWord 0x040781C0 = some .callx ∧ decodeWord 0x040B81C0 = some .ret ∧
    decodeWord 0x040F81C0 = some .tend ∧ decodeWord 0x041381C0 = some .trap ∧ decodeWord 0x041781C0 = some .bkpt := by decide
/-- Vector words written out from R116: VGET v5 to both of 1a and v3; SPLAT in W; VIALU VADD in H; VPERM VROTL. -/
theorem decode_vector_words :
    decodeWord (0x86000000 + 5 * 2 ^ 20 + 1 * 2 ^ 9 + 323) = some (.vget 5 1 323) ∧
    decodeWord (0x88000000 + 2 * 2 ^ 23 + 448 * 2 ^ 9 + 323) = some (.splat 2 448 323) ∧
    decodeWord (0xA0000000 + 1 * 2 ^ 23 + 448 * 2 ^ 9 + 323) = some (.vialu 1 0 448 323) ∧
    decodeWord (0xAC000000 + 5 * 2 ^ 18 + 448 * 2 ^ 9 + 323) = some (.vperm 0 5 448 323) := by decide
/-- The ring words of the program RINGT, 14_copies_graphs.md. -/
theorem decode_ring_words :
    decodeWord 0x4E809E5D = some (.rbopen 79 93) ∧ decodeWord 0x4E03802B = some (.rbwait 0 448 43) ∧
    decodeWord 0x4E438044 = some (.rbrel 448 68) ∧ decodeWord 0x4EC38006 = some (.rbclose 448 6) := by decide
/-- Commands of matrix tiles and words of stream programs (R267, R298, 13 and 14). -/
theorem decode_wide_words :
    decodeAg 0x1C00000000000000 = .agend ∧ (match decodeAg 0x0400030000000001 with | .agstrm 0 3 0 1 => true | _ => false) = true := by
  decide
/-- A word of no row is refused with its subcode (R63). -/
theorem decode_refuses : decodeWord 0 = none ∧ decode [] = .error .short ∧ decodeTableWord 32 0x03800000 = none := by decide

/-- A token of some elements, each at its place. -/
def elements (l : List (Nat × Nat)) : Vec := pack 16 (l.foldl (fun xs p => xs.set p.1 p.2) (List.replicate 32 0))

/-- The tokens A, A again, B and C of 08_fabric_tasks.md (R168 to R171) on virtual channel 2: sidebands, A's first bytes, and what the
consumer rebuilds. -/
theorem spec_flits :
    let a := elements [(0, 0x3C00), (3, 0x4000), (4, 0xBC00), (17, 0x3800), (31, 0x4400)]
    let b := elements ((List.range 20).map (fun i => (i, 7)))
    let c := pack 16 (List.replicate 32 7)
    let side (f : Flit) : Nat := match f with | .data s _ => s.toNat | .ctl s _ => s.toNat
    let bytes (f : Flit) : List Byte := match f with | .data _ x => toBytes 32 x.toNat | .ctl _ _ => []
    (dataFlits 2 none (vector a)).map side = [0x6800] ∧ (dataFlits 2 (some a) (vector a)).map side = [0xA800] ∧
    (dataFlits 2 (some a) (vector b)).map side = [0x4800, 0x6800] ∧ (dataFlits 2 (some b) (vector c)).map side = [0x0800, 0x2800] ∧
    (dataFlits 2 none (vector a)).map bytes =
      [[0x19, 0x00, 0x02, 0x80, 0x00, 0x3C, 0x00, 0x40, 0x00, 0xBC, 0x00, 0x38, 0x00, 0x44] ++ List.replicate 18 0] ∧
    takeData none (dataFlits 2 none (vector a)) = .token (vector a) 1 [] ∧
    takeData (some a) (dataFlits 2 (some a) (vector a)) = .token (vector a) 1 [] ∧
    takeData (some a) (dataFlits 2 (some a) (vector b)) = .token (vector b) 2 [] ∧
    takeData (some b) (dataFlits 2 (some b) (vector c)) = .token (vector c) 2 [] := by decide +kernel

/-! ### Witnesses: words and firing -/

theorem witness_EncodedWordDecodes : (Instr.addi 5 tg).wf = true ∧ encode (.addi 5 tg) = some 0x22000B03 := by decide

theorem witness_StepRunsDecodedInstruction :
    let s := State.reset.withFetchWord 32 0x08000B03
    let u := advance { s with ctl := { s.ctl with sched := [] } } 0
    s.ctl.sched = [(0, .fire 0 0 0)] ∧ firstActs (advance s 0) = [] ∧ (u.task? 0 0).isSome ∧ (tk u).frame.isSome ∧
    decodeWord (u.insWord 0 (fr u).hdr 0) = some (.movi 5 tg) ∧ (fr u).waits = [] ∧ (issueOrder u 0).head? = some (0, 0) ∧
    (let v := withFrame u (fun f => f.wait 0 (.port 1))
     (v.task? 0 0).isSome ∧ ∃ w ∈ (fr v).waits, w.idx = 0) ∧
    (issueOrder (withTask u (fun t => { t with st := .ready })) 0).head? ≠ some (0, 0) := by decide +kernel

theorem witness_StepRunsScheduledEvent :
    (let s : State := { State.reset with ctl := { State.reset.ctl with sched := [(3, .event .ptsTick)] } }
     s.ctl.sched = [(3, .event .ptsTick)] ∧ firstActs (advance s 3) = [] ∧ s.ctl.now / 256 = (s.ctl.now + 3) / 256) ∧
    (let s := site .tend (sc 0)
     let s := { s with ctl := { s.ctl with now := 2 ^ 24, sched := [(0, .event .ptsTick)] } }
     (firstActs (advance s 0)).head? = some (.event (.blockWatchdog 0 0))) ∧
    (let s := { site (.addi 5 tg) (sc 6) with ctl := { (site (.addi 5 tg) (sc 6)).ctl with sched := [(3, .event .ptsTick)] } }
     (dueActs (advance s 0)).head? = some (.fire 0 0 0)) ∧
    (let s := withFrame (site .tend) (fun f =>
       { f with flying := [{ at_ := 2, idx := 0, tok := scalar 5, tgt := tg }]
                waits := [{ idx := 1, kind := .timer 3 }] })
     s.task? 0 0 = some (tk s) ∧ (tk s).frame = some (fr s) ∧ s.ctl.now < 2 ∧ span s 5 = 2 ∧ span State.reset 3 = 3) := by decide +kernel

theorem witness_UnreadyInstructionWaits :
    (encode (.addi 5 tg)).isSome ∧ firing? (site (.addi 5 tg)) (.addi 5 tg) = none ∧ waiting? (site (.addi 5 tg)) = none ∧
    (Instr.addi 5 tg).link = none ∧ (Instr.addi 5 tg).latency = some 1 := by decide +kernel

/-- A token in flight, before and at its arrival; a slot that is free, full, and of an instruction that has fired. -/
theorem witness_UnreadyInstructionWaits_arrival :
    (let e : Flying := { at_ := 2, idx := 0, tok := scalar 5, tgt := 0 }
     let f := { fr (site (.addi 5 tg)) with flying := [e] }
     1 < e.at_ ∧ (Frame.take { f with flying := [], till := 2 } 0 (scalar 5) 0).isOk = true ∧
     (Frame.take { f with flying := [], till := 2, w := 0 } 0 (scalar 5) tg).isOk = false) ∧
    (let f := fr (site (.addi 5 tg))
     let g := fr (site (.addi 5 tg) (sc 6))
     (f.ins.getD 0 Ins.empty).fired ≠ .normal ∧ (f.ins.getD 0 Ins.empty).slot 0 = none ∧ ((g.ins.getD 0 Ins.empty).slot 0).isSome ∧
     ((f.fired 0 Ins.empty).ins.getD 0 Ins.empty).fired = .normal ∧ f.outs < f.w) ∧
    (Tok.ctl 5 true).poisoned = true ∧ (scalar 5).poisoned = false := by decide +kernel

theorem witness_NullOperandPassesNull :
    let i := Instr.addi 5 tg
    let s := site i (some .null)
    let f := { fr s with ins := (fr s).ins.set 0 { sl s with fired := .asNull } }
    waiting? s = none ∧ firing? s i = some (tk s, fr s, 0, sl s) ∧ (sl s).firesNull i = true ∧
    firingFault s ((tk s).count 2) f 0 i i.targets = none ∧ (Frame.putAll f 0 .null i.targets).isOk = true := by decide +kernel

/-! ### Witnesses: control plane -/

/-- The site where `i` fires, its operands scalars. -/
def s1 (i : Instr) : State := site i (sc 6) (sc 3) (sc 1)
/-- The site where `i` fires, its operands vectors. -/
def s2 (i : Instr) : State := site i (vc 6) (vc 3) (vc 1)
/-- The site where `i` fires on its first operand only, or its first two. -/
def a1 (i : Instr) : State := site i (sc 6)
def a2 (i : Instr) : State := site i (sc 6) (sc 3)

theorem witness_ExitsFire :
    ([.br 0, .call 0, .ybr 0, .tend, .ret] : List Instr).all (fun i => firesTaking (site i (sc 0)) i trigger) = true ∧
    ([.brx, .callx, .trap] : List Instr).all (fun i => firesTaking (site i (sc 0)) i trigger) = true ∧
    (fr (site .tend)).exit = none ∧ badBlock (site (.br 0)) 0 0 = none ∧ ((fr (site (.br 0))).hdr : Int) + (0 : BitVec 23).toInt = (0 : Nat) ∧
    badBlock (site .ret) 0 ((fr (site .ret)).spr.getD 0x08 0).toNat = none := by decide +kernel

theorem witness_ExitsFire_faults :
    firesTaking (site (.br 1) (sc 0)) (.br 1) trigger = true ∧ badBlock (site (.br 1)) 0 1 = some 1 ∧
    firesTaking (site (.br (-1)) (sc 0)) (.br (-1)) trigger = true ∧ ((fr (site (.br (-1)))).hdr : Int) + (-1 : BitVec 23).toInt < 0 ∧
    firesTaking (site (.br 16384) (sc 0)) (.br 16384) trigger = true ∧ badBlock (site (.br 16384)) 0 16384 = some 2 ∧
    (let s := withFrame (site (.br 0) (sc 0)) (fun f => { f with exit := some { kind := .tend, idx := 3, target := 0, code := 0 } })
     firesTaking s (.br 0) trigger = true ∧ (fr s).exit.isSome) := by decide +kernel

theorem witness_ExitsFire_breakpoint : firesTaking (site .bkpt (sc 0)) .bkpt trigger = true := by decide +kernel

theorem witness_ValuesAndRegistersMove_constants :
    firesTaking (site (.movi 5 tg)) (.movi 5 tg) (scalar 5) = true ∧ firesTaking (a1 (.movhi 5 tg)) (.movhi 5 tg) (scalar 5) = true := by
  decide +kernel

/-- A copy of one row of 64 bytes at the start of the site's window, running. -/
def copy0 : CopyOp :=
  { id := 5, cluster := 0, pad := 0, ten := 0, cid := 0, pos := 0, slot := 0, g := 3, src := 0xFE * 2 ^ 56, dst := 0xFE * 2 ^ 56 + 64
    shape := shapeWord 1 64 64 0, held := false, ring := none, ringSlot := none, running := true, reach := 0, lost := false, moved := 0
    lag := [], owed := [], pts := 0, kept := none }

theorem witness_ValuesAndRegistersMove_get :
    let i := Instr.get 3 tg td
    let s := withFrame (site i) (fun f => { f with gpend := [3] })
    firesTaking (site i) i (scalar 0) = true ∧ s.ctl.focus = .fire 0 0 0 ∧ s.task? 0 0 = some (tk s) ∧ (tk s).frame = some (fr s) ∧
    (3 : BitVec 6).toNat ∈ (fr s).gpend ∧ (tk s).cid = copy0.cid ∧ copy0.pos = 0 ∧ copy0.slot = 0 ∧ copy0.g = 3 := by decide +kernel

theorem witness_PlumbingPassesTokens :
    ([.flowMov tg td, .flowNull tg td] : List Instr).all (fun i => firesTaking (a1 i) i (scalar 6)) = true ∧
    firesTaking (a2 (.flowJoin tg td)) (.flowJoin tg td) (scalar 6) = true ∧ firesTaking (s1 (.sel tg td)) (.sel tg td) (scalar 6) = true ∧
    ([.vflowMov tv td, .vflowNull tv td] : List Instr).all (fun i => firesTaking (site i (vc 6)) i (vector 6)) = true ∧
    firesTaking (site (.vflowJoin tv td) (vc 6) (vc 3)) (.vflowJoin tv td) (vector 6) = true ∧
    firesTaking (s2 (.vsel tv td)) (.vsel tv td) (vector 6) = true := by decide +kernel

/-- The four steers at conditions 3 and 0. -/
theorem witness_PlumbingPassesTokens_steers :
    ([Instr.steerD tg td, .vflowSteerD tg td, .steerN tg td, .vflowSteerN tg td] : List Instr).all (fun i =>
      ([3, 0] : List Word).all (fun c =>
        let v := i.slots.head? = some .data
        let s := site i (if v then vc 6 else sc 6) (sc c)
        decide (∀ d ∈ [[i.targets.headD 0], [td], [i.targets.headD 0, td]], FiresTo s i (tk s) (fr s) 0 (sl s) d ∨ v) &&
        (Frame.putAll ((fr s).fired 0 (sl s)) 0 (scalar 6) [tg, td]).isOk)) = true ∧
    (let s := site (.vflowSteerD tv td) (vc 6) (sc 3)
     FiresTo s (.vflowSteerD tv td) (tk s) (fr s) 0 (sl s) [tv] ∧ FiresTo s (.vflowSteerD tv td) (tk s) (fr s) 0 (sl s) [td]) ∧
    (let s := site (.vflowSteerN tv td) (vc 6) (sc 0)
     FiresTo s (.vflowSteerN tv td) (tk s) (fr s) 0 (sl s) [tv, td]) := by decide +kernel

theorem witness_PlumbingPassesTokens_merges :
    firesTaking (a1 (.flowMerge tg td)) (.flowMerge tg td) (scalar 6) = true ∧
    firesTaking (site (.flowMerge tg td) (some .null) (sc 6)) (.flowMerge tg td) (scalar 6) = true ∧
    firesTaking (site (.vflowMerge tv td) (vc 6)) (.vflowMerge tv td) (vector 6) = true ∧
    firesTaking (a2 (.flowMerge tg td)) (.flowMerge tg td) (scalar 6) = true ∧
    firesTaking (site (.vflowMerge tv td) (vc 6) (vc 3)) (.vflowMerge tv td) (vector 6) = true := by decide +kernel

theorem witness_ValuesAndRegistersMove_special :
    firesTaking (site (.getx 0x08 tg td)) (.getx 0x08 tg td) (scalar 0) = true ∧
    firesTaking (site (.vget 3 tv td)) (.vget 3 tv td) (vector 0) = true ∧
    ([.putx 0x08 tg td, .putx 0 tg td] : List Instr).all (fun i => firesTaking (a1 i) i (scalar 6)) = true ∧
    sprReadOnly 8 = false ∧ sprReadOnly 0 = true := by decide +kernel

theorem witness_IntegerImmediates :
    ([.addi 5 tg, .andi 5 tg, .ori 5 tg, .xori 5 tg, .shli 5 tg, .shri 5 tg, .sari 5 tg, .cmpeqi 5 tg, .cmplti 5 tg, .cmpltui 5 tg,
      .muli 5 tg] : List Instr).all (fun i => firesTaking (a1 i) i (scalar 6)) = true := by decide +kernel

theorem witness_IaluTable :
    ([.ialu 0 0 tg td, .ialu 1 1 tg td] : List Instr).all (fun i => firesTaking (a2 i) i (scalar 6)) = true ∧
    firesTaking (s1 (.ialu 0 38 tg td)) (.ialu 0 38 tg td) (scalar 6) = true ∧
    firesTaking (a1 (.ialu 1 42 tg td)) (.ialu 1 42 tg td) (scalar 6) = true := by decide +kernel

theorem witness_ScalarFloatSendsResult :
    ([.falu 0 0 tg td, .faluDyn 0 tg td, .falu 2 2 tg td] : List Instr).all (fun i => firesTaking (a2 i) i (scalar 6) 1) = true := by
  decide +kernel

/-- NaN operands and others of F32. -/
theorem witness_ScalarFloatSendsResult_exact :
    readNum 0 (0x7FC00000 % 2 ^ 32) = .nan ∧ readNum 0 (0x3F800000 % 2 ^ 32) ≠ .nan := by decide

theorem witness_ScalarConversionSendsResult :
    ([.cvt 1 0 0 0 0 tg, .cvtx 11 0 tg] : List Instr).all (fun i => firesTaking (a1 i) i (scalar 6) 1) = true := by decide +kernel

theorem witness_ScalarConversionSendsResult_corners :
    isFloat 11 = false ∧ isFloat 5 = false ∧ isFloat 0 = true ∧ readNum 0 0x7FC00000 = .nan ∧ readNum 0 0xFF800000 = .inf true := by decide

theorem witness_TimersCountersAndNotes :
    ([.waitt tg td, .perf tg td, .note tg td] : List Instr).all (fun i => firesTaking (a1 i) i (scalar 6)) = true ∧
    (let s := withFrame (a1 (.waitt tg td)) (fun f => f.wait 0 (.timer 0))
     (s.task? 0 0).isSome ∧ ({ idx := 0, kind := .timer 0 } : Wait) ∈ (fr s).waits ∧ 0 ≤ s.ctl.now ∧
     decodeWord (s.insWord (tk s).pos (fr s).hdr 0) = some (.waitt tg td) ∧ (Frame.putAll ((fr s).unwait 0) 0 trigger [tg, td]).isOk) := by
  decide +kernel

/-! ### Witnesses: data plane, ports, barriers, ranges -/

theorem witness_LanesSendResult_moves :
    firesTaking (a1 (.splat 2 td tv)) (.splat 2 td tv) (vector 6) = true ∧
    firesTaking (site (.vext 3 7 td tg) (vc 6)) (.vext 3 7 td tg) (scalar 6) = true ∧
    firesTaking (site (.vins 3 7 td tv) (vc 6) (sc 3)) (.vins 3 7 td tv) (vector 6) = true ∧
    firesTaking (site (.vperm 1 5 td tv) (vc 6) (sc 3)) (.vperm 1 5 td tv) (vector 6) = true ∧
    firesTaking (site (.vmatch tv) (vc 6) (vc 3)) (.vmatch tv) (vector 6) = true := by decide +kernel

theorem witness_LanesSendResult_integer :
    firesTaking (s2 (.vialu 1 0 td tv)) (.vialu 1 0 td tv) (vector 6) = true ∧
    firesTaking (site (.vred 0 0 td tg) (vc 6)) (.vred 0 0 td tg) (scalar 6) 1 = true := by decide +kernel

/-- A lane of eight bits at each end of a vector. -/
theorem witness_VialuTable_lanes : (List.replicate 64 255).length = 512 / 8 ∧ 63 < (List.replicate 64 255).length := by decide

theorem witness_VialuTable : 255 < 2 ^ 8 ∧ 65535 < 2 ^ 16 ∧ 4294967295 < 2 ^ 32 := by decide

theorem witness_LanesSendResult_float :
    firesTaking (s2 (.vfalu 1 0 td tv)) (.vfalu 1 0 td tv) (vector 6) 1 = true ∧
    firesTaking (site (.vcvt 1 0 0 0 0 tv) (vc 6) (vc 3)) (.vcvt 1 0 0 0 0 tv) (vector 6) 1 = true ∧
    firesTaking (site (.vqnt 6 0 0 tv) (vc 6) (sc 3) (sc 1)) (.vqnt 6 0 0 tv) (vector 6) 1 = true ∧
    firesTaking (site (.vdqnt 0 0 6 tv) (vc 6) (sc 3) (sc 1)) (.vdqnt 0 0 6 tv) (vector 6) 1 = true ∧
    firesTaking (site (.vscacc 0 td tv) (vc 6) (vc 3) (sc 1)) (.vscacc 0 td tv) (vector 6) 1 = true := by decide +kernel

/-- An input endpoint of the site's configuration with what it holds. -/
def inp (e : Ep) (p : PortPlane) (toks : List (Tok × Bool)) (pulses : Nat := 0) : Input :=
  { cid := 0, ep := e, plane := p, toks := toks, came := toks.map (fun _ => 0), pulses := pulses, marker := false, markedAt := 0, cyc := false
    chan := [] }

/-- A port bound to the task of the site and its input endpoint with what it holds. -/
def withPort (s : State) (n : Nat) (p : PortPlane) (toks : List (Tok × Bool)) (pulses : Nat := 0) : State :=
  let s := withTask s (fun t => { t with ports := [{ num := n, plane := p, wake := false }] })
  { s with fab := { s.fab with inputs := [inp (portEp 0 n) p toks pulses] } }

/-- An endpoint that is bound, is no output and no steal port, and at which nothing waits: the instruction takes what it holds. -/
def receives (s : State) (i : Instr) (n : Nat) (tok : Tok) : Bool :=
  (waiting? s).isNone && ((tk s).port? n).isSome && !s.isOutput (portEp 0 n) && !(tk s).isStealPort n && (s.input? (portEp 0 n)).isSome &&
  (fr s).waits.isEmpty && firesTaking s i tok

theorem witness_ReceiveTakesOldest_shut :
    let s := withPort (site (.recv 2 0 tg td) (sc 0)) 2 .ctl [(scalar 9, true)]
    let s := s.mapInput (portEp 0 2) (fun q => { q with marker := true, markedAt := 0 })
    receives s (.recv 2 0 tg td) 2 trigger = true ∧ (s.input? (portEp 0 2)).map (·.shut (fr s).id) = some true := by decide +kernel

theorem witness_ReceiveTakesOldest :
    let i := Instr.recv 2 0 tg td
    receives (withPort (site i (sc 0)) 2 .pulse []) i 2 trigger = true ∧ receives (withPort (site i (sc 0)) 2 .ctl []) i 2 trigger = true ∧
    receives (withPort (site i (sc 0)) 2 .pulse [] 1) i 2 trigger = true ∧
    receives (withPort (site (.recv 2 1 tg td) (sc 0)) 2 .ctl [(scalar 9, true)]) (.recv 2 1 tg td) 2 (scalar 9) = true ∧
    (let s := withPort (site (.vrecv 2 0 tv td) (sc 0)) 2 .data [(vector 9, true)]
     receives s (.vrecv 2 0 tv td) 2 (vector 9) = true ∧ (takeToken s (portEp 0 2)).isSome) := by decide +kernel

theorem witness_ReceiveTakesOldest_credit :
    let s := withPort (site (.recv 2 0 tg td) (sc 0)) 2 .ctl [(scalar 9, true)]
    s.input? (portEp 0 2) = some (inp (portEp 0 2) .ctl [(scalar 9, true)]) ∧ (inp (portEp 0 2) .ctl []).shut 0 = false ∧ (takeToken s (portEp 0 2)).map (·.1) = some (scalar 9) := by decide +kernel

/-- A barrier of the site's PE. -/
def withBar (s : State) (b : Bar) : State := { s with cores := { s.cores with bars := [b] } }
def bar0 : Bar := { pos := 0, num := 1, count := 2, arr := 0, phase := 7, rem := true, recs := [], touched := 0, turn := 0, pts := 0, past := 0 }

theorem witness_BarriersWork_phase :
    (withBar State.reset bar0).bar 0 1 = bar0 ∧ bar0.arr + 1 < bar0.count ∧
    ((withBar State.reset { bar0 with arr := 1 }).bar 0 1).count ≤ ((withBar State.reset { bar0 with arr := 1 }).bar 0 1).arr + 1 := by
  decide

theorem witness_BarriersWork_instructions :
    (let s := site (.arrive 1 tg td) (sc 0)
     firesTaking s (.arrive 1 tg td) (scalar 0) = true ∧ waiting? s = none ∧ performedUpto s ((tk s).count 1) s.ctl.ids = true ∧
     (let s := withTask s (fun t => { t with queue := [{ id := 0, fid := 0, hdr := 0, idx := 1, ins := .ldd 0 1 0 0 tg, a := none, b := none, c := none,
                                                         keys := [some 8], got := [], narrowed := false, tainted := false, hops := 0, ways := [], used := 0 }] })
      firesTaking s (.arrive 1 tg td) (scalar 0) = true ∧ performedUpto s ((tk s).count 1) s.ctl.ids = false)) ∧
    firesTaking (site (.arriveRlx 1 tg td) (sc 0)) (.arriveRlx 1 tg td) (scalar 0) = true ∧
    (let s := withBar (site (.wait 1 tg td) (sc 0)) { bar0 with recs := [(0, 6)] }
     firesTaking s (.wait 1 tg td) (scalar 6) = true ∧ ((s.bar 0 1).recs.find? (fun r => r.1 = 0)).map (·.2) = some 6 ∧ 6 ≠ (s.bar 0 1).phase) ∧
    (let s := withBar (site (.wait 1 tg td) (sc 0)) bar0
     firesTaking s (.wait 1 tg td) (scalar 6) = true ∧ (s.bar 0 1).recs = []) ∧
    firesTaking (site (.barcfg 1 tg td) (sc 3) (sc 2)) (.barcfg 1 tg td) trigger = true ∧
    firesTaking (site (.barcfg 1 tg td) (sc 3) (sc 4)) (.barcfg 1 tg td) trigger = true := by decide +kernel

/-- The paddock of the tests: number 0, all four strips of its run bound. -/
def pad0 : Paddock :=
  { id := 0, first := 0, count := 4, mode := 0, addressBound := false, drlim := 0, pen := 0, mask := 1, active := 0, leaving := false
    restoring := false, seq := 0, place := 0, ranges := [], tenants := Vector.replicate 4 Tenant.reset, tracing := false, cap := 0, trace := []
    traceDrops := 0, foldLoss := 0, pdrop := 0, ended := false }
def withPad (s : State) (p : Paddock := pad0) : State := { s with ten := { s.ten with paddocks := [p] } }

theorem witness_BarriersWork_remote :
    (let i := Instr.rarrive 0 tg td
     firesTaking (site i (sc 0x800000)) i trigger = true ∧
     (let s := withPad (site i (sc 0x10001))
      firesTaking s i trigger = true ∧ padPe s 0 1 = true ∧ performedUpto s ((tk s).count 1) s.ctl.ids = true) ∧
     (let s := withBar (withFrame (site i (sc 0x10001)) (fun f => f.wait 0 (.arrival 4))) { bar0 with pos := 1 }
      let s := { s with cores := { s.cores with arrivals := [{ id := 4, target := 1, bar := 1, cid := 0, pos := 0, slot := 0, fid := (fr s).id, idx := 0, pts := 0 }] } }
      (∃ c ∈ s.fab.confs, within c.strip0 c.strips 1 = true) ∧ (s.bar 1 1).rem = true ∧
      ({ idx := 0, kind := .arrival 4 } : Wait) ∈ (fr s).waits ∧ decodeWord (s.insWord 0 (fr s).hdr 0) = some i ∧
      (Frame.putAll ((fr s).unwait 0) 0 trigger i.targets).isOk)) := by decide +kernel

/-- A link of the site's configuration, with credit. -/
def link0 (src dst : Ep) (p : PortPlane := .ctl) : Link :=
  { cid := 0, src := src, dst := dst, plane := p, depth := 4, vc := 0, hops := 1, credits := 4, returning := 0, last := none, heard := none, flight := []
    pulses := 0, raw := 0, masked := 0, repeats := 0 }

/-- Stealing on: the steal ports are SREQ 8, SRPY 9, VREQ 10, VRPY 11, two hops. -/
def stealing (s : State) (lo hi : Word) : State :=
  let s := withTask s (fun t => { t with steal := 8 + 9 * 2 ^ 8 + 10 * 2 ^ 16 + 11 * 2 ^ 24 + 2 * 2 ^ 32 + 2 ^ 34, rnglo := lo, rnghi := hi })
  { s with fab := { s.fab with
      links := [link0 (portEp 0 (tk s).sreq) (portEp 1 8), link0 (portEp 0 8) (portEp 1 8), link0 (portEp 0 11) (portEp 1 9)]
      inputs := [9, 10].map (fun n => inp (portEp 0 n) .ctl [(scalar 1, true), (scalar 5, true)]) } }

theorem witness_RangesAreShared_next :
    let i := Instr.rnext tg td
    let s := stealing (site i (sc 0)) 3 3
    firesTaking (withTask (site i (sc 0)) (fun t => { t with rnghi := 9 })) i (scalar 0) = true ∧ firesTaking (site i (sc 0)) i .null = true ∧
    (tk (site i (sc 0))).stealing = false ∧ firesTaking s i .null = true ∧ (tk s).stealing = true ∧ (fr s).waits = [] ∧ (tk s).steals = [] ∧
    waiting? s = none ∧
    (sendOn s (portEp 0 (tk s).sreq) (scalar (BitVec.ofNat 64 ((tk s).hops - 1)))).isSome := by decide +kernel

/-- The block's RNEXT waits for its steal, of whose reply the first token is there or not; tokens stand on SRPY. -/
def stealStands (lo : Option Word) : Bool :=
  let s := withFrame (stealing (site (.rnext tg td)) 3 3) (fun f => f.wait 0 (.steal true))
  let s := withTask s (fun t => { t with steals := [{ own := true, lo := lo }] })
  decide ((tk s).steals = [{ own := true, lo := lo }] ∧ (tk s).saved = false ∧
    (fr s).waits.find? (fun w => w.kind = .steal true) = some { idx := 0, kind := .steal true } ∧
    decodeWord (s.insWord 0 (fr s).hdr 0) = some (.rnext tg td) ∧ (Frame.putAll ((fr s).unwait 0) 0 (scalar 1) [tg, td]).isOk ∧
    (Frame.putAll ((fr s).unwait 0) 0 .null [tg, td]).isOk ∧ (takeToken s (portEp 0 (tk s).srpy)).map (·.1) = some (scalar 1))

theorem witness_RangesAreShared_steal :
    (let s := stealing (site (.rnext tg td)) 3 9
     s.cores.tasks[0]? = some (tk s) ∧ (tk s).steal.toNat % 2 ^ 32 ≠ 0 ∧ (tk s).saved = false ∧ (tk s).st ≠ .faulted ∧ (tk s).replies = [] ∧
     requestHere { s with ctl := { s.ctl with now := 5 } } (tk s) = true ∧ (tk s).steals = [] ∧ (s.input? (portEp 0 (tk s).vreq)).map (·.shut s.ctl.ids) = some false ∧
     (match takeToken s (portEp 0 (tk s).vreq) with
      | some (_, s1) =>
        (match sendOn s1 (portEp 0 (tk s).vrpy) (scalar 6) with
         | some (s2, _) => (sendOn s2 (portEp 0 (tk s).vrpy) (scalar 9)).isSome
         | none => false)
      | none => false) = true) ∧
    (let s := stealing (site (.rnext tg td)) 3 4
     (match takeToken s (portEp 0 (tk s).vreq) with
      | some (tok, s1) => decide (0 < tok.word.toNat % 4) && (tk s).stealing && (sendOn s1 (portEp 0 (tk s).sreq) (scalar 0)).isSome
      | none => false) = true) ∧
    stealStands none = true ∧ stealStands (some 0) = true ∧ stealStands (some 7) = true ∧
    (let s := withTask (stealing (site (.rnext tg td)) 3 3) (fun t => { t with steals := [{ own := false, lo := none }], replies := [] })
     (match takeToken s (portEp 0 (tk s).srpy) with
      | some (a, s1) => (sendOn s1 (portEp 0 (tk s).vrpy) a).isSome
      | none => false) = true) ∧
    (tk (withTask (site (.rnext tg td)) (fun t => { t with replies := [3, 5] }))).replies ≠ [] ∧
    (let s := stealing (site (.rnext tg td)) 3 9
     let s := { s with fab := { s.fab with links := s.fab.links.map (fun (l : Link) => { l with credits := 1 }) } }
     (match sendOn s (portEp 0 (tk s).vrpy) (scalar 1) with
      | some (s1, _) => (sendOn s1 (portEp 0 (tk s).vrpy) (scalar 5)).isNone &&
          (sendOn s1 (portEp 0 (tk s).vrpy) (scalar 1)).isNone
      | none => false) = true) := by decide +kernel

/-! ### Witnesses: memory -/

/-- The site where `i` fires with zeros of the planes of its slots. -/
def siteZ (i : Instr) : State :=
  let s := placeInstr State.reset (toBytes 4 ((encode i).getD 0))
  { s with ctl := { s.ctl with sched := [], focus := .fire 0 0 0 } }

/-- One form of every memory instruction, in the first place of its chain. -/
def memInstrs : List Instr :=
  [.ldb 0 1 0 0 tg, .ldbz 0 1 0 0 tg, .ldh 0 1 0 0 tg, .ldhz 0 1 0 0 tg, .ldw 0 1 0 0 tg, .ldwz 0 1 0 0 tg, .ldd 0 1 0 0 tg,
   .stb 0 1 0 0, .sth 0 1 0 0, .stw 0 1 0 0, .std 0 1 0 0, .amo 0 1 0 0 0 0 tg, .amoCas 0 1 0 0 0 tg, .amod 0 1 0 0 0, .red 0 1 0 0 0 0,
   .fence 0 1 0 0 0 tg, .fprb 0 1 0 tg, .fins 0 1 0 0, .fnew 0 1 0 tg, .fdel 0 1 0 tg, .fclr 0 1 0 tg, .fcnt 0 1 0 tg, .fseal 0 1 0 tg,
   .funseal 0 1 0 tg, .fstat 0 1 0 tg, .vld 0 1 0 0 tv, .vst 0 1 0 0, .vlds 0 1 0 2 tv, .vsts 0 1 0 2, .vgath 0 1 0 tv, .vscat 0 1 0,
   .vfrd 0 1 0 tv, .vfmrg 0 1 0 0, .vfprb 0 1 0 tv, .vfhit 0 1 0 tv]

theorem witness_MemoryInstructionsJoin :
    memInstrs.all (fun i =>
      let s := siteZ i
      decide (Fires s i (tk s) (fr s) 0 (sl s)) && (i.link == some (0, 1, 0)) && !(fr s).leftover &&
      (((fr s).fired 0 (sl s)).join i 0 (sl s) .waiting).isOk) = true ∧
    (let i := Instr.ldw 0 2 0 0 tg
     let s := siteZ i
     Fires s i (tk s) (fr s) 0 (sl s) ∧ joinFault (fr s) 0 2 0 = some 3) ∧
    (let i := Instr.ldw 0 1 0 0 tg
     let s := withFrame (siteZ i) (fun f => { f with m := 0, w := 0, exit := some { kind := .tend, idx := 0, target := 0, code := 0 }, shut := true })
     Fires s i (tk s) (fr s) 0 (sl s) ∧ (fr s).leftover = true ∧ (fr s).skips = true ∧ (fr s).till < 1) ∧
    (let i := Instr.ldw 0 1 0 0 tg
     let s := site i (some .null)
     let f := { fr s with ins := (fr s).ins.set 0 { sl s with fired := .asNull } }
     firing? s i = some (tk s, fr s, 0, sl s) ∧ (sl s).firesNull i = true ∧ firingFault s ((tk s).count 2) f 0 i i.targets = none ∧
     (match f.join i 0 (sl s) .nulled with | .ok f2 => (f2.putAll 0 .null i.targets).isOk | .error _ => false) = true) := by
  decide +kernel

theorem witness_MemoryAddressesAndValues : (0xFFFFFFFF : Nat) < 2 ^ 32 ∧ (0xFFFFFFFFFFFFFFFF : Nat) < 2 ^ 64 := by decide

/-- A bank of the site's cluster in scratchpad mode. -/
def withBank (s : State) (mode : Nat) : State :=
  { s with mem := { s.mem with banks := [{ cluster := 0, num := 0, mode := mode, switching := none }] } }

/-- A task whose block has one operation waiting at the head of its chain, its address `a`. -/
def waitingOp (i : Instr) (a : Word) : State :=
  let s := siteZ i
  let s := { s with ctl := { s.ctl with eager := false } }
  withFrame s (fun f => { f with chain := [{ q := 0, p := 1, d := 0, idx := 0, a := sc a, b := sc 7, c := none, st := .waiting }] })

/-- A paddock whose page tables list nothing, all of its memory covered by one range. -/
def paged (s : State) : State :=
  let t := { Tenant.reset with enabled := true, root := 2 ^ 20 }
  withPad s { pad0 with ranges := [{ base := 0, limit := 2 ^ 40, offset := 0, attr := 0xF07 }], tenants := Vector.replicate 4 t }

theorem witness_IssueChecks :
    (let s := withBank (waitingOp (.ldw 0 1 0 0 tg) 0) 1
     s.bankBusy (clusterOf (tk s).pos) (bits (0xFE * 2 ^ 56 + 8) 19 15) = false ∧ s.bankMode 0 0 = 1 ∧ bits (0xFE * 2 ^ 56 + 8) 55 20 = 0) ∧
    (let i := Instr.ldw 0 1 0 0 tg
     let s := withBank (waitingOp i (0xFE * 2 ^ 56 + 8)) 1
     (match (fr s).nextOp with
      | some o => decide (decodeWord (s.insWord 0 (fr s).hdr o.idx) = some i) &&
        (match memForm i (o.a.getD .null) (o.b.getD .null) with
         | some m => (match checkAddrs s (tk s) m m.addrs with
            | (s', .ok keys) => (ownCheck s' (tk s) i m.addrs keys).isNone
            | _ => false)
         | none => false)
      | none => false) = true) ∧
    (let s := waitingOp (.ldw 0 1 0 0 tg) (2 ^ 60)
     (checkAddrs s (tk s) (loadForm (2 ^ 60) (0 : BitVec 7) 4 1) [some (2 ^ 60)]).2 = .bad 0x12 1 0 (2 ^ 60)) ∧
    (let s := paged (waitingOp (.ldw 0 1 0 0 tg) 64)
     (checkAddrs s (tk s) (loadForm 64 (0 : BitVec 7) 4 1) [some 64]).2 = .miss 64 false false) := by decide +kernel

/-- A task whose queue holds one request. -/
def withReq (i : Instr) (k : Nat) : State :=
  let s := waitingOp i 0
  withTask s (fun t => { t with queue := [{ id := 0, fid := 0, hdr := 0, idx := 0, ins := i, a := sc 0, b := sc 7, c := none, keys := [some k], got := [],
                                            narrowed := false, tainted := false, hops := 0, ways := [], used := 0 }] })

theorem witness_LoadAnswersItsBytes :
    let s := withReq (.ldw 0 1 0 0 tg) (windowKey 0 8)
    (tk s).queue.length = 1 ∧
    (tk s).queue.all (fun r => r.keys == [some (windowKey 0 8)] && r.got == [] && readsMem r.ins && !isFibre r.ins && r.free s 0 &&
      !s.poisoned (windowKey 0 8) r.size && !r.tainted) = true ∧ s.mem.partials = [] ∧ s.mem.under = [] ∧ s.ctl.eager = false := by
  decide +kernel

theorem witness_WritesTouchTheirBytesOnly :
    (let s := withReq (.stw 0 1 0 0) (regionKey 0 64)
     (tk s).queue.all (fun r => r.keys == [some (regionKey 0 64)] && !readsMem r.ins && !isFibre r.ins && r.free s 0) = true ∧
     s.mem.partials = [] ∧ s.mem.under = [] ∧ s.memWf) ∧
    (let s := withReq (.amo 0 1 0 0 1 0 tg) (regionKey 0 64)
     (tk s).queue.all (fun r => r.keys == [some (regionKey 0 64)] && !readsMem r.ins && !isFibre r.ins && r.free s 0) = true ∧
     s.poisoned (regionKey 0 64) 8 = false ∧ s.memWf) := by decide +kernel

theorem witness_MemoryEvents :
    (let s := withPort (waitingOp (.ldw 0 1 0 0 tg) 0) 2 .ctl []
     let s := { s with eng := { s.eng with deliveries := [{ word := 2 ^ 62 + 2 ^ 17, value := 5, size := 4, cid := 0, key := 0, pad := 0, ten := 0, pos := 0, slot := 0, id := 0 }] } }
     s.eng.deliveries[0]?.isSome ∧ bits (2 ^ 62 + 2 ^ 17) 63 62 = 1 ∧ controlPort s 0 2 = true ∧ (s.input? (portEp 0 2)).isSome) ∧
    (∀ m ∈ [[], [(1, 3)]],
     let s := waitingOp (.ldw 0 1 0 0 tg) 0
     let s := { s with mem := { s.mem with moved := m }
                       eng := { s.eng with deliveries := [{ word := 2 ^ 63, value := 5, size := 4, cid := 0, key := 68, pad := 0, ten := 0, pos := 0, slot := 0, id := 0 }] } }
     bits (2 ^ 63) 63 62 = 2 ∧ s.eng.deliveries.length = 1 ∧ (∀ key ∈ followMoves s 8 68, parked s key = false ∧ liveHeader s key = false) ∧
     (followMoves s 8 68).isSome ∧ s.mem.partials = [] ∧ s.mem.under = [] ∧ s.memWf) ∧
    (let s := withReq (.stw 0 1 0 0) (regionKey 0 64)
     let s := { s with mem := { s.mem with moved := [(1, 3)] } }
     movedTo s (regionKey 0 64) = some 192 ∧ s.ctl.eager = false ∧ (tk s).queue.length = 1 ∧ (tk s).reds = []) := by decide +kernel

/-! ### Witnesses: blocks and links -/

/-- A task of the site's slot in a state, without a frame. -/
def resting (st : TaskSt) : State := withTask (siteZ .tend) (fun t => { t with st := st, frame := none, cur := 0 })
/-- A block whose exit has fired. -/
def exiting (k : ExitKind) (w : Nat) (g : List (Nat × Nat × Word) := []) : State :=
  withFrame (siteZ .tend) (fun f => { f with m := 0, w := w, gw := g, exit := some { kind := k, idx := 0, target := 0, code := 7 },
                                             ins := f.ins.map (fun x => { x with fired := .normal }) })

theorem witness_TasksRun :
    (let s := withTask (withPort (resting .idle) 2 .ctl [(scalar 1, false)]) (fun t => { t with ports := [{ num := 2, plane := .ctl, wake := true }] })
     (tk s).st = .idle ∧ (tk s).saved = false ∧ wakes s (tk s) = true) ∧
    (let s := { resting .ready with ctl := { (resting .ready).ctl with now := 1 } }
     (s.cores.tasks.filter (fun u => u.pos = 0 && u.frame.isSome)).length < 4 ∧ nextReady s 0 = some (tk s) ∧
     ∀ c ∈ s.fab.confs, c.drain = none) := by decide +kernel

theorem witness_BlocksComplete :
    (∀ k ∈ [ExitKind.br, .call, .ret, .ybr, .tend, .trap],
      let s := exiting k 0
      ((fr s).exit.map (·.kind)) = some k ∧ (fr s).outs = (fr s).w ∧ (fr s).slotsResolved = true ∧ (fr s).bkpt = none ∧ (tk s).saved = false ∧
      blockDue s (tk s) = false ∧ s.issues (tk s) (fr s) = false ∧ (fr s).raised = none ∧ (fr s).gw = []) ∧
    (let s := withFrame (exiting .br 0) (fun f => { f with bkpt := some 4, raised := some { code := 0x06, sub := 0, idx := 1 } })
     (fr s).bkpt = some 4 ∧ (fr s).raised.isSome ∧ s.issues (tk s) (fr s) = false) ∧
    (let s := State.reset.withFetchWord 32 0x03800000
     let s := withFrame s (fun f => { f with m := 0, w := 0, exit := some { kind := .tend, idx := 0, target := 0, code := 0 } })
     (fr s).exit.isSome ∧ s.issues (tk s) (fr s) = true) ∧
    (let s := withTask (exiting .br 0 [(0, 3, 9)]) (fun t => { t with pending := [(3, 1)] })
     ∃ w ∈ (fr s).gw, ∃ p ∈ (tk s).pending, p.1 = w.2.1) := by decide +kernel

/-- Two writes of one register, the higher index first. -/
theorem witness_BlocksComplete_commit :
    ∀ w ∈ ([(4, 3, 9), (2, 3, 8)] : List (Nat × Nat × Word)), w.2.1 = 3 → w.1 ≤ 4 ∧ (w.1 = 4 → w.2.2 = 9) := by decide

theorem witness_TasksRun_stuck :
    (let s := exiting .br 1
     blockDue s (tk s) = false ∧ quiescent s (tk s) (fr s) = true ∧ (fr s).outs < (fr s).w) ∧
    (let s := withFrame (exiting .br 0) (fun f => { f with m := 2 })
     blockDue s (tk s) = false ∧ quiescent s (tk s) (fr s) = true ∧ (fr s).outs = (fr s).w ∧ (fr s).slotsResolved = false) ∧
    (let s := exiting .br 0
     let s := { s with ctl := { s.ctl with now := 2 ^ 24 } }
     (fr s).chain = [] ∧ (fr s).at_ + 2 ^ 24 + (fr s).paused ≤ s.ctl.now) ∧
    (let s := exiting .br 0
     s.ctl.now < (fr s).at_ + 2 ^ 24 + (fr s).paused) := by decide +kernel

/-- A send waiting at port 2 of the site's block, a link from that port to port 3 of the next PE. -/
def sending (w : Nat) : State :=
  let s := withPort (exiting .br w) 2 .ctl []
  let s := { s with fab := { s.fab with
    links := [{ link0 (portEp 0 2) (portEp 256 3) with flight := [ctlFlit (scalar 9)], pulses := 1, returning := 1 }]
    inputs := [inp (portEp 256 3) .ctl []] } }
  withFrame s (fun f => { f with sends := [{ idx := 0, port := 2, tok := scalar 5 }] })

theorem witness_LinksCarryTokens :
    (let s := sending 1
     (fr s).sends = [{ idx := 0, port := 2, tok := scalar 5 }] ∧ (fr s).outs < (fr s).w ∧
     (s.fab.links[0]?).map (·.arriving) = some (.token (scalar 9) 0 []) ∧ (s.fab.links[0]?).map (·.route) = some [(0, 256)] ∧
     (sendOn s (portEp 0 2) (scalar 5)).isSome ∧ (fr (sending 0)).w ≤ (fr (sending 0)).outs ∧
     s.fab.links[0]?.isSome ∧ (s.input? (portEp 256 3)).map (·.marker) = some false ∧ partSaved s 0 (portEp 256 3) = false) := by
  decide +kernel

/-- Data links at both ends of the channel numbers, with and without the last token heard; a vector of no zero element. -/
theorem witness_LinksCarryTokens_flits :
    (∀ vc ∈ [0, 7], let l := { link0 (portEp 0 2) (portEp 256 3) .data with vc := vc, last := some 5, heard := some 5 }
      l.flight = [] ∧ l.vc < 8 ∧ l.plane = .data ∧ (l.push (.data 5 false)).arriving = .token (.data 5 false) 1 [] ∧
      l.last ≠ some (pack 16 (List.replicate 32 7)) ∧ 30 < (nonZeros (pack 16 (List.replicate 32 7))).length ∧
      (l.push (vector (pack 16 (List.replicate 32 7)))).arriving = .token (vector (pack 16 (List.replicate 32 7))) 2 []) ∧
    ({ link0 (portEp 0 2) (portEp 256 3) with flight := [] }).plane = .ctl := by decide +kernel

/-! ### Witnesses: banks, shapes, copies, rings -/

/-- The ring handle of base 0 of the site's cluster, and an open ring of four slots of 64 bytes there. -/
def h0 : Word := 0xFE80000000000000
def ring0 : Ring := { key := 0, slots := 4, size := 64, w := 2, c := 1, r := 0, flying := 0, bind := .none, early := [], pts := 0, back := 0 }
def withRing (s : State) (r : Ring := ring0) : State :=
  let s := withBank s 2
  { s with eng := { s.eng with rings := [r] } }

theorem witness_BankModeSwitches :
    (let s := site (.bmode tg td) (sc 0) (sc 1)
     firesTaking s (.bmode tg td) trigger = true ∧ waiting? s = none ∧ s.bankBusy 0 0 = false ∧ (s.bank 0 0).mode ≠ 2 ∧
     bankQuiet s 0 0 = true ∧
     bankQuiet (withTask s (fun t => { t with queue := (tk (withReq (.stw 0 1 0 0) 64)).queue.map (fun r => { r with ways := [(1, 0)] }) })) 0 0 = false) ∧
    firesTaking (site (.bmode tg td) (sc 32) (sc 1)) (.bmode tg td) trigger = true ∧
    firesTaking (site (.bmode tg td) (sc 31) (sc 3)) (.bmode tg td) trigger = true ∧ State.reset.memWf := by decide +kernel

def withCopy (c : CopyOp) : State :=
  let s := withBank (site (.bmode tg td)) 1
  { s with eng := { s.eng with copies := [c] } }

theorem witness_ShapesAndCopiesStart :
    firesTaking (site (.mshape 1 0 tg td) (sc 0) (sc 64)) (.mshape 1 0 tg td) trigger = true ∧
    shapeBad (0 : Word).toNat (64 : Word).toNat 0 = some 1 ∧
    firesTaking (site (.mshape 1 0 tg td) (sc 0x400001) (sc 64)) (.mshape 1 0 tg td) trigger = true ∧
    shapeBad (0x400001 : Word).toNat (64 : Word).toNat 0 = none ∧
    (let i := Instr.acopy 3 tg td
     let s := site i (sc (0xFE * 2 ^ 56)) (sc (0xFE * 2 ^ 56 + 64)) (sc 0)
     firesTaking s i trigger = true ∧ waiting? s = none ∧ (tk s).pending = [] ∧ s.eng.copies = [] ∧ performedUpto s ((tk s).count 1) s.ctl.ids = true ∧
     copyCheck s ((tk s).count 1) (sl s).wa (sl s).wb (sl s).wc ≠ 0 ∧
     (let s := withTask (withBank s 1) (fun t => { t with shp := t.shp.set! 0 copy0.shape })
      firesTaking s i trigger = true ∧ copyCheck s ((tk s).count 1) (sl s).wa (sl s).wb (sl s).wc = 0)) := by decide +kernel

theorem witness_CopiesRun :
    (let s := withCopy { copy0 with running := false }
     s.eng.copies[0]? = some { copy0 with running := false } ∧ (s.eng.copies.filter (fun y => y.cluster = 0 && y.running)).length < 4) ∧
    (let c := { copy0 with ring := some 0 }
     let s := withRing (withCopy c)
     let s := { s with ctl := { s.ctl with now := 1 } }
     s.ring? 0 = some ring0 ∧ ring0.room = true ∧ ring0.bind = .none ∧ c.reach < s.ctl.now ∧ reservesFirst s c = false ∧
     ({ ring0 with flying := 3 } : Ring).room = false ∧ (withCopy copy0).ring? 0 = none ∧
     (withRing (withCopy { c with ringSlot := some 2 })).ring? 0 = some ring0) ∧
    (let s := withCopy copy0
     (match copy0.piece s 0 with
      | some rows => (copy0.keys s rows).1.isSome
      | none => false) = true ∧ copy0.piece s 1 = none ∧ lagging s copy0.lag = false ∧ (s.task? 0 0).map (·.cid) = some 0) := by decide +kernel

/-- A live fibre at key 64 of the tests' paddock, its page in the TLB. -/
def fibred (s : State) : State :=
  let t : Tenant := { Tenant.reset with enabled := true, root := 0 }
  let s := withPad s { pad0 with ranges := [{ base := 0, limit := 2 ^ 40, offset := 0, attr := 0xF07 }], tenants := Vector.replicate 4 t }
  let e : Tlb := { tile := tlbTile pad0 64, pad := 0, ten := 0, page := 0, size := 16, entryKey := 2 ^ 30, inter := 0, attr := 0x9F
                   range := { base := 0, limit := 2 ^ 40, offset := 0, attr := 0xF07 }, used := 0 }
  let x : Fibre := { key := 64, handle := 64, pad := 0, shape := Shape.mk [] [] false, parts := [], root := 0, segUnits := [], dirUnits := []
                     spareSegs := [], spareDirs := [], bad := [] }
  { s with mem := { s.mem with tlb := [e] }, eng := { s.eng with fibres := [x] } }

theorem witness_RingsDeliverInOrder :
    (let i := Instr.rbopen tg td
     let s := withBank (site i (sc h0) (sc 0x104)) 2
     firesTaking s i trigger = true ∧ waiting? s = none ∧ handleKey (sl s).wa = some 0 ∧ (sl s).wb.toNat = 0x104 ∧ s.ring? 0 = none ∧
     (∀ n < 32, Ring.inBank { ring0 with w := 0, c := 0 } (clusterOf 0) n = true → s.bankBusy 0 n = false ∧ s.bankMode 0 n = 2)) ∧
    (∀ i ∈ [Instr.rbwait 0 tg td, .rbrel tg td, .rbclose tg td],
      let s := withRing (site i (sc h0))
      firesTaking s i trigger = true ∧ waiting? s = none ∧ ringOf s (tk s) (sl s).wa = some 0 ∧ s.ring? 0 = some ring0 ∧ ring0.c < ring0.w ∧
      ring0.c ≠ ring0.r ∧ slotAsked s 0 (fun _ => true) = false) ∧
    (∀ i ∈ [Instr.rbwait 0 tg td, .rbrel tg td, .rbclose tg td],
      let s := withRing (site i (sc h0)) { ring0 with r := 1, w := 1 }
      firesTaking s i trigger = true ∧ ringOf s (tk s) (sl s).wa = some 0 ∧ ring0.flying = 0 ∧ ring0.bind = .none ∧ s.eng.copies = [] ∧
      slotAsked s 0 (fun _ => true) = false) ∧
    (let i := Instr.fscan tg td
     let s := fibred (withRing (site i (sc 64) (sc h0) (sc 0)))
     firesTaking s i trigger = true ∧ waiting? s = none ∧ performedUpto s ((tk s).count 1) s.ctl.ids = true ∧
     (match checkAddr s ((tk s).count 1) (fibreForm (sl s).wa true false) (sl s).wa.toNat with
      | (s1, .ok [some 64]) => (s1.fibre? 64).isSome && decide (s1.ring? 0 = some ring0) && confHas s1 (tk s).cid 0 && decide (s1.bankMode 0 0 = 2)
      | _ => false) = true ∧
     (let s := { s with eng := { s.eng with scans := [{ id := 9, cid := 0, pos := 0, slot := 0, key := 64, ring := 0, next := 0, hi := 5, pts := 0 }] } }
      (match fibScan s 64 0 5 8 with
       | (s1, .ok _) => decide (s1.eng.rings = s.eng.rings) && s1.mem.under.isEmpty
       | _ => false) = true ∧ ring0.room = true ∧ s.mem.partials = [])) := by decide +kernel

/-! ### Witnesses: elements -/

/-- An element in slot 1 of the tile at column 0, row 0. -/
def elem0 (k : ElemKind) (spec : Nat) : Elem :=
  { cid := 0, pos := 0, slot := 1, kind := k, spec := spec, passes := 0, i := 0, j := 0, inner := false, count := 0, toks := [], lanes := []
    pat := none, sel := none, base := 0, len := 0, own := true, buf := [], snap := [], out := [], saved := false, lost := false }

/-- The device with one element, a token on each of some of its inputs, and a link from each output that is named. -/
def withElem (e : Elem) (ins : List (Nat × Tok)) (outs : List Nat := [4, 5]) : State :=
  let s := siteZ .tend
  { s with fab := { s.fab with elems := [e], inputs := ins.map (fun x =>
      inp (e.ep x.1) .data [(x.2, true)]),
                               links := outs.map (fun n => link0 (e.ep n) (portEp 256 n) .data) } }

/-- The element stands, its tokens are there, its outputs are open. -/
def stands (s : State) (e : Elem) (ins : List (Nat × Tok)) : Bool :=
  s.elem? 0 1 e.kind == some e && !e.saved && e.out.isEmpty && ins.all (fun x => e.peek s x.1 == some x.2) && e.opens s 4 && e.opens s 5 &&
  e.opens (e.take s 0) 4

/-- An element with its tokens: the state it stands in. -/
def standing (e : Elem) (ins : List (Nat × Tok)) : Bool := stands (withElem e ins) e ins

def cnt0 : Elem := { elem0 .cnt 0 with passes := 1, count := 1 }
def win0 (i : Nat) : Elem := { elem0 .win (2 * 2 ^ 37) with i := i, toks := [vector 3] }

theorem witness_ElementsFire :
    (let e := { elem0 .steer 0 with out := [(4, vector 1)] }
     let s := withElem e []
     s.elem? 0 1 .steer = some e ∧ e.opens s 4 = true) ∧
    (standing cnt0 [] ∧ (cnt0.root && cnt0.draining (withElem cnt0 [])) = false ∧ cnt0.succ? (withElem cnt0 []) = none ∧ cnt0.i < cnt0.count) ∧
    ([scalar 3, scalar 0].all (fun c => [0, 2 ^ 38].all (fun w => standing (elem0 .steer w) [(0, vector 6), (1, c)])) = true ∧
     standing (elem0 .steer 0) [(0, vector 6), (1, .null)] = true ∧ bits (2 ^ 38) 38 38 = 1) ∧
    (standing (elem0 .merge 0) [(0, vector 6)] ∧ (elem0 .merge 0).peek (withElem (elem0 .merge 0) [(0, vector 6)]) 1 = none) ∧
    standing { elem0 .merge (2 ^ 38) with sel := some 1 } [(1, vector 6)] ∧ standing (elem0 .join (2 ^ 37)) [(0, vector 6), (1, vector 3)] ∧
    bits (2 ^ 37) 38 37 = 1 ∧ standing (elem0 .repl (3 * 2 ^ 22)) [(0, scalar 6)] ∧ bits (3 * 2 ^ 22) 37 22 = 2 + 1 ∧
    standing (win0 0) [(0, vector 6)] ∧ standing (win0 1) [(0, vector 6)] ∧ bits (2 * 2 ^ 37) 39 37 - 1 = 1 ∧
    standing (elem0 .win 0) [(1, vector 6)] ∧ standing (elem0 .maxr 0) [(0, vector 6)] ∧
    (∀ x ∈ lanes (fmtWidth 0) 6, magnitude 0 x ≠ none) ∧ standing (elem0 .dly 0) [(0, vector 6)] ∧
    standing { elem0 .dly 0 with toks := [vector 6] } [] := by decide +kernel

/-- A CVT element from F32 to INT8 whose maximum is 1.0; the XFM elements of each operation. -/
def cvt0 : Elem := { elem0 .cvt (5 * 2 ^ 32 + 2 ^ 18) with sel := some 0x3F800000 }
def xfm0 (op : Nat) (toks : List Tok) : Elem := { elem0 .xfm (op * 2 ^ 36) with toks := toks, pat := some (vector 1) }

theorem witness_ConvertersFire :
    standing cvt0 [(0, vector 0x3F800000)] ∧ (∃ g n x, readNum 0 0x3F800000 = .fin g n x) ∧
    standing (xfm0 0 []) [(0, vector 6)] ∧ standing (xfm0 0 (List.replicate 7 (vector 1))) [(0, vector 6)] ∧
    standing (xfm0 1 [vector 1]) [(0, vector 6)] ∧ standing (xfm0 2 []) [(0, vector 6)] ∧ standing (xfm0 3 []) [(0, vector 6)] ∧
    (xfm0 3 []).peek (withElem (xfm0 3 []) [(0, vector 6)]) 1 = none ∧ standing (xfm0 4 []) [(0, scalar 6)] := by
  refine ⟨by decide +kernel, ⟨false, 2 ^ 23, -23, by decide +kernel⟩, ?_⟩
  decide +kernel

/-- A MEM element of a mode over the first 128 bytes of the tests' paddock, its page in the TLB. -/
def mem0 (mode : Nat) : Elem := { elem0 .mem (mode * 2 ^ 38) with len := 128 }
def withMem (e : Elem) (ins : List (Nat × Tok)) : State := { fibred (withElem e ins [4, 5, 7]) with eng := (siteZ .tend).eng }
def Kept (r : State ⊕ α) : Bool := match r with | .inr _ => true | .inl _ => false

theorem witness_MemElementsFire :
    stands (withMem { mem0 1 with own := false } [(3, scalar 0)]) { mem0 1 with own := false } [(3, scalar 0)] ∧
    (let e := { mem0 0 with inner := true, snap := [7] }
     stands (withMem e []) e [] ∧ e.draining (withMem e []) = false) ∧
    (let e := { mem0 0 with passes := 1 }
     stands (withMem e []) e [] ∧ Kept (({ e with passes := 0 } : Elem).snapFrom (withMem e []) (e.len / 64) 0 [])) ∧
    (let e := mem0 0
     let s := withMem e [(0, scalar 0)]
     stands s e [(0, scalar 0)] ∧ e.passes = 0 ∧ e.inner = false ∧ e.draining s = false ∧ Kept (e.snapFrom s (e.len / 64) 0 [])) ∧
    (let e := { mem0 0 with spec := 2 ^ 37 }
     let s := withMem e [(0, vector 6)]
     stands s e [(0, vector 6)] ∧ bits e.spec 37 37 = 1 ∧ Kept (e.storeLine s 0 6)) ∧
    (let s := withMem (mem0 1) [(0, scalar 64)]
     stands s (mem0 1) [(0, scalar 64)] ∧ (mem0 1).storeFirst s = false ∧ Kept ((mem0 1).loadLine s 64)) ∧
    (let s := withMem (mem0 1) [(1, scalar 64), (2, vector 6)]
     stands s (mem0 1) [(1, scalar 64), (2, vector 6)] ∧ (mem0 1).loadFirst s = false ∧ Kept ((mem0 1).storeLine s 64 6) ∧
     (mem0 1).coal = false ∧
     (match (mem0 1).access s 64 true with | .ok s1 _ => decide s1.memWf && s1.mem.partials.isEmpty && s1.mem.under.isEmpty | _ => false) = true) ∧
    (let s := withMem (mem0 2) [(0, scalar 64), (1, vector 6)]
     stands s (mem0 2) [(0, scalar 64), (1, vector 6)] ∧
     (match (mem0 2).loadLine s 64 with | .inr (s1, _) => Kept ((mem0 2).storeLine s1 64 6) | .inl _ => false) = true) ∧
    (let s := withMem (mem0 1) [(0, scalar (2 ^ 63))]
     stands s (mem0 1) [(0, scalar (2 ^ 63))] ∧ (mem0 1).storeFirst s = false ∧ (mem0 1).buf = [] ∧ (mem0 1).passes7 s = true ∧
     (mem0 1).opens s 7 = true) := by decide +kernel

/-! ### Witnesses: matrix tiles and address generators -/

/-- A command with all of its fields 0. -/
def cmd0 : MCmd := { acc := 0, a := 0, aslot := 0, bslot := 0, chunks := 0, mdim := 0, ndim := 0, fmt := 0, cspec := 0 }
def run0 : Running := { word := 0, step := 0, tokens := [], byte := 0, row := 0, entry := 0, addr := none, lag := [] }

/-- The matrix tile at column 0, row 2, with all its slots claimed, runs a command; tokens on some of its ports. -/
def tileAt (r : Running) (claimed : Nat := 2 ^ 32 - 1) (ins : List (Nat × Tok) := []) : State :=
  let s := siteZ .tend
  let t : Tile := { pos := 2, cid := 0, claimed := claimed, seqn := 0, blocked := false, run := some r, done := none, badRows := [], badCells := [], saved := false, pts := 0 }
  { s with
    ctl := { s.ctl with focus := .tile 2 }
    eng := { s.eng with tiles := [t] }
    fab := { s.fab with inputs := ins.map (fun x =>
      inp (tilePort 2 x.1) .data [(x.2, true)]) } }

/-- The tile of a state, when its site is there. -/
def tl (s : State) : Tile := match tileSite s with | some (t, _, _) => t | none => { pos := 0, cid := 0, claimed := 0, seqn := 0, blocked := true, run := none, done := none, badRows := [], badCells := [], saved := true, pts := 0 }

def mclm0 : MCmd := { cmd0 with cspec := 2 ^ 20 }
def mldp0 : MCmd := { cmd0 with mdim := 1 }
def mldt0 : MCmd := { cmd0 with cspec := 2 ^ 10 }
def mstt0 : MCmd := { cmd0 with ndim := 15, cspec := 2 ^ 10 }
def mgat0 : MCmd := { cmd0 with fmt := 1, cspec := 5 * 2 ^ 21 + 6 * 2 ^ 16 }
def mdrn0 : MCmd := { cmd0 with a := 1, mdim := 1 }
def mtrn0 : MCmd := { cmd0 with fmt := 3, bslot := 1 }

theorem witness_MatrixMovesTiles :
    (tileSite (tileAt run0)).isSome ∧ cmdReserved (.mma cmd0) = true ∧
    (cmdReserved (.mclm mclm0) = false ∧ mclm0.spec 25 20 = 1 ∧ (tl (tileAt run0 0)).has 0 = false ∧ (tl (tileAt run0)).has 0 = true) ∧
    cmdReserved (.mrel mclm0) = false ∧
    (cmdReserved (.mldp mldp0) = false ∧ (tl (tileAt run0)).slotFault [0] [] = none ∧ mldp0.m * mldp0.c = 2 ∧
     (tileTake (tileAt run0 (2 ^ 32 - 1) [(1, vector 6)]) 2 (1 + mldp0.spec 0 0)).isSome) ∧
    (cmdReserved (.mldt mldt0) = false ∧ addrFault 64 = none ∧ mldt0.m = 1 ∧
     (tileTake (tileAt run0 (2 ^ 32 - 1) [(6, scalar 64)]) 2 6).isSome) ∧
    (let s := fibred (tileAt { run0 with addr := some 64, step := 1 })
     (tileAddrs 64 mldt0.pitch 1 64).find? (standsOutside s 0 0) = none ∧
     (match tileLines (freshConf 0) 2 false (tileAddrs 64 mldt0.pitch 1 64) s [] with | .ok _ _ => true | _ => false) = true) ∧
    (cmdReserved (.mstt mstt0) = false ∧ mstt0.m = 1 ∧ mstt0.rowBytes = 64 ∧
     (let s := { fibred (tileAt { run0 with addr := some 128, step := 1, tokens := [7] }) with eng := (tileAt { run0 with addr := some 128, step := 1, tokens := [7] }).eng }
      (tileAddrs 128 mstt0.pitch 1 64).find? (standsOutside s 0 0) = none ∧
      (match tileLines (freshConf 0) 2 true (tileAddrs 128 mstt0.pitch 1 64) s [] with | .ok _ _ => true | _ => false) = true ∧
      (match tileLines (freshConf 0) 2 true (tileAddrs (2 ^ 56) mstt0.pitch 1 64) s [] with | .bad _ 0x12 1 _ => true | _ => false) = true ∧
      (tileAddrs (2 ^ 56) mstt0.pitch 1 64).find? (standsOutside s 0 0) = none ∧
      (let s := { s with mem := { s.mem with tlb := s.mem.tlb.map (fun (t : Tlb) => { t with range := { t.range with attr := 0xF0F } }) } }
       ((tileAddrs 128 mstt0.pitch 1 64).find? (standsOutside s 0 0)).isSome))) ∧
    (cmdReserved (.mgat mgat0) = false ∧ run0.step + 1 < mgat0.m + mgat0.n ∧
     (∀ i ≤ mgat0.m, csrPtr (tileAt { run0 with step := 1 }) (tl (tileAt run0)) 0 i = 0)) ∧
    (cmdReserved (.mdrn mdrn0) = false ∧ (tileTake (tileAt run0 (2 ^ 32 - 1) [(4, scalar 0)]) 2 4).isSome ∧
     (sendOn (tileAt { run0 with step := 1, tokens := [7] }) (tilePort 2 8) (vector 7)).isSome) ∧
    (cmdReserved (.mtrn mtrn0) = false ∧ fmtWidth mtrn0.f = 8 ∧ (tl (tileAt run0)).has 1 = true ∧ (tileAt run0).memWf) := by decide +kernel

theorem witness_MatrixComputesItsCells :
    (tileSite (tileAt run0)).isSome ∧ (tileAt run0).memWf ∧ (tl (tileAt run0)).claimed = 2 ^ 32 - 1 ∧ (tl (tileAt run0)).badCells = [] ∧
    cmdReserved (.mzro cmd0) = false ∧ cmdReserved (.mma { cmd0 with fmt := 1 }) = false ∧
    cmdReserved (.mmai { cmd0 with fmt := 5 }) = false ∧ cmdReserved (.msca { cmd0 with fmt := 1, cspec := 2 ^ 24 }) = false ∧
    cmdReserved (.mgv { cmd0 with fmt := 1 }) = false ∧
    (let t := tl (tileAt run0)
     t.badRows = [] ∧ t.slotFault [0, 0] (slotRows 0 1 ++ slotRows 0 1) = none ∧ t.badCell 0 1 1 = false ∧
     (let x : MCmd := { cmd0 with fmt := 5 }
      let q := x.lo / x.pa
      let ps := ((List.range (x.hi + 1 - x.lo)).map (fun k => x.lo + k)).filter (fun p => p / x.pa = q)
      let used := (ps.map (fun p => x.bslot.toNat + p / x.pb)).eraseDups ++ (if x.f = 6 ∨ x.f = 8 then [x.spec 20 16] else [])
      t.slotFault ((x.aslot.toNat + q) :: used) (slotRows (x.aslot.toNat + q) x.m ++ used.flatMap (fun z => slotRows z x.n)) = none) ∧
     t.slotFault [0] (slotRows 0 1) = none ∧ t.badCell 1 1 1 = false ∧ t.slotFault [0] [(0, 0)] = none ∧ ({ cmd0 with fmt := 1 } : MCmd).spec 14 9 < 64) ∧
    (tileTake (tileAt run0 (2 ^ 32 - 1) [(3, vector 0x3C008001)]) 2 3).isSome ∧ (match readGroup 1 0 [] with | .short => true | _ => false) = true ∧
    (match readGroup 1 0 [1, 128, 0, 60, 1, 0, 0, 0] with | .ok 0x3C00 true [0] 8 => true | _ => false) = true := by decide +kernel

/-- A stream program at the north-west edge tile of the first strip, its operands read; the step stands at it. -/
def prog0 (ops : Option (List Word)) (loop : Option Nat := none) (bind : Option Nat := none) : AgProg :=
  { id := 4, pos := 25, place := 0, launch := 0, node := 0, pad := 0, ten := 0, bind := bind, start := 64, pc := 64, word := none, ops := ops
    loops := Vector.replicate 4 loop, adv := [], tile := 0, left := [], pulses := 0, lag := [], pts := 0, stopped := false }
def progAt (g : AgProg) : State :=
  let s := withRing (siteZ .tend)
  let r := s.eng.rings
  let s := fibred s
  { s with ctl := { s.ctl with focus := .ag 0 }, eng := { s.eng with progs := [g], rings := r, fibres := [] } }
/-- Operands of one row of 64 bytes at address 128. -/
def ops0 : List Word := [128, shapeWord 1 64 64 0, h0]
def ops1 : List Word := [128, 192, shapeWord 1 64 64 0, 0]

theorem witness_StreamProgramsRun :
    (agSite (progAt (prog0 none))).isSome ∧ shapeOperandBad (shapeWord 1 64 64 0) = false ∧ baseBad (shapeWord 1 64 64 0) 128 = false ∧
    (prog0 (some ops0)).bases 128 0 = (128, 0) ∧
    (let g := prog0 (some ops0)
     let s := progAt g
     (match agRing s (shapeWord 1 64 64 0) h0 with
      | .ok r => ringInside s g r && (r.bind = .none) && decide (r.c < r.w) &&
          r.room &&
          (g.tileKeys (s.setRing { r with bind := .stream g.id }) (shapeWord 1 64 64 0) 128 false).1.isSome
      | .error _ => false) = true ∧
     (g.tileKeys s (shapeWord 1 64 64 0) 128 true).1.isSome) ∧
    (let g := { prog0 (some [128, shapeWord 1 64 64 0, 7]) none (some 0) with left := [3, 4] }
     let s := progAt g
     let s := { s with fab := { s.fab with links := [link0 (g.ep 7) (portEp 0 2) .data] } }
     (agSite s).isSome ∧ g.outputOk s 7 = true ∧ (s.outLinks (g.ep 7)).all (linkOpen s) = true ∧ (sendOn s (g.ep 7) (vector 3)).isSome) ∧
    (∀ n ∈ [8, 15],
     let g := prog0 (some [128, shapeWord 2 64 64 0, BitVec.ofNat 64 n]) none (some 0)
     let s := progAt g
     let s := { s with fab := { s.fab with links := [link0 (portEp 0 2) (g.ep n) .data], inputs := [inp (g.ep n) .data [(vector 3, true)]] } }
     (agSite s).isSome ∧ g.inputOk s n = true ∧ g.left.length + 1 < tokensOf (shapeWord 2 64 64 0) ∧
     (takeToken s (g.ep n)).map (·.1.isNull) = some false) ∧
    (let g := prog0 (some [128, shapeWord 1 64 64 0, 8]) none (some 0)
     let s := progAt g
     let s := { s with fab := { s.fab with links := [link0 (portEp 0 2) (g.ep 8) .data], inputs := [inp (g.ep 8) .data [(.null, true)]] } }
     g.inputOk s 8 = true ∧ g.left.length < tokensOf (shapeWord 1 64 64 0) ∧ (takeToken s (g.ep 8)).map (·.1.isNull) = some true) ∧
    (let g := prog0 (some ops1)
     let s := progAt g
     (match g.tileKeys s (shapeWord 1 64 64 0) 128 false with
      | (some _, s1) => (g.tileKeys s1 (shapeWord 1 64 64 0) 192 true).1.isSome
      | _ => false) = true) ∧
    (prog0 (some []) (some 3)).loops.toList.getD 1 none = some (2 + 1) ∧ (prog0 (some []) (some 0)).loops.toList.getD 1 none = some 0 ∧
    (prog0 (some [])).loops.toList.getD 1 none = none ∧
    (let g := prog0 (some []) none (some 0)
     let s := progAt g
     let s := { s with fab := { s.fab with
       links := [link0 (portEp 0 2) (g.ep 17) .pulse]
       inputs := [inp (g.ep 17) .pulse [] 3] } }
     g.inputOk s 17 = true ∧ (s.input? (g.ep 17)).map (·.pulses) = some 3 ∧ (agSite s).isSome) ∧
    lagging (progAt (prog0 (some []))) (prog0 (some [])).lag = false := by decide +kernel

/-! ### Witnesses: the Drover -/

/-- 64-bit words in memory. -/
def words (s : State) (k : Nat) (ws : List Nat) : State := s.write k (ws.flatMap (toBytes 8))
/-- The tests' paddock without a configuration, its first page of memory mapped, with words from address 1024 on. -/
def bare (ws : List Nat) : State :=
  let s := fibred State.reset
  words { s with eng := State.reset.eng, hub := { s.hub with ready := true } } 1024 ws

/-- A node record (R301): kind, words from its second byte on, KSPEC and the second word of it; no successors, no ranges, LAST. -/
def rec0 (kind word spec : Nat) : BitVec 512 := BitVec.ofNat 512 (kind + 128 * 2 ^ 16 + (2 ^ 96 - 1) * 2 ^ 32 + word * 2 ^ 128 + spec * 2 ^ 192)
/-- The 64-bit words of a record. -/
def recWords (r : BitVec 512) : List Nat := (List.range 8).map (fun k => lane 64 r k)
/-- A join of two nodes: the first names the second, the second is the last. -/
def pair0 : List Nat := recWords (BitVec.ofNat 512 (5 + 2 ^ 16 + 2 ^ 32 + (2 ^ 80 - 1) * 2 ^ 48)) ++ recWords (rec0 5 0 0)

def node0 (r : BitVec 512) (near : BitVec 512 := 0) (st : NodeSt := .pool) : Node :=
  { record := r, near := near, bases := [], pages := [], preds := 0, st := st, entered := 0, raises := 0, order := 7, paused := 0
    lag := [], pts := 0 }
def launch0 (ns : List Node) : Launch :=
  { id := 7, pad := 0, ten := 0, graph := 1024, args := 0, tag := 3, ctx := .host 0 0, nodes := ns, failure := none }
def launched (s : State) (ns : List Node) : State := { s with drv := { s.drv with launches := [launch0 ns] }, ctl := { s.ctl with ids := 8 } }

/-- A near-memory record (R310): operation, format, lanes, page address, rows, stride, vector and result addresses. -/
def near0 (op fmt mask wpage rows len vaddr rbase : Nat) : BitVec 512 :=
  BitVec.ofNat 512 (op + fmt * 2 ^ 8 + mask * 2 ^ 32 + wpage * 2 ^ 64 + len * 2 ^ 144 + 2 ^ 160 + rows * 2 ^ 176 + vaddr * 2 ^ 192 + rbase * 2 ^ 256)

/-- A tenant's registers changed. -/
def tenanted (s : State) (g : Tenant → Tenant) : State := s.mapTenant 0 0 g
/-- The launch and the node at place 0 of a state. -/
def at0 (s : State) : Launch × Node := (s.nodeAt 0 0).getD (launch0 [], node0 0)
/-- Node 0 of the only launch heads its kind. -/
def heads (s : State) (kind : Nat) : Bool := (s.nodeAt 0 0).isSome && headOfKind s (at0 s).1 (at0 s).2 0 kind

theorem witness_GraphsLaunch :
    (let i := Instr.glaunch tg td
     let s := words (fibred (site i (sc 1024) (sc 0))) 1024 pair0
     firesTaking s i (scalar 0) = true ∧ waiting? s = none ∧ performedUpto s ((tk s).count 1) s.ctl.ids = true) ∧
    (let s := bare pair0
     s.hub.ready = true ∧ mailboxWaits s 0 0 = false ∧ (s.tenant 0 0).goes = [] ∧
     (tenanted s (fun v => { v with goes := [(1024, 0, 3)] })).tenant 0 0 ≠ s.tenant 0 0 ∧ (s.tenant 0 0).enabled = true ∧ (s.tenant 0 1).enabled = true ∧ ((bare pair0).tenant 9 0).enabled = false ∧
     (s.pad? 0).isSome ∧ (validate s 0 0 1024 0).toOption.map (·.length) = some 2 ∧ (validate s 0 0 1024 0).isOk = true ∧
     (match validate (bare (recWords (rec0 9 0 0))) 0 0 1024 0 with | .error e => decide (e = -1) | .ok _ => false) = true ∧ (1025 : Nat) % 64 ≠ 0) ∧
    ((tenanted (bare pair0) (fun v => { v with tdi := .stopped })).tenant 0 0).tdi = .stopped := by decide +kernel

theorem witness_NodesDispatch :
    (let s := launched (bare [0, 0, 0]) [node0 (rec0 1 1024 1)]
     let p := (s.pad? 0).getD pad0
     let load : Load := { pad := 0, ten := 0, n := 1, args := 0, cfg := 1024 }
     heads s 1 = true ∧ ckptFirst s 0 ((at0 s).2.prio s.ctl.now) = false ∧ (imageAt s 0 0 1024).toOption = some (some []) ∧
     freeRun s p 1 [] = some 0 ∧ load.check s [] = none ∧
     freeRun { s with fab := { s.fab with confs := [{ freshConf 9 with strip0 := 0, strips := 4 }] } } p 1 [] = none) ∧
    (let s := launched (bare [0x0F00000000000000, 0]) [node0 (rec0 1 1024 1)]
     heads s 1 = true ∧ (Load.check { pad := 0, ten := 0, n := 1, args := 0, cfg := 1024 } s [0x0F00000000000000]).isSome) ∧
    (let s := launched (bare []) [node0 (rec0 2 1024 0xFFFF0000)]
     heads s 2 = true ∧ agTile s 0 0 0 4 (at0 s).2.record = some 25 ∧ nodeBind (at0 s).2.record = 0xFFFF ∧ s.eng.progs = [] ∧
     nodeBind (rec0 2 1024 0) = 0 ∧ heads (launched (bare []) [node0 (rec0 2 1024 0)]) 2 = true) ∧
    (let s := launched (bare [1]) [{ node0 (rec0 3 1024 0) (near0 3 0 0xFFFF 0 2 0 0 0) with pages := [(0, 0)] }]
     heads s 3 = true ∧ s.eng.units = [] ∧ channelDown s (offsetOf (((at0 s).2.key (nmRec (at0 s).2.near).wpage).getD 0)) = false ∧ (nmRec (at0 s).2.near).laneOp = false) ∧
    (let s := launched (bare []) [node0 (rec0 4 77 5)]
     heads s 4 = true ∧ (s.tenant 0 0).notifyFull = false ∧ s.mem.hostOld = [] ∧ (s.tenant 0 0).nqsize = 0 ∧ s.drv.notes = [] ∧
     (holdBack s (regionKey 1 0) 4).mem.hostOld ≠ [] ∧
     ((tenanted s (fun v => { v with nqsize := 4, nqhead := 4 })).tenant 0 0).notifyFull = true) ∧
    heads (launched (bare []) [node0 (rec0 5 0 0)]) 5 = true ∧
    (let s := withBar (launched (fibred (siteZ .tend)) [node0 (rec0 5 (2 ^ 16) 1)]) bar0
     heads s 5 = true ∧ padPe s 0 0 = true ∧ (s.bar 0 1).rem = true ∧ (∃ c ∈ s.fab.confs, within c.strip0 c.strips 0 = true)) ∧
    padPe (bare []) 0 25 = false ∧
    (let s := launched (bare []) [{ node0 (rec0 5 0 0) with st := .finished }]
     (s.nodeAt 0 0).isSome ∧ (at0 s).2.st = .finished ∧ lagging s (at0 s).2.lag = false) ∧
    (let s := launched (bare []) [node0 (rec0 5 0 0)]
     tenantActive ((s.pad? 0).getD pad0) 0 = true ∧ (at0 s).2.st = .pool ∧ nodePri (at0 s).2.record + (at0 s).2.raises < 3 ∧
     s.ctl.now < 1900000 ∧ (at0 { s with ctl := { s.ctl with now := 1900000 } }).2.entered + 1900000 ≤ 1900000 ∧
     (at0 s).2.prio 1900000 > (at0 s).2.prio 0 ∧ (at0 s).2.entered + (at0 s).2.paused + 1900000 * 3 ≤ 3 * 1900000) := by decide +kernel

/-- The configuration of the site, its task idle. -/
def idleConf : State := withTask (siteZ .tend) (fun t => { t with st := .idle, frame := none })
def conf0 : Conf := idleConf.fab.confs.headD (freshConf 0)

theorem witness_ConfigurationsEnd :
    (let s := idleConf
     s.fab.confs[0]? = some conf0 ∧ atRest s conf0 = true ∧ s.fab.elems = [] ∧ writesPerformed s conf0 = true ∧ s.memWf) ∧
    (let s := withTask (withReq (.stw 0 1 0 0) (regionKey 0 64)) (fun t => { t with st := .idle, frame := none })
     s.fab.confs[0]? = some conf0 ∧ atRest s conf0 = true ∧ writesPerformed s conf0 = false) ∧
    (let s := siteZ .tend
     atRest s conf0 = false ∧ waitsOnPage s conf0 = false ∧ (∀ k ∈ s.cores.tasks, k.cid = conf0.cid → k.st ≠ .faulted) ∧
     s.ctl.now < conf0.moved + 2 ^ 24) := by decide +kernel

/-! ### Witnesses: near-memory nodes -/

/-- A row unit of pseudo-channel 0 with a node of an operation over its first lanes or rows, and the state that holds it. -/
def unit0 (op fmt mask rows len : Nat) : RowUnit :=
  { pch := 0, launch := 7, node := 0, record := near0 op fmt mask 0 rows len 0 0, pad := 0, ten := 0, wpage := 0, spage := 65536, rbase := 131072
    regs := List.replicate 16 (toBytes 32 0x3C003C00), acc := List.replicate 16 (List.replicate 64 9), buffer := List.replicate 1024 5
    step := 0, loaded := true, fresh := true, suspended := false, serving := [], cancelled := false, power := .up, pts := 0 }
def withUnit (x : RowUnit) : State :=
  let s := launched (bare [1, 2, 3]) [node0 (rec0 3 1024 0) x.record .running]
  { s with eng := { s.eng with units := [x] } }
def stepOf (x : RowUnit) : Option NmStep := (x.steps false)[x.step]?
def copied : RowUnit := { unit0 4 0 0xFFFF 2 0 with record := near0 4 0 0xFFFF 0 2 0 0 0 + BitVec.ofNat 512 (3 * 2 ^ 152) }

theorem witness_NearMemoryRuns :
    (∀ x ∈ [unit0 1 1 3 1 1, unit0 2 1 3 1 1, unit0 3 0 0xFFFF 2 0, unit0 4 0 0xFFFF 1 0],
      let s := withUnit x
      s.eng.units[0]? = some x ∧ x.mayStep s = true ∧ addressBound s x.pad = false ∧ s.mem.poison = [] ∧ s.memWf ∧ (stepOf x).isSome ∧
      x.loaded = true ∧ s.mem.under = [] ∧ s.mem.l2 = [] ∧ (∀ t ∈ s.cores.tasks, t.queue = [] ∧ t.reds = []) ∧ s.fab.elems = [] ∧
      s.eng.tiles = [] ∧ s.eng.copies = [] ∧ s.eng.progs = [] ∧ s.eng.units.length = 1) ∧
    (let x := { unit0 1 1 3 1 1 with loaded := false }
     let s := withUnit x
     let ks := (nmRec x.record).lanes.flatMap (x.vector s)
     ks ≠ [] ∧ (∀ k ∈ ks, parked s k.1 = false ∧ s.poisoned k.1 k.2 = false) ∧ s.mem.partials = [] ∧ x.regs.length = 16 ∧
     (∃ k ∈ ks, (s.taint k.1 8).poisoned k.1 k.2 = true) ∧
     (∃ k ∈ ks, parked { s with mem := { s.mem with empties := [{ unit_ := 0, row := offsetOf k.1 / 1024, full := false }] } } k.1 = true)) ∧
    ([unit0 1 1 3 1 1, unit0 2 1 3 1 1, unit0 3 0 0xFFFF 2 0, unit0 4 0 0xFFFF 1 0].map (fun x => (nmRec x.record).op)) = [1, 2, 3, 4] ∧
    stepOf (unit0 1 1 3 1 1) = some (.lanes [0] 0) ∧ stepOf { unit0 1 1 3 1 1 with step := 2 } = some (.result 0) ∧
    stepOf (unit0 3 0 0xFFFF 2 0) = some (.fill 0) ∧ stepOf { unit0 3 0 0xFFFF 2 0 with step := 1 } = some (.fill 1) ∧
    stepOf (unit0 4 0 0xFFFF 1 0) = some (.clone 0 0) ∧ stepOf copied = some (.bufRead 3) ∧ copied.buffer.length = 1024 ∧
    stepOf { copied with step := 1 } = some (.bufWrite 0) ∧ (nmRec (unit0 3 0 0xFFFF 2 0).record).rows = 2 ∧
    { unit0 3 0 0xFFFF 2 0 with cancelled := true }.mayStep (withUnit (unit0 3 0 0xFFFF 2 0)) = false ∧
    (let s := (withUnit (unit0 4 0 0xFFFF 1 0)).taint 65536 8
     ∃ k ∈ NmStep.reads (unit0 4 0 0xFFFF 1 0) (.clone 0 0), s.poisoned k.1 k.2 = true) := by decide +kernel

theorem witness_NearMemoryYields :
    (let x := unit0 3 0 0xFFFF 2 0
     let s := withReq (.stw 0 1 0 0) (regionKey 0 64)
     waitingAt s 0 = [(0, 0, regionKey 0 64)] ∧ waitingAt (withUnit x) 0 = [] ∧
     (∀ w ∈ waitingAt s 0, w ∈ ({ x with suspended := true, serving := [(0, 0, regionKey 0 64)] } : RowUnit).serving) ∧ x.power = .up ∧ x.acc.length = 16 ∧ (withUnit x).memWf ∧
     (∀ l ∈ x.acc, l.length = 64 ∧ ∀ v ∈ l, v < 2 ^ 32) ∧ x.step < 2 ^ 512) ∧
    (let x := { unit0 3 0 0xFFFF 2 0 with cancelled := true }
     let s := withUnit x
     let s := { s with mem := { s.mem with empties := [{ unit_ := 0, row := 4, full := false }] } }
     s.eng.units[0]? = some x ∧ ∃ e ∈ s.mem.empties, e.unit_ = x.pch ∧ e.full = false) := by decide +kernel

/-! ### Witnesses: pages, drains, held tasks -/

def page0 : PageReq :=
  { id := 3, pad := 0, ten := 0, page := 0, write := false, host := false, fgen := 0, va := 64, sent := 0, asked := true, stale := false, confs := []
    nodes := [], copies := [], vf := 0 }
/-- The site's task has a load withheld on a request. -/
def heldBack (q : PageReq) : State :=
  let s := fibred (waitingOp (.ldw 0 1 0 0 tg) 64)
  withFrame { s with mem := { s.mem with pages := [q] } } (fun f => f.setOp 0 (.withheld 3 0 64))
/-- The walk of a request finds its page. -/
def finds (s : State) (q : PageReq) : Bool :=
  match (translate s q.pad q.ten none none q.va (!q.write) q.write).2 with | .miss _ => false | _ => true

theorem witness_PagesAnswered :
    (let s := heldBack page0
     s.mem.pages[0]? = some page0 ∧ (tk s).waitsOn 3 = true ∧ (s.tenant 0 0).fgen = page0.fgen ∧ finds s page0 = true ∧ s.drv.ckpts = [] ∧
     (∀ c ∈ s.fab.confs, c.drain = none) ∧ s.ctl.eager = false ∧ (s.cores.tasks.map (fun t => (t.pos, t.slot))).Nodup ∧
     finds { s with mem := { s.mem with tlb := [] } } page0 = false) ∧
    ({ page0 with fgen := 1 } : PageReq).fgen ≠ ((heldBack { page0 with fgen := 1 }).tenant 0 0).fgen := by decide +kernel

/-- The idle configuration draining, with words in its window, its matrix slots and cells, and in memory. -/
def draining : State :=
  let s := fibred idleConf
  let s := { s with ctl := { s.ctl with eager := false }, eng := idleConf.eng }
  let s := words (words (words (words s (windowKey 0 8) [5]) 1024 [6]) (regionKey 4 (2 * 2 ^ 17)) [7]) (regionKey 5 (2 * 2 ^ 16)) [8]
  startDrain s 0 3
def drainOf (s : State) : Drain := ((s.fab.confs.headD (freshConf 0)).drain).getD { why := 0, since := 0, failed := none, edges := [] }

theorem witness_DrainsToCheckpoints :
    (let s := heldBack page0
     (s.pad? 0).map (·.drlim) = some 0 ∧ page0.asked = true ∧ page0.stale = false ∧ page0.sent + 0 * 1900 ≤ s.ctl.now ∧
     (waitingConfs s page0).map (·.2) = [64] ∧ (∀ c ∈ waitingConfs s page0, c.1.drain = none)) ∧
    (let s := idleConf
     (s.fab.confs[0]?).map (·.drain) = some none) ∧
    (let s := draining
     let x := s.fab.confs.headD (freshConf 0)
     s.fab.confs[0]? = some x ∧ s.conf? x.cid = some x ∧ x.drain = some (drainOf s) ∧ drained s x = true ∧ writesPerformed s x = true ∧
     s.eng.progs = [] ∧ s.ctl.now < (drainOf s).since + 2850000000 ∧
     drained (startDrain (siteZ .tend) 0 3) ((startDrain (siteZ .tend) 0 3).fab.confs.headD (freshConf 0)) = false) ∧
    (let s := sending 1
     let s := { s with fab := { s.fab with links := s.fab.links.map (fun (l : Link) => ({ l with flight := [] } : Link).mark) } }
     (s.fab.links[0]?).map (·.arriving) = some (.marker []) ∧ (s.input? (portEp 256 3)).isSome) ∧
    (let s := draining
     let s := { s with fab := { s.fab with confs := s.fab.confs.map (fun (c : Conf) => { c with drain := c.drain.map (fun d => { d with failed := some 64 }) }) } }
     let x := s.fab.confs.headD (freshConf 0)
     (drainOf s).failed = some 64 ∧ drained s x = true ∧ writesPerformed s x = true) := by decide +kernel

/-- The drained configuration saved, and restored. -/
def saved0 : State := match exec (.drainComplete 0) draining with | .next s => s | _ => draining
def ckptOf (s : State) : Ckpt := s.drv.ckpts.headD (checkpoint s (freshConf 0) { why := 0, since := 0, failed := none, edges := [] } 0)

theorem witness_RestoresWhatItSaved :
    (let s := saved0
     let x := ckptOf s
     s.drv.ckpts[0]? = some x ∧ (s.pad? x.conf.pad).isSome ∧ hopsOk s x.conf.strip0 (x.conf.words.map (·.toNat)) = true ∧ x.ready = true ∧ s.ctl.eager = false ∧
     tenantActive ((s.pad? x.conf.pad).getD pad0) x.conf.ten = true ∧ (∀ i < x.conf.strips, freeStrip s (x.conf.strip0 + i) = true) ∧
     (s.tenant x.conf.pad x.conf.ten).tdi ≠ .stopping ∧ (∀ e ∈ x.elems, e.midPass = false) ∧ draining.memWf ∧ s.drv.ckpts = draining.drv.ckpts ++ [x] ∧
     (match exec (.restore 0) s with | .next s2 => decide (s2.drv.ckpts = draining.drv.ckpts) | _ => false) = true) ∧
    (let s := launched (bare []) [node0 (rec0 5 0 0)]
     let s := { s with drv := { s.drv with launches := s.drv.launches.map (fun (l : Launch) => { l with ten := 1 }) } }
     let s := s.mapPad 0 (fun p => { p with mask := 3, leaving := true })
     (othersInOrder ((s.pad? 0).getD pad0)).find? (hasWork s 0) = some 1 ∧ s.fab.confs = [] ∧ s.eng.units = []) := by decide +kernel

/-- The first bytes of a checkpoint (R355): QCKP, version 1, WHY 3, the identifier, strips from 0. -/
theorem test_checkpoint_header :
    ((ckptOf saved0).image 7).take 12 = [0x51, 0x43, 0x4B, 0x50, 1, 0, 3, 0, 0, 0, 0, 1] := by decide +kernel

/-- The site's task waits in FAULTED. -/
def heldSite : State := withTask (fibred (siteZ .tend)) (fun t => { t with st := .faulted, frame := none, held := true, fault := 4096, code := 1 })

theorem witness_HeldTasksAreAnswered :
    (∀ w ∈ [2 ^ 36, 2 ^ 37], heldTask heldSite 0 0 w = some (tk heldSite)) ∧ heldTask heldSite 0 1 (2 ^ 36) = none ∧
    badBlock heldSite (tk heldSite).pos (heldSite.tenant 0 0).taddr.toNat = none ∧
    badBlock heldSite (tk heldSite).pos ((tenanted heldSite (fun v => { v with taddr := 7 })).tenant 0 0).taddr.toNat = some 1 := by decide +kernel

/-! ### Witnesses: functions, tenants, devices -/

theorem witness_RegisterWindows :
    ((bare []).pad? 0).isSome ∧ (4 : Nat) % 4 = 0 ∧ (8 : Nat) % 8 = 0 ∧ (0x89ABCDEF : Nat) < 2 ^ 32 ∧ 0xA4 ≤ (0xA4 : Nat) := by decide +kernel

/-- A host access of the tests' tenant waits alone at its homes. -/
def waitsOutside (s : State) (x : Outside) : State := { s.newId.2 with mem := { s.mem with outside := [x] } }

theorem witness_HostAccessesServed :
    (let s := bare [1, 2, 3]
     let ks := [(1084, 4), (1088, 4)]
     (∀ wr ∈ [false, true],
       let q := hostKeys s 0 0 1084 8 wr
       let x : Outside := { id := q.1.ctl.ids, src := .host 0 0 1084, who := 0, op := .read 8, keys := ks }
       (hostKeys s 0 0 (2 ^ 20) 8 wr).2 = none ∧ q.2 = some ks ∧ q.1.mem.outside = [] ∧ (∀ k ∈ ks, movedTo q.1 k.1 = none) ∧
       (∀ k ∈ ks, mayPass (waitsOutside q.1 x) k.1 7 x.id = true ∧ q.1.poisoned k.1 k.2 = false ∧ liveHeader q.1 k.1 = false) ∧
       q.1.mem.partials = [] ∧ q.1.mem.sealed = [] ∧ q.1.mem.under = [])) ∧
    (let s := (bare []).taint 1088 8
     (hostKeys s 0 0 1084 8 false).2 = some [(1084, 4), (1088, 4)] ∧ (hostKeys s 0 0 1084 8 false).1.poisoned 1088 4 = true) ∧
    (let s := bare []
     let s := { s with mem := { s.mem with empties := [{ unit_ := 0, row := 1, full := false }] } }
     let q := hostKeys s 0 0 1084 8 false
     let x : Outside := { id := q.1.ctl.ids, src := .host 0 0 1084, who := 0, op := .read 8, keys := [(1084, 4), (1088, 4)] }
     q.2 = some [(1084, 4), (1088, 4)] ∧ mayPass (waitsOutside q.1 x) 1084 7 x.id = false) ∧
    (let s := fibred (bare [])
     (hostKeys s 0 0 64 8 true).2 = some [(64, 8)] ∧ liveHeader (hostKeys s 0 0 64 8 true).1 64 = true) ∧ (bare [1, 2, 3]).memWf := by decide +kernel

theorem witness_TenantsStopAndReset :
    (let s := bare []
     (s.pad? 0).isSome ∧ (s.tenant 0 0).enabled = true ∧ (s.tenant 0 0).tdi = .unlocked ∧ ((s.pad? 0).map (·.mode)) = some 0 ∧
     (∀ c ∈ s.fab.confs, ¬(c.pad = 0 ∧ c.ten = 0)) ∧ (∀ l ∈ tenantLeaves s 0 0, bits l.2.2.2 7 7 = 0) ∧ s.memWf ∧
     ((allTenants s).filter (fun x => (s.tenant x.1 x.2).tdi ≠ .stopped)) ≠ []) ∧
    (let s := tenanted (bare []) (fun v => { v with tdi := .stopping })
     (s.tenant 0 0).tdi = .stopping ∧ lastWritesDone s 0 0 = true ∧ s.mem.partials = [] ∧ s.eng.fibres = []) ∧
    (let s := tenanted idleConf (fun v => { v with tdi := .stopping })
     lastWritesDone s 0 0 = false) ∧
    ((tenanted (bare []) (fun v => { v with tdi := .locked })).tenant 0 0).tdi = .locked ∧
    ((tenanted (bare []) (fun v => { v with tdi := .stopped })).tenant 0 0).tdi = .stopped ∧
    ((tenanted (bare []) (fun v => { v with enabled := false })).tenant 0 0).enabled = false ∧
    (allTenants State.reset = [] ∧ State.reset.memWf) := by decide +kernel

theorem witness_PaddocksChange :
    (let s : State := { State.reset with hub := { State.reset.hub with ready := true } }
     entSkipped s (3 + 2 ^ 8 + 3 * 2 ^ 16 + 5 * 2 ^ 32) = false ∧ entSkipped s 0 = true) ∧
    (let s := bare []
     ((s.pad? 0).map Paddock.frozen) = some false ∧ s.drv.launches = [] ∧ s.fab.confs = [] ∧ s.drv.ckpts = [] ∧ s.eng.units = [] ∧
     ((tenanted s (fun v => { v with tdi := .locked })).pad? 0).map Paddock.frozen = some true) ∧
    (∃ u ∈ (withUnit (unit0 3 0 0xFFFF 2 0)).eng.units, u.pad = 0) := by decide +kernel

/-- A window exported from the tests' paddock to paddock 5 of device 2. -/
def exported : State :=
  { bare [1, 2, 3] with ten := { (bare []).ten with exports := [{ pad := 0, base := 1024, len := 128, importers := [(2, 5)], write := true }] } }

theorem witness_DevicesAndPagesMove :
    (let s := exported
     s.ten.exports[1]? = none ∧ (s.ten.exports[0]?).isSome ∧ (2, 5) ∈ (s.ten.exports.headD { pad := 9, base := 0, len := 0, importers := [], write := false }).importers ∧
     (2, 4) ∉ (s.ten.exports.headD { pad := 9, base := 0, len := 0, importers := [], write := false }).importers ∧ s.mem.moved = [] ∧
     s.mem.partials = [] ∧ lineCuts 2 1028 8 = [(1028, 8)] ∧ parked s (regionKey 0 1028) = false ∧
     movedTo s (16 * 64) = none ∧ parked s (16 * 64) = false ∧ parked s (40 * 64) = false ∧ s.memWf ∧
     movedTo { s with mem := { s.mem with moved := [(16, 40)] } } (16 * 64) = some (40 * 64) ∧ s.mem.packMeta = [] ∧ s.cores.tasks = []) ∧
    (let s := withReq (.stw 0 1 0 0) (regionKey 3 64)
     s.fab.confs.length = 1 ∧ s.cores.tasks.length = 1 ∧ (tk s).cid = (s.fab.confs.headD (freshConf 1)).cid ∧ (tk s).queue.length = 1 ∧ (tk s).reds = [] ∧
     regionOf (regionKey 3 64) = 3 ∧ remoteDevice (regionKey 3 64) = 0) ∧
    lengthsOk (List.replicate 256 8) = true ∧ lengthsOk [] = false ∧ currentTable (bare []) 0 1 = none ∧
    (let s := { bare [] with mem := { (bare []).mem with phases := [(0, 1)] } }
     match exec (.packedTableUpdate 0 1 (List.replicate 256 8)) s with | .next s => (currentTable s 0 1).isSome | _ => false) = true ∧
    (let a : Word := BitVec.ofNat 64 (7 + 2 * 2 ^ 3 + 5 * 2 ^ 12 + 3 * 2 ^ 23)
     let d : Denied := { pad := 0, dev := 5, win := 3, reads := true, writes := true, first := 64 }
     bits a.toNat 4 3 = 2 ∧ bits a.toNat 2 1 = 3 ∧ bits a.toNat 22 12 = d.dev ∧ bits a.toNat 27 23 = d.win ∧ 5 ∉ (bare []).ten.downRoutes ∧
     d ∈ (refuseWindow (bare []) d).ten.denied ∧ d.pad = ((bare []).pad? 0).elim 9 (·.id)) ∧
    (moveFibre (fibred (bare [])) 1 (3 * 2 ^ 24)).isNone = true ∧ exported.mem.under = [] ∧
    (exported.taint 1024 8).poisoned (regionKey 0 1028) 8 = true ∧ liveHeader (fibred exported) (regionKey 0 64) = true := by
  decide +kernel

/-! ### Witnesses: bring-up and images -/

theorem witness_BringUpReachesReady :
    (let f : Firmware := { keyHash := 1, version := 0, sigOk := true, body := [] }
     let b : DieBoot := { DieBoot.reset 0 with images := [(2, f)] }
     let s : State := { State.reset with hub := { State.reset.hub with boots := [b] } }
     s.hub.stage = 0 ∧ s.hub.bootDie = 0 ∧ s.hub.boots[0]? = some b ∧ b.candidate 2 = some (f, false) ∧ b.accepts f = false) ∧
    (let f : Firmware := { keyHash := 0, version := 0, sigOk := true, body := [] }
     let b : DieBoot := { DieBoot.reset 0 with keyHash := 0, version := 0, images := [(2, f), (3, f)], pending := [] }
     let s : State := { State.reset with hub := { State.reset.hub with boots := List.replicate 5 b } }
     s.hub.stage = 0 ∧ s.hub.bootDie = 0 ∧ s.ten.paddocks = [] ∧ (∀ d < 5, s.hub.boots[d]? = some b) ∧
     (∀ n ∈ [2, 3], b.candidate n = some (f, false)) ∧ b.accepts f = true ∧ s.memWf) ∧
    6 ≤ ({ State.reset with hub := { State.reset.hub with stage := 6 } } : State).hub.stage ∧
    (∀ x ∈ [(0, 2), (1, 3), (4, 3), (0, 6)], 2 ≤ x.2 ∧ x.2 ≤ 6 ∧ (x.2 = 3 → 1 ≤ x.1 ∧ x.1 ≤ 4) ∧ (x.2 ≠ 3 → x.1 = 0) ∧
      x.2 = ({ State.reset with hub := { State.reset.hub with stage := x.2 - 1 } } : State).hub.stage + 1) := by decide +kernel

theorem witness_HousekeepingActs :
    (let b : DieBoot := { DieBoot.reset 0 with measured := [(1, 5)] }
     let s : State := { State.reset with hub := { State.reset.hub with stage := 1, boots := [b] } }
     s.hub.boots[0]? = some b ∧ 1 ≤ s.hub.stage ∧ b.inRom = false ∧ b.measured.find? (fun m => m.1 = 1) = some (1, 5) ∧
     ({ b with inRom := true } : DieBoot).inRom = true) ∧
    State.reset.hub.stage = 0 ∧ State.reset.hub.bootDie = 0 ∧ State.reset.hub.boots[0]? = some (DieBoot.reset 0) ∧
    State.reset.ten.paddocks = [] ∧ State.reset.eng.units = [] ∧ (bare []).pad? 0 = (bare []).ten.paddocks.head? ∧ ((bare []).pad? 0).isSome := by
  decide +kernel

/-- A file of one section of one doubleword. -/
def dof0 : List Byte :=
  toBytes 4 0x00464F44 ++ toBytes 2 1 ++ toBytes 2 2 ++ toBytes 2 1 ++ toBytes 2 1 ++ toBytes 2 32 ++ toBytes 2 0 ++ toBytes 8 64 ++ toBytes 8 0 ++
  toBytes 8 104 ++ List.replicate 24 0 ++ (toBytes 8 0 ++ toBytes 1 4 ++ toBytes 1 3 ++ toBytes 2 0 ++ toBytes 4 0 ++ toBytes 8 96 ++ toBytes 8 8) ++
  toBytes 8 77

theorem witness_ImagesArePlaced :
    dofRejected dof0 = false ∧ dofRejected [] = true ∧ dofHeaderBad [] = true ∧ ((bare []).tenant 0 0).enabled = true ∧
    (mappedSections dof0).map (fun x => (x.1.align, x.1.len, x.2)) = [(3, 8, 0)] ∧ (∀ y ∈ dofSymbols dof0, y.kind ≠ 6) ∧ (bare []).mem.partials = [] ∧
    1024 % 2 ^ 3 = 0 ∧ sectionKeys (bare []) 0 0 1024 8 false = some [(1024, 8)] ∧ parked (bare []) 1024 = false ∧ liveHeader (bare []) 1024 = false := by
  decide +kernel

/-! ### Witnesses: memory operations of several accesses, fibres -/

/-- A fence at a level, waiting at the head of its chain. -/
def fencing (e : BitVec 2) : State := waitingOp (.fence 0 1 0 e 0 tg) 0

theorem witness_IssueChecks_fence :
    (∀ e ∈ [0, 1, 2],
      let s := fencing e
      (match (fr s).nextOp with
       | some o => decide (decodeWord (s.insWord 0 (fr s).hdr o.idx) = some (Instr.fence 0 1 0 e 0 tg)) &&
         (Frame.putAll ((fr s).setOp o.q .issued) o.idx trigger [tg]).isOk
       | none => false) = true ∧ fenceReady s (tk s) e.toNat false = true) ∧
    (let s := withTask (fencing 1) (fun t => { t with queue := (tk (withReq (.ldw 0 1 0 0 tg) 8)).queue })
     fenceReady s (tk s) 1 false = false) := by decide +kernel

/-- The site's task has one request with keys still to be made, or a RED, over two words of memory. -/
def asking (i : Instr) (ks : List (Option Nat)) (b : Word) : State :=
  let s := withReq i 0
  let s := words s (regionKey 0 64) [0x1122334455667788, 0x99]
  withTask s (fun t => { t with queue := t.queue.map (fun r => { r with keys := ks, b := sc b, c := vc 0x77 }) })
def redding (k : Nat) : State := withTask (asking (.red 0 1 0 0 1 0) [some k] 7) (fun t => { t with reds := t.queue, queue := [] })

theorem witness_LoadAnswersItsBytes_lanes :
    ∀ ks ∈ [[some (regionKey 0 64), some (regionKey 0 72)], [some (regionKey 0 72)]],
      let s := asking (.vlds 0 1 0 3 tv) ks 8
      (tk s).queue.all (fun r => r.keys == ks && readsMem r.ins && !isFibre r.ins && r.free s 0 && !s.poisoned ((ks.headD none).getD 0) r.size &&
        !r.tainted) = true ∧ s.mem.partials = [] ∧ s.mem.under = [] ∧ s.ctl.eager = false := by decide +kernel

theorem witness_WritesTouchTheirBytesOnly_lanes :
    (∀ i ∈ [Instr.vsts 0 1 0 3, .vscat 0 1 0, .amoCas 0 1 0 1 0 tg],
      let s := asking i [some (regionKey 0 64)] 8
      (tk s).queue.all (fun r => !readsMem r.ins && !isFibre r.ins && r.free s 0) = true ∧ s.poisoned (regionKey 0 64) 8 = false ∧ s.memWf) ∧
    (∀ k ∈ [regionKey 0 64, regionKey 0 (16 * 4 * tileBytes + 64)],
      let s := redding k
      (match (tk s).reds with | r :: _ => decide (r.keys = [some k]) && r.free s 0 | [] => false) = true ∧ (homeOf k).isSome ∧ s.memWf ∧
      s.ctl.eager = false ∧ s.poisoned k 8 = false ∧ s.mem.partials = [] ∧ s.mem.under = []) ∧
    (homeOf (regionKey 0 64)).map dieOf = some (dieOf 0) ∧ (homeOf (regionKey 0 (16 * 4 * tileBytes + 64))).map dieOf = some 1 := by
  decide +kernel

/-- A header record, and the state with its fibre of some pairs at key 64. -/
def hdr0 : FibHdr :=
  { fmt := 12, cop := 0, pz := false, home := true, pol := 0, step := 1, sealed_ := false, two := false, live := true, level := 0, pdie := 0
    absent := 99, pairs := 3, plim := 0, segs := 1, sres := 0, ver := 1, nspl := 0, root := 0, nmrg := 0, ncrs := 0, nfld := 0, ecyc := 0 }
def withPairs (ps : List (Nat × Nat)) (h : FibHdr) (s : State := bare []) : State :=
  let s := s.write 64 h.bytes
  let x : Fibre := { key := 64, handle := 64, pad := 0, shape := Shape.mk (if ps = [] then [] else [ps]) [] false, parts := [], root := 0
                     segUnits := if ps = [] then [] else [1], dirUnits := [], spareSegs := [], spareDirs := [], bad := [] }
  { s with eng := { s.eng with fibres := [x] } }

theorem witness_FibresAnswer :
    (let s := withPairs [(3, 7), (5, 8), (9, 10)] hdr0
     (s.fibre? 64).map (·.bad) = some [] ∧ s.poisoned 64 64 = false ∧ (readHdr s 64).pdie = 0 ∧ s.memWf ∧ s.mem.under = [] ∧
     (readHdr s 64).sres ≤ 1 ∧ reservedDirs (readHdr s 64).sres ≤ 1 ∧
     (s.fibre? 64).map (fun f => (fibLookup f hdr0 5, fibLookup f hdr0 6)) = some (some 8, none)) ∧
    (readHdr (withPairs [(3, 7)] { hdr0 with sealed_ := true }) 64).sealed_ = true ∧
    (let s := withPairs [] hdr0
     (s.fibre? 64).map (·.shape) = some Shape.empty ∧ (readHdr s 64).level = 0 ∧ (readHdr s 64).fmt = 12 ∧ (readHdr s 64).pz = false ∧
     (readHdr s 64).plim = 0 ∧ (readHdr s 64).pol = 0 ∧ 1 < sentinel ∧
     unitsHeld (readHdr s 64).sres { Shape.empty with segs := [[(1, 2)]] } ≤ 2) ∧
    (let s := (bare []).write 64 (FibHdr.bytes { hdr0 with fmt := 0 })
     let s := { s with eng := { s.eng with pens := [{ pad := 0, pos := 25, size := 5 }] } }
     s.fibre? 64 = none ∧ (readHdr s 64).fmt = 0 ∧ s.read 64 1 < 16 ∧ (readHdr s 64).cop = 0 ∧ s.read 65 1 < 32 ∧ (readHdr s 64).pol = 0 ∧
     (readHdr s 64).step = 1 ∧ s.read 66 1 < 32 ∧ 1 ≤ penFree s 0 (fibHome 64) ∧ s.memWf) ∧
    (∀ i ∈ [Instr.fprb 0 1 0 tg, .fdel 0 1 0 tg],
      let s := withPairs [(3, 7)] hdr0 (asking i [some 64] 5)
      (tk s).queue.all (fun r => r.keys == [some 64] && isFibre r.ins && r.free s 0) = true ∧ s.mem.partials = []) := by decide +kernel

/-! ### Witnesses: faults, frames, the invariant of memory -/

theorem witness_FaultsAreTaken :
    (let i := Instr.cvt 6 0 0 0 0 tg
     let s := site i (sc 1)
     (encode i).isSome ∧ i.link = none ∧ waiting? s = none ∧ firing? s i = some (tk s, fr s, 0, sl s) ∧ i.badSub = some 4) ∧
    (let i := Instr.addi 5 0x0C0
     let s := site i (sc 1)
     firing? s i = some (tk s, fr s, 0, sl s) ∧ i.badSub = none ∧ (sl s).firesNull i = false ∧
     i.targets.any (targetIllegal s ((tk s).count 1) ((fr s).fired 0 (sl s)) 0) = true) ∧
    (let i := Instr.addi 5 tg
     let s := site i (some (.ctl 5 true))
     firing? s i = some (tk s, fr s, 0, sl s) ∧ (sl s).firesNull i = false ∧ i.badSub = none ∧ (sl s).poisoned i = true ∧
     firingFault s ((tk s).count 1) ((fr s).fired 0 (sl s)) 0 i i.targets = none) := by decide +kernel

theorem witness_FaultsAreTaken_undecoded :
    (let s := State.reset.withFetchWord 32 0x03800000
     let u := advance { s with ctl := { s.ctl with sched := [] } } 0
     s.ctl.sched = [(0, .fire 0 0 0)] ∧ firstActs (advance s 0) = [] ∧ (issueOrder u 0).head? = some (0, 0) ∧
     (u.task? 0 0).isSome ∧ (tk u).frame.isSome ∧ decodeWord (u.insWord 0 (fr u).hdr 0) = none ∧
     (tk u).st = .running ∧ (tk u).saved = false ∧ 0 < (fr u).n ∧ readyAt u (tk u) (fr u) 0 = true) := by decide +kernel

theorem witness_FaultsAreTaken_classes :
    (let s := tenanted (fibred (siteZ .tend)) (fun v => { v with fabase := 4096, fasize := 4, fpol := 7 })
     (s.conf? (tk s).cid).isSome ∧ s.task? (tk s).pos (tk s).slot = some (tk s) ∧ faultClass 1 3 = .holdable ∧ holds (s.tenant 0 0) 1 = true ∧
     (s.tenant 0 0).fasize < 2 ^ 32 ∧ (s.tenant 0 0).nqsize < 2 ^ 32 ∧ s.memWf ∧ faultClass 0x38 1 = .terminating ∧ faultClass 0x3F 2 = .paddock ∧
     (s.pad? 0).isSome ∧ ((s.tenant 0 0).fahead + 2 ^ 32 - (s.tenant 0 0).fatail) % 2 ^ 32 ≠ (s.tenant 0 0).fasize) ∧
    ((fibred (siteZ .tend)).tenant 0 0).fabase = 0 ∧ holds ((fibred (siteZ .tend)).tenant 0 0) 1 = false := by decide +kernel

theorem witness_RegisterInstructionFrame :
    (let s := siteZ .tend
     s.task? (tk s).pos (tk s).slot = some (tk s)) ∧
    (match exec (.addi 5 tg) (site (.addi 5 tg) (sc 6)) with | .next s => decide (((fr s).landAll 1).gw = [(0, 3, 11)]) | _ => false) = true := by
  decide +kernel

theorem witness_StepKeepsMemoryCanonical :
    State.reset.memWf ∧ (match step State.reset with | .next _ => true | _ => false) = true ∧ (bare [1, 2, 3]).memWf := by decide +kernel

theorem witness_IaluTable_illegal :
    (let i := Instr.ialu 0 43 tg td
     let s := site i (sc 6) (sc 3)
     waiting? s = none ∧ firing? s i = some (tk s, fr s, 0, sl s) ∧ (sl s).firesNull i = false) ∧
    (let i := Instr.vialu 3 0 tv td
     let s := site i (vc 6) (vc 3)
     waiting? s = none ∧ firing? s i = some (tk s, fr s, 0, sl s) ∧ (sl s).firesNull i = false) ∧
    (let i := Instr.ialu 0 43 tg td
     let s := site i (some .null) (sc 3)
     waiting? s = none ∧ i.badSub = some 2 ∧ firing? s i = some (tk s, fr s, 0, sl s) ∧ (sl s).firesNull i = true) ∧ 64 ≤ (64 : BitVec 16).toNat := by decide +kernel

/-! ### Witnesses: clauses of several statements -/

theorem witness_EncodedWordDecodes_wide :
    (Instr.mzro cmd0).wf = true ∧ (encodeCmd (.mzro cmd0)).isSome ∧ Instr.agend.wf = true ∧ encodeAg .agend = some 0x1C00000000000000 := by
  decide

/-- A tile with a command token, one that runs, and a stream program before and after its fetch. -/
theorem witness_StepRunsDecodedInstruction_engines :
    (let s := tileAt run0 (2 ^ 32 - 1) [(0, scalar 0)]
     let s := { s with ctl := { s.ctl with sched := [(0, .tile 2)] } }
     let u := advance { (advance s 0) with ctl := { (advance s 0).ctl with sched := [] } } 0
     firstActs (advance s 0) = [] ∧ span (advance s 0) 0 = 0 ∧ (u.tile? 2).map (fun t => t.blocked || t.saved || t.done.isSome) = some false ∧
     (dropNull u 2).isNone ∧ tileMarked u 2 = false ∧ (u.tile? 2).bind (·.run) = some run0 ∧ (tileTake u 2 0).map (·.1) = some (scalar 0) ∧
     (tileWord u 2).2.isSome) ∧
    (let s := progAt (prog0 none)
     let u := s.write 64 (toBytes 8 0x1C00000000000000)
     let g := prog0 none
     u.eng.progs[0]? = some g ∧ g.stopped = false ∧ agHalted u g = false ∧ g.word = none ∧ (g.fetch u g.pc.toNat 1).1 = some [0x1C00000000000000] ∧
     (agWord u 0).2.isSome) ∧
    (let s := site (.arrive 1 tg td) (sc 0)
     clusterFirst s 0 (.arrive 1 tg td) (sl s) = false ∧ barrierOf (.arrive 1 tg td) = some 1 ∧ s.barOpen 0 1 (turnOf (tk s) (fr s) 0) = true ∧
     dueActs { State.reset with ctl := { State.reset.ctl with sched := [] } } = []) := by decide +kernel

/-- The exits with a bad target, and a second exit. -/
theorem witness_ExitsFire_bad :
    ([Instr.br 1, .call 1, .ybr 1].all (fun i =>
      let s := site i (sc 0)
      decide (Fires s i (tk s) (fr s) 0 (sl s)) && (fr s).exit.isNone && decide (((1 : Nat) : Int) = (fr s).hdr + (1 : BitVec 23).toInt) &&
      (badBlock s (tk s).pos 1 == some 1))) = true ∧
    ([Instr.br (-1), .call (-1), .ybr (-1)].all (fun i =>
      let s := site i (sc 0)
      decide (Fires s i (tk s) (fr s) 0 (sl s)) && decide (((fr s).hdr : Int) + (-1 : BitVec 23).toInt < 0))) = true ∧
    ([Instr.brx, .callx].all (fun i =>
      let s := site i (sc 1)
      decide (Fires s i (tk s) (fr s) 0 (sl s)) && (badBlock s (tk s).pos (sl s).wa.toNat == some 1))) = true ∧
    (let s := withFrame (site .ret (sc 0)) (fun f => { f with spr := f.spr.set 8 1 })
     Fires s .ret (tk s) (fr s) 0 (sl s) ∧ badBlock s (tk s).pos ((fr s).spr.getD 0x08 0).toNat = some 1) := by decide +kernel

theorem witness_ExitsFire_second :
    [Instr.br 0, .call 0, .ybr 0, .brx, .callx, .ret, .tend, .trap].all (fun i =>
      let s := withFrame (site i (sc 0)) (fun f => { f with exit := some { kind := .tend, idx := 3, target := 0, code := 0 } })
      decide (Fires s i (tk s) (fr s) 0 (sl s)) && (fr s).exit.isSome) = true := by decide +kernel

theorem witness_ValuesAndRegistersMove_join :
    let x : Join := { reg := 3, pts := 9, lines := [7] }
    (tk (withTask (site (.get 3 tg td)) (fun t => { t with joins := [x] }))).joins.find? (fun y => y.reg = 3) = some x := by decide +kernel

/-- 1.5 and 2^-30 in F32, and their exact forms; rounding with and without overflow. -/
theorem witness_ScalarFloatSendsResult_rounding :
    readNum 0 0x3FC00000 = .fin false 12582912 (-23) ∧ readNum 0 0x80000000 = .fin true 0 (-149) ∧ 12582912 * 12582912 ≠ 0 ∧
    (roundNum 0 0 false false 12582912 (-23) false).2 / 4 % 2 = 0 ∧ (roundNum 0 0 false false 1 200 false).2 / 4 % 2 = 1 ∧
    (roundNum 3 3 false true 1 (-40) false).2 / 4 % 2 = 0 := by decide +kernel

theorem witness_ScalarConversionSendsResult_finite :
    isFloat 5 = false ∧ isFloat 0 = true ∧ (5 : Nat) < 15 ∧ readNum 0 0x40300000 = .fin false 11534336 (-22) ∧
    (let r := roundAt 0 false 11534336 (-22) false 0
     intMin 5 ≤ signed false r.1 ∧ signed false r.1 ≤ intMax 5) ∧
    readNum 0 0x43800000 = .fin false 8388608 (-15) ∧ intMax 5 < signed false (roundAt 0 false 8388608 (-15) false 0).1 ∧
    readNum 0 0xC3800000 = .fin true 8388608 (-15) ∧ signed true (roundAt 0 true 8388608 (-15) false 0).1 < intMin 5 := by decide +kernel

/-- 2.75 by a scale of 1.0 with zero point 8, in eight bits. -/
theorem witness_LanesSendResult_quantise :
    readNum 0 0x40300000 = .fin false 11534336 (-22) ∧ readNum 1 0x3C00 = .fin false 1024 (-10) ∧ (8 : Nat) < 2 ^ 8 ∧
    0 < (quantise 0 0x40300000 0x3C00 8 8).1 ∧ (quantise 0 0x40300000 0x3C00 8 8).1 + 1 < 2 ^ 8 := by decide +kernel

/-! ### Witnesses: ports, barriers, ranges, clauses of the second kind -/


theorem witness_ReceiveTakesOldest_plain :
    (let s := withPort (site (.recv 2 0 tg td) (sc 0)) 2 .ctl [(scalar 9, true)]
     ∀ l ∈ s.fab.links, l.dst = portEp 0 2 → l.src.cls ≠ .engine) := by decide +kernel

/-- BARCFG with RESET, a WAIT that it lets go, and arrivals: one before a local event of its cycle, one that is dropped. -/
theorem witness_BarriersWork_reset :
    firesTaking (site (.barcfg 1 tg td) (sc 3) (sc 1)) (.barcfg 1 tg td) trigger = true ∧
    firesTaking (site (.barcfg 1 tg td) (sc 3) (sc 3)) (.barcfg 1 tg td) trigger = true ∧
    (let i := Instr.wait 1 tg td
     let s := withBar (withFrame (site i) (fun f => f.wait 0 (.phase 1 7))) bar0
     (waiting? s).map (fun w => w.2.2.2.2.kind) = some (.phase 1 7) ∧ (s.bar 0 1).phase = 7 ∧
     (withBar s { bar0 with phase := 8 }).bar 0 1 ≠ s.bar 0 1 ∧ ((withBar s { bar0 with phase := 8 }).bar 0 1).phase ≠ 7 ∧
     (Frame.putAll ((fr s).unwait 0) 0 (scalar 7) [tg, td]).isOk ∧ s.targetsAt (tk s) (fr s) 0 = [tg, td] ∧ tg.toNat < 448) ∧
    (let i := Instr.barcfg 1 tg td
     let s := withFrame (site i (sc 3) (sc 1)) (fun f => f.wait 3 (.phase 1 7))
     let s1 := releaseWaits (s.setTask { ((tk s).count 1) with frame := some ((fr s).fired 0 (sl s)) }) 0 1
     firesTaking s i trigger = true ∧ (s1.task? 0 0).isSome ∧ (tk s1).frame.isSome ∧ (Frame.putAll (fr s1) 0 trigger [tg, td]).isOk ∧
     (fr s1).waits = [] ∧ (resting .idle).task? 0 0 = some (tk (resting .idle)) ∧ (tk (resting .idle)).frame = none) := by
  decide +kernel

theorem witness_BarriersWork_dropped :
    let i := Instr.rarrive 0 tg td
    let s := withFrame (site i (sc 0x10000)) (fun f => f.wait 0 (.arrival 4))
    let s := { s with cores := { s.cores with arrivals := [{ id := 4, target := 1, bar := 1, cid := 0, pos := 0, slot := 0, fid := (fr s).id, idx := 0, pts := 0 }] } }
    (s.bar 1 1).rem = false ∧ s.drv.ckpts = [] ∧ localBarFirst s 1 1 = false ∧ s.task? 0 0 = some (tk s) ∧
    ({ idx := 0, kind := .arrival 4 } : Wait) ∈ (fr s).waits ∧ decodeWord (s.insWord 0 (fr s).hdr 0) = some i ∧
    (Frame.putAll ((fr s).unwait 0) 0 trigger i.targets).isOk ∧ localBarFirst (site (.arriveRlx 1 tg td) (sc 0)) 0 1 = true := by decide +kernel

theorem witness_RangesAreShared_order :
    let s := stealing (site (.rnext tg td)) 3 9
    requestHere s (tk s) = false ∧ requestHere { s with ctl := { s.ctl with now := 5 } } (tk s) = true ∧
    (let s := withTask { s with ctl := { s.ctl with now := 5 } } (fun t => { t with st := .faulted })
     requestHere s (tk s) = true ∧ (tk s).st = .faulted) ∧
    (s.outLinks (portEp 0 (tk s).vrpy)).all (linkOpen s) = true ∧
    (let s := { s with fab := { s.fab with links := s.fab.links.map (fun (l : Link) => { l with credits := 0 }) } }
     (s.outLinks (portEp 0 (tk s).vrpy)).all (linkOpen s) = false) ∧ (∀ w ∈ (fr s).waits, w.kind ≠ .steal false) ∧
    (withTask s (fun t => { t with steals := [{ own := false, lo := none }], replies := [] })).cores.tasks.length = 1 := by decide +kernel

/-! ### Witnesses: memory, clauses of the second kind -/

theorem witness_LoadAnswersItsBytes_plain :
    let s := withReq (.ldw 0 1 0 0 tg) (windowKey 0 8)
    s.mem.sealed = [] ∧ s.plainL2 ∧ (tk s).queue.all (fun r => !r.tainted && !liveHeader s (windowKey 0 8)) = true := by decide +kernel

/-- A live header under a queued store and a queued RED; a RED whose home is on another die, with no partial line there. -/
theorem witness_WritesTouchTheirBytesOnly_header :
    (let s := fibred (withReq (.stw 0 1 0 0) 64)
     liveHeader s 64 = true ∧ s.plainL2 ∧ s.mem.partials = [] ∧ s.mem.sealed = [] ∧ s.memWf) ∧
    (let s := redding (regionKey 0 (16 * 4 * tileBytes + 64))
     liveHeader s (regionKey 0 (16 * 4 * tileBytes + 64)) = false ∧ s.plainL2 ∧ s.mem.sealed = []) ∧
    (let s := withReq (.stw 0 1 0 0) (regionKey 0 64)
     liveHeader s (regionKey 0 64) = false ∧ s.plainL2) := by decide +kernel

/-- A delivery to memory and a partial line, before and behind an empty row. -/
theorem witness_MemoryEvents_rows :
    let p : Partial := { line := 1, die := 1, home := 0, placed := true, val := 5, valid := 1, op := 0, size := 4, pad := 0, ten := 0, pos := 0, slot := 0, cid := 0 }
    let s := bare []
    let s := { s with mem := { s.mem with partials := [p] } }
    let u := { s with mem := { s.mem with empties := [{ unit_ := 0, row := 0, full := false }] } }
    s.mem.partials[0]? = some p ∧ mayPass s 64 6 (4 * 1 + 1) = true ∧ mayPass u 64 6 (4 * 1 + 1) = false ∧ mayPass (bare []) 68 5 0 = true ∧
    followMoves (bare []) 8 68 = some 68 ∧ (bare []).plainL2 ∧ (bare []).mem.sealed = [] ∧ (bare []).mem.partials = [] := by decide +kernel

theorem witness_MemoryEvents_redirect :
    let s := withReq (.stw 0 1 0 0) (regionKey 0 64)
    let s := withTask s (fun t => { t with queue := t.queue.map (fun r => { r with hops := 8 }) })
    let s := { s with mem := { s.mem with moved := [(1, 3)] } }
    movedTo s (regionKey 0 64) = some 192 ∧ (tk s).queue.length = 1 ∧ (tk s).queue.all (fun r => decide (8 ≤ r.hops)) = true ∧ (tk s).reds = [] := by
  decide +kernel

/-! ### Witnesses: blocks, links, copies, rings, clauses of the second kind -/

theorem witness_TasksRun_moments :
    (let s := withTask (withPort (resting .idle) 2 .ctl [(scalar 1, false)]) (fun t => { t with ports := [{ num := 2, plane := .ctl, wake := true }] })
     (tk s).readyAt = 0 ∧ wakes s (tk s) = true) ∧
    (let s := { resting .ready with ctl := { (resting .ready).ctl with now := 1 } }
     (tk s).readyAt < s.ctl.now ∧ (tk s) ∈ s.cores.tasks ∧ (tk s).pass < 15) ∧
    (let s := exiting .br 1
     (fr s).exit.isSome ∧ (fr s).raised = none) := by decide +kernel

/-- A block with a breakpoint whose exit is of each kind, with no pending register that it writes. -/
theorem witness_BlocksComplete_breakpoint :
    ∀ k ∈ [ExitKind.br, .call, .ret, .ybr, .tend],
      let s := withFrame (exiting k 0) (fun f => { f with bkpt := some 4 })
      (fr s).bkpt = some 4 ∧ ((fr s).exit.map (·.kind)) = some k ∧ s.issues (tk s) (fr s) = false ∧ (fr s).raised = none ∧
      blockDue s (tk s) = false ∧ (fr s).outs = (fr s).w ∧ (fr s).slotsResolved = true ∧ (tk s).pending = [] := by decide +kernel

theorem witness_LinksCarryTokens_order :
    let s := sending 1
    (fr s).sends[0]? = some { idx := 0, port := 2, tok := scalar 5 } ∧ (fr s).sends.length = 1 ∧
    (s.fab.links.all (fun l => linkOpen s l)) = true := by decide +kernel

/-- Three pieces of a copy's work: rows read, keys known, no partial or sealed line in the way. -/
theorem witness_CopiesRun_piece :
    let s := withCopy copy0
    copy0.kept = none ∧ copy0.lost = false ∧ copy0.ring = none ∧ shpTile copy0.shape = true ∧ s.mem.partials = [] ∧ s.mem.sealed = [] ∧ s.plainL2 ∧
    s.memWf ∧ (match copy0.piece s 0 with
      | some rows => (copy0.keys s rows).1.isSome
      | none => false) = true ∧
    (let c := { copy0 with shape := shapeWord 1 32 64 0 }
     shpTile c.shape = false ∧ (match c.piece (withCopy c) 0 with
      | some rows => (match (c.keys (withCopy c) rows).1 with | some ([(_, n)], [(_, m)]) => decide (n = m) | _ => false)
      | none => false) = true) := by decide +kernel

/-- A ring with what RBWAIT, RBREL and RBCLOSE need; a scan of a ring with its slot. -/
theorem witness_RingsDeliverInOrder_more :
    ring0.c ≠ ring0.r ∧ { ring0 with r := 1 }.c = { ring0 with r := 1 }.r ∧ ring0.r < ring0.c ∧ { ring0 with w := 1, r := 1 }.w ≤ ring0.c ∧
    (let s := fibred (withRing (siteZ .tend))
     (followMoves s 8 64).getD 64 = 64 ∧ s.plainL2) := by decide +kernel

/-! ### Witnesses: elements, tiles, programs, clauses of the second kind -/

/-- Host memory has no place here: a stream read takes its lines at one timestamp, and they are keys of the paddock. -/
theorem witness_MemElementsFire_snapshot :
    let e := mem0 0
    let s := withMem e [(0, scalar 0)]
    e.invariant s = false ∧ (match e.snapKeys s 2 0 [] with
      | .inr (s1, ks) => decide (ks.length = 2) && decide s1.plainL2 && s1.mem.partials.isEmpty && s1.mem.sealed.isEmpty
      | .inl _ => false) = true ∧ Kept (e.snapshot s (e.len / 64) 0) := by decide +kernel

/-- A CSR block of one row with the column 3, whose entry is 0x3C00. -/
def csr0 : State :=
  let s := tileAt { run0 with step := 1 }
  let k := slotKey 2 0 0
  ((s.write (k + 2) [1, 0]).write (k + 256) [3, 0]).write (k + 2176) [0, 0x3C]

theorem witness_MatrixMovesTiles_gather :
    let s := csr0
    (tileSite s).isSome ∧ mgat0.m = 1 ∧ mgat0.n = 1 ∧ (tl s).claimed = 2 ^ 32 - 1 ∧ (tl s).badRows = [] ∧ csrPtr s (tl s) 0 0 = 0 ∧
    csrPtr s (tl s) 0 1 = 1 ∧ csrEntry s (tl s) 0 0 = (3, 0x3C00) ∧ mgat0.bslot.toNat + 3 / 64 ≤ 31 ∧ mgat0.m + mgat0.n ≤ 1 + 1 ∧ s.memWf ∧
    ([3] : List Nat).Pairwise (· < ·) ∧ mgat0.spec 15 0 = 0 ∧ mgat0.spec 25 21 ≠ mgat0.spec 20 16 := by decide +kernel

/-- MDRN with KEEP 0: a row to be converted, one whose last token goes, of two rows and of one. -/
theorem witness_MatrixMovesTiles_drain :
    (∀ x ∈ [{ mdrn0 with a := 0, fmt := 0 }, { mdrn0 with fmt := 0 }, { mdrn0 with a := 0, fmt := 0, mdim := 0 }],
      let s := tileAt { run0 with step := 1 }
      let rs := (cellRow s (tl s) x.acc.toNat 0 x.n).map (drainCell x.f (x.spec 25 10) (x.spec 9 9 = 1))
      cmdReserved (.mdrn x) = false ∧ (rowTokens (fmtWidth x.f) (rs.map (·.1))).length = 1 ∧ (tl s).badCells = [] ∧ s.memWf ∧
      (sendOn s (tilePort 2 8) (vector 7)).isSome) ∧ ({ mdrn0 with a := 0, fmt := 0, mdim := 0 } : MCmd).m = 1 ∧ mdrn0.m = 2 := by decide +kernel

theorem witness_MatrixMovesTiles_plain :
    let s := fibred (tileAt { run0 with addr := some 64, step := 1 })
    s.plainL2 ∧ s.mem.partials = [] ∧ s.mem.sealed = [] := by decide +kernel

/-! ### Witnesses: the Drover, clauses of the second kind -/

theorem witness_GraphsLaunch_order :
    glaunched (bare pair0) = false ∧ glaunched { bare pair0 with drv := { (bare pair0).drv with launchedAt := some (bare pair0).ctl.now } } = true ∧
    (let s := tenanted (bare pair0) (fun v => { v with goes := [(1024, 0, 3)] })
     (s.tenant 0 0).goes = [(1024, 0, 3)] ∧ mailboxWaits s 0 0 = false) := by decide +kernel

/-- A store that outlived its configuration, the first of its task. -/
theorem witness_ConfigurationsEnd_retired :
    let s := withReq (.stw 0 1 0 0) (regionKey 0 64)
    let z : List Retired := (tk s).queue.map (fun r => { task := tk s, req := r })
    let s := { bare [] with mem := { (bare []).mem with retired := z } }
    s.mem.retired.length = 1 ∧ (s.mem.retired.all (fun z => decide (z.req.keys = [some (regionKey 0 64)] ∧ z.req.ins = .stw 0 1 0 0 ∧
      mayPass s (regionKey 0 64) 0 z.req.id = true))) = true ∧ movedTo s (regionKey 0 64) = none ∧ liveHeader s (regionKey 0 64) = false ∧
    s.mem.partials = [] ∧ s.mem.sealed = [] ∧ s.plainL2 ∧ s.memWf := by decide +kernel

theorem witness_ConfigurationsEnd_buffers :
    let s := withMem { mem0 1 with buf := [] } []
    ∀ e ∈ s.fab.elems, e.buf = [] := by decide +kernel

/-- Lanes of vectors that may pass to a unit, and one that waits; rows of no L2 line. -/
theorem witness_NearMemoryRuns_rows :
    let x := { unit0 1 1 3 1 1 with loaded := false }
    let s := withUnit x
    let ks := (nmRec x.record).lanes.flatMap (x.vector s)
    (∀ k ∈ ks, mayPass s k.1 8 x.pch = true ∧ s.poisoned k.1 k.2 = false) ∧ s.plainL2 ∧ s.mem.sealed = [] ∧ s.mem.partials = [] ∧
    (∃ k ∈ ks, mayPass { s with mem := { s.mem with empties := [{ unit_ := 0, row := offsetOf k.1 / 1024, full := false }] } } k.1 8 x.pch = false) ∧
    s.mem.retired = [] ∧ s.eng.deliveries = [] ∧ s.mem.outside = [] := by decide +kernel

theorem witness_NearMemoryYields_cancel :
    let x := { unit0 3 0 0xFFFF 2 0 with cancelled := true }
    (withUnit x).eng.units[0]? = some x ∧ x.suspended = false ∧ x.fresh = true ∧ { x with power := .down }.power = .down := by decide +kernel

/-- A request of an earlier generation, of the function that the tests' tenant is. -/
theorem witness_PagesAnswered_stale :
    let q := { page0 with fgen := 1 }
    let s := heldBack q
    s.mem.pages[0]? = some q ∧ q.asked = true ∧ q.fgen ≠ (s.tenant 0 0).fgen ∧ (s.tenant 0 0).enabled = true ∧ (s.tenant 0 0).vf = q.vf ∧
    (s.pad? 0).isSome := by decide +kernel

/-- A drained configuration's window, cells and memory; a refused page that is recorded. -/
theorem witness_DrainsToCheckpoints_waits :
    (let s := heldBack page0
     ({ page0 with asked := false } : PageReq).asked = false ∧ s.mem.pages[0]? = some page0) ∧
    (draining.eng.progs = [] ∧ draining.mem.bytes ≠ [] ∧ (draining.mem.bytes.any (savedCell (draining.fab.confs.headD (freshConf 0)))) = true) := by
  decide +kernel

/-- A node of the highest priority ahead of a checkpoint; a tenant whose checkpoints come before its pool. -/
theorem witness_RestoresWhatItSaved_order :
    nodeFirst saved0 (ckptOf saved0) = false ∧
    (let s := { saved0 with drv := { saved0.drv with launches := [launch0 [node0 (rec0 1 1024 1 ||| BitVec.ofNat 512 (3 * 2 ^ 8))]] } }
     nodeFirst s (ckptOf s) = true) ∧
    (let s := saved0.mapPad 0 (fun p => { p with restoring := true })
     (s.pad? 0).map (restoringNow s) = some true) ∧
    (saved0.eng.copies = [] ∧ (ckptOf saved0).ready = true) := by decide +kernel

/-! ### Witnesses: functions, tenants, devices, bring-up, clauses of the second kind -/

theorem witness_HostAccessesServed_order :
    let s := bare [1, 2, 3]
    (∀ k ∈ [(1084, 4), (1088, 4)], movedTo s k.1 = none) ∧ s.plainL2 ∧ lineOf 1084 ≠ lineOf 1088 ∧ ([7] : List Byte) ≠ [] := by decide +kernel

theorem witness_TenantsStopAndReset_resetting :
    (let s := tenanted (bare []) (fun v => { v with resetting := true })
     (s.tenant 0 0).resetting = true ∧ (s.pad? 0).isSome) ∧
    ({ bare [] with hub := { (bare []).hub with resetting := true } } : State).hub.resetting = true ∧
    ((bare []).tenant 0 0).resetting = false ∧ ((bare []).pad? 0).map (·.mode) = some 0 ∧
    (let s := tenanted (bare []) (fun v => { v with tdi := .error })
     (s.tenant 0 0).tdi = .error) := by decide +kernel

theorem witness_PaddocksChange_frozen :
    (let s := tenanted (bare []) (fun v => { v with tdi := .error })
     ((s.pad? 0).map Paddock.frozen) = some true) ∧
    (usedVfs (bare [])).length < 64 ∧ (bare []).ten.exports = [] ∧ Export.none ∉ exported.ten.exports ∧
    (let s := launched (bare []) []
     s.fab.confs = [] ∧ s.eng.units = [] ∧ s.drv.ckpts = []) := by decide +kernel

/-- Accesses of another device at the exported window, and what stands in their way. -/
theorem witness_DevicesAndPagesMove_remote :
    (let s := exported
     let x : Outside := { id := s.ctl.ids, src := .device 2, who := 0, op := .read 8, keys := [(regionKey 0 1028, 8)] }
     s.mem.outside = [] ∧ s.mem.moved = [] ∧ mayPass (waitsOutside s x) (regionKey 0 1028) 7 x.id = true ∧ s.mem.sealed = [] ∧ s.plainL2 ∧
     opBytes (.amo 0 8 5 0) = 8 ∧ opBytes (.write (toBytes 8 7)) = 8 ∧ opWrites (.write (toBytes 8 7)) = true ∧ regionKey 0 1032 % 8 = 0 ∧
     lineCuts 2 1032 8 = [(1032, 8)] ∧ s.poisoned (regionKey 0 1032) 8 = false) ∧
    (let s := { bare [] with eng := { (bare []).eng with
       deliveries := [{ word := 2 ^ 63, value := 5, size := 4, cid := 0, key := regionKey 3 64, pad := 0, ten := 0, pos := 0, slot := 0, id := 0 }] } }
     s.cores.tasks = [] ∧ s.eng.deliveries.all (fun d => decide (bits d.word.toNat 63 62 = 2 ∧ regionOf d.key = 3 ∧ remoteDevice d.key = 0)) = true) := by
  decide +kernel

theorem witness_DevicesAndPagesMove_busy :
    (let s := { bare [] with mem := { (bare []).mem with ats := [{ pad := 0, ten := 0, page := 0, host := 5 }] } }
     let g := regionKey 1 0 / 2 ^ 16 + hostPageOf s 0 0 0
     pageBusy s g = false ∧ (holdBack s (g * 2 ^ 16) 4).mem.hostOld ≠ [] ∧ pageBusy (holdBack s (g * 2 ^ 16) 4) g = true) ∧
    (moveFibre (bare []) 1 3).isSome = true ∧ (bare []).eng.fibres = [] ∧ (bare []).mem.partials = [] := by decide +kernel

theorem witness_BringUpReachesReady_steps :
    (let f : Firmware := { keyHash := 1, version := 0, sigOk := true, body := [] }
     let b : DieBoot := { DieBoot.reset 0 with images := [(2, f)] }
     let s : State := { State.reset with hub := { State.reset.hub with boots := [b], stage := 1 } }
     s.hub.stage = 1 ∧ s.hub.bootDie = 0 ∧ s.hub.boots[0]? = some b ∧ b.candidate 2 = some (f, false) ∧ b.accepts f = false) ∧
    (∀ x ∈ [(1, 3), (0, 2)], let s : State := { State.reset with hub := { State.reset.hub with stage := x.2 - 1 } }
      x.2 = s.hub.stage + 1 ∧ s.hub.bootDie = 0 ∧ x.2 ≠ ({ State.reset with hub := { State.reset.hub with stage := 5 } } : State).hub.stage + 1) ∧
    ({ State.reset with hub := { State.reset.hub with bootDie := 1 } } : State).hub.bootDie ≠ 0 := by decide +kernel

theorem witness_HousekeepingActs_clauses :
    State.reset.hub.skip ≤ 16 ∧ dieOf (homeTile 0) = 0 ∧ dieOfStrip 3 = 0 ∧
    (let b : DieBoot := { DieBoot.reset 0 with measured := [(1, 5)], inRom := true }
     b.inRom = true ∧ b.measured.find? (fun m => m.1 = 1) = some (1, 5)) := by decide +kernel

/-- Two sections of a file that stand in one 64 KiB page. -/
def dof1 : List Byte :=
  toBytes 4 0x00464F44 ++ toBytes 2 1 ++ toBytes 2 2 ++ toBytes 2 1 ++ toBytes 2 2 ++ toBytes 2 32 ++ toBytes 2 0 ++ toBytes 8 64 ++ toBytes 8 0 ++
  toBytes 8 144 ++ List.replicate 24 0 ++ (toBytes 8 0 ++ toBytes 1 4 ++ toBytes 1 3 ++ toBytes 2 0 ++ toBytes 4 0 ++ toBytes 8 128 ++ toBytes 8 8) ++
  (toBytes 8 0 ++ toBytes 1 4 ++ toBytes 1 3 ++ toBytes 2 0 ++ toBytes 4 0 ++ toBytes 8 136 ++ toBytes 8 8) ++ toBytes 8 77 ++ toBytes 8 78

/-- A tenant whose tables map one page of 1 GiB. -/
def mapped : State := ((fibred (bare [])).write 0 (toBytes 8 (1 + 2 ^ 16))).write (2 ^ 16) (toBytes 8 0x9F)

theorem witness_ImagesArePlaced_shared :
    (mappedSections dof1).map (fun x => (x.1.len, x.2)) = [(8, 0), (8, 1)] ∧ sectionLeaves mapped 0 0 0x20000 8 = sectionLeaves mapped 0 0 0x60000 8 ∧
    sectionLeaves mapped 0 0 0x20000 8 ≠ [] ∧
    (∀ k ∈ [(1024, 8)], mayPass (bare []) k.1 7 0 = true ∧ liveHeader (bare []) k.1 = false) := by decide +kernel

/-! ### Witnesses: clauses of the third kind -/

/-- A send too many whose port is open, before and behind the index that would fire; a raised fault of a higher index. -/
theorem witness_StepRunsDecodedInstruction_sends :
    (let s := (sending 0).write (storeKey 0 0 + 8) (toBytes 4 0x08000B03)
     (s.task? 0 0).isSome ∧ (tk s).frame.isSome ∧ (decodeWord (s.insWord 0 (fr s).hdr 1)).isSome ∧ sendFaultFirst s 0 0 (fr s) 1 = true ∧
     sendFaultFirst s 0 0 (fr s) 0 = false ∧ sendFaultFirst (sending 1) 0 0 (fr (sending 1)) 1 = false) ∧
    (let s := withFrame (site (.wait 1 tg td) (sc 0)) (fun f => { f.wait 0 (.phase 1 7) with raised := some { code := 0x06, sub := 0, idx := 1 } })
     (∃ w ∈ (fr s).waits, w.idx = 0) ∧ (∀ r ∈ (fr s).raised, 0 < r.idx) ∧ lateBar (.wait 1 tg td) = none ∧ lateBar (.arrive 1 tg td) = some 1 ∧
     s.barOpen 0 1 (turnOf (tk s) (fr s) 0) = true) ∧
    (let s := State.reset.withFetchWord 32 0x03800000
     let u := advance { s with ctl := { s.ctl with sched := [] } } 0
     sendFaultFirst u 0 0 (fr u) 0 = false) ∧
    State.reset.hub.skips State.reset.ctl.now = false := by decide +kernel

/-- Numbers of F32 of every kind: 1.0, -0, infinity and NaN, and the products that FMA meets. -/
theorem witness_ScalarFloatSendsResult_kinds :
    readNum 0 0x3F800000 = .fin false (2 ^ 23) (-23) ∧ readNum 0 0x80000000 = .fin true 0 (-149) ∧ readNum 0 0xBF800000 = .fin true (2 ^ 23) (-23) ∧
    readNum 0 0x7F800000 = .inf false ∧ readNum 0 0xFF800000 = .inf true ∧ readNum 0 0x7FC00000 = .nan ∧
    mulExact (readNum 0 0x7F800000) (readNum 0 0x3F800000) = (.inf false, 0) ∧
    mulExact (readNum 0 0x3F800000) (readNum 0 0x3F800000) = (.fin false (2 ^ 46) (-46), 0) := by decide +kernel

/-- One is below infinity, and no number below itself. -/
theorem witness_ScalarFloatSendsResult_order :
    Num.below (.fin false 1 0) (.inf false) ∧ ¬ Num.below (.inf true) (.inf true) ∧ Num.isNeg (.inf true) = true ∧ Num.isNeg (.fin false 0 0) = false := by
  refine ⟨?_, ?_, rfl, rfl⟩ <;> simp [Num.below]

/-- NaN, infinity and finite numbers of the eight-bit formats. -/
theorem witness_ScalarConversionSendsResult_formats :
    readNum 3 0x7F = .nan ∧ readNum 4 0x7C = .inf false ∧ readNum 4 0x7F = .nan ∧ readNum 3 0x40 = .fin false 8 (-2) ∧
    readNum 3 0x80 = .fin true 0 (-9) := by decide +kernel

/-- An operation of the chain whose checks answer keys, in a block without a fault, with one of a higher and one of a lower index. -/
theorem witness_IssueChecks_raised :
    let i := Instr.ldw 0 1 0 0 tg
    let s := withBank (waitingOp i (0xFE * 2 ^ 56 + 8)) 1
    let u := (tk s).raisePts (s.confPts (tk s).cid)
    (match (fr s).nextOp with
     | some o => (match memForm i (o.a.getD .null) (o.b.getD .null) with
        | some m => (match checkAddrs s u m m.addrs with
            | (s', .ok keys) => (ownCheck s' u i m.addrs keys).isNone && (enqueue s' u (fr s) o i keys 0).isSome && decide (s'.task? 0 0 = some (tk s))
            | _ => false)
        | none => false) && decide (o.idx = 0)
     | none => false) = true ∧ (fr s).raised = none ∧
    (withFrame s (fun f => { f with raised := some { code := 0x06, sub := 0, idx := 0 } })).task? 0 0 ≠ none ∧
    (fr (withFrame s (fun f => { f with raised := some { code := 0x06, sub := 0, idx := 0 } }))).raised = some { code := 0x06, sub := 0, idx := 0 } := by
  decide +kernel

/-- A line that has moved nine times, under a delivery. -/
theorem witness_MemoryEvents_ninth :
    let s := bare []
    let s := { s with mem := { s.mem with moved := (List.range 9).map (fun k => (1 + k, 2 + k)) }
                      eng := { s.eng with deliveries := [{ word := 2 ^ 63, value := 5, size := 4, cid := 0, key := 68, pad := 0, ten := 0, pos := 0, slot := 0, id := 0 }] } }
    s.eng.deliveries.all (fun d => decide (bits d.word.toNat 63 62 = 2) && (followMoves s 8 d.key).isNone) = true ∧ s.eng.deliveries.length = 1 := by
  decide +kernel

/-- A copy whose destination is a remote window. -/
theorem witness_CopiesRun_outside :
    let c := { copy0 with dst := 64 }
    let s := fibred (withCopy c)
    let s := { s with eng := { s.eng with copies := [c] }
                      mem := { s.mem with tlb := s.mem.tlb.map (fun (t : Tlb) => { t with range := { t.range with attr := 0xF0F } }) } }
    c.running = true ∧ c.lost = false ∧ c.ring = none ∧ shpTile c.shape = true ∧
    (match c.piece s c.moved with
     | some rows => decide ((rows.flatMap (fun r => lineCuts (r.2.2 / 64 + 2) r.1 r.2.2) ++
         rows.flatMap (fun r => lineCuts (r.2.2 / 64 + 2) r.2.1 r.2.2)).find? (fun a => standsOutside s c.pad c.ten a.1) = some (64, 64))
     | none => false) = true := by decide +kernel

/-- A scan whose header's row is there, and one whose row is empty. -/
theorem witness_RingsDeliverInOrder_parked :
    let s := fibred (withRing (siteZ .tend))
    mayPass s 64 9 9 = true ∧ followMoves s 8 64 = some 64 ∧
    mayPass { s with mem := { s.mem with empties := [{ unit_ := 0, row := 0, full := false }] } } 64 9 9 = false := by decide +kernel

/-- The slots of a transposition of each width; a group that MGV has begun and one that it has not. -/
theorem witness_MatrixMovesTiles_widths :
    (∀ x ∈ [mtrn0, { cmd0 with fmt := 1, bslot := 2 }], cmdReserved (.mtrn x) = false ∧ (tileAt run0).memWf ∧
      (let per := 512 / fmtWidth x.f
       let run (slot : Nat) : List Nat := (List.range (64 / per)).map (fun k => slot + k)
       (tl (tileAt run0)).slotFault (run x.aslot.toNat ++ run x.bslot.toNat) ((run x.aslot.toNat).flatMap (fun k => slotRows k 64)) = none ∧
       9 ∉ run x.bslot.toNat)) ∧
    [mtrn0, { cmd0 with fmt := 1, bslot := 2 }].map (fun x => fmtWidth x.f) = [8, 16] ∧
    (tl (tileAt run0)).slotFault [mgat0.aslot.toNat] (slotRows mgat0.aslot.toNat 64) = none ∧
    (tl (tileAt run0)).slotFault [mgat0.spec 25 21, mgat0.spec 20 16, mgat0.bslot.toNat] [(mgat0.bslot.toNat, 3)] = none := by decide +kernel

theorem witness_MatrixComputesItsCells_group :
    let x : MCmd := { cmd0 with fmt := 1, cspec := 100 * 2 ^ 15 }
    let tok : Vec := pack 8 ([100, 128, 0, 60] ++ List.replicate 60 1)
    let r : Running := { run0 with word := ((encodeCmd (.mgv x)).getD 0), tokens := [tok] }
    cmdReserved (.mgv x) = false ∧ r.midGroup = true ∧ ({ r with tokens := [] } : Running).midGroup = false ∧
    (match readGroup (x.spec 25 15 + 1) r.step ((r.tokens.flatMap (lanes 8)).drop r.byte) with | .short => true | _ => false) = true ∧
    (takeToken (tileAt r (2 ^ 32 - 1) [(3, .null)]) (tilePort 2 3)).map (·.1) = some .null ∧
    (tileTake (tileAt run0 (2 ^ 32 - 1) [(3, .null)]) 2 3).map (·.1) = some .null := by decide +kernel

theorem witness_StreamProgramsRun_poison :
    let s := (progAt (prog0 (some ops0))).taint (ring0.slotKey ring0.c) 64
    (agSite s).isSome ∧ (match agRing s (shapeWord 1 64 64 0) h0 with
      | .ok r => ringInside s (prog0 (some ops0)) r && decide (r.c < r.w) && s.poisoned (r.slotKey r.c) (shpRows (shapeWord 1 64 64 0) * shpBytes (shapeWord 1 64 64 0))
      | .error _ => false) = true ∧ (progAt (prog0 (some ops0))).mem.poison = [] := by decide +kernel

/-- A graph that cannot be read; a node whose image a hurdle drops; a release arrival behind a local event. -/
theorem witness_NodesDispatch_waits :
    (match validate (bare []) 0 0 (2 ^ 30) 0 with | .error e => decide (e = -2) | .ok _ => false) = true ∧
    (let s := launched (bare []) [node0 (rec0 1 1024 1)]
     let s := { s with mem := { s.mem with tlb := s.mem.tlb.map (fun (t : Tlb) => { t with range := { t.range with offset := 2 ^ 37 } }) } }
     heads s 1 = true ∧ (s.pad? 0).isSome ∧ ckptFirst s 0 ((at0 s).2.prio s.ctl.now) = false ∧
     (match imageAt s 0 0 1024 with | .error va => decide (va = 1024) | .ok _ => false) = true ∧
     (match translate s 0 0 none none 1024 true false with | (_, .dropped) => true | _ => false) = true) ∧
    (let s := withBar (launched (fibred (site (.arriveRlx 1 tg td) (sc 0))) [node0 (rec0 5 (2 ^ 16) 1)]) bar0
     heads s 5 = true ∧ padPe s 0 0 = true ∧ localBarFirst s 0 1 = true ∧ (∃ c ∈ s.fab.confs, within c.strip0 c.strips 0 = true)) ∧
    (let s := withBar (launched (fibred (siteZ .tend)) [node0 (rec0 5 (2 ^ 16) 1)]) bar0
     localBarFirst s 0 1 = false) := by decide +kernel

/-- A token at an input, one recorded there, and a merge in a task's queue. -/
theorem witness_ConfigurationsEnd_tokens :
    (∀ f ∈ [fun (i : Input) => i, fun i => { i with toks := [], chan := i.toks.map (·.1) }],
      let s := withPort idleConf 2 .ctl [(scalar 1, true)]
      let s := { s with fab := { s.fab with inputs := s.fab.inputs.map f } }
      s.fab.confs[0]? = some conf0 ∧ ∃ i ∈ s.fab.inputs, i.cid = conf0.cid ∧ (i.toks ≠ [] ∨ i.chan ≠ [])) ∧
    (let s := withReq (.fins 0 1 0 0) 64
     (tk s).cid = conf0.cid ∧ ∃ r ∈ (tk s).queue, isMergeOp r.ins = true) := by decide +kernel

/-- A clone of a row onto itself and onto another; a cycle that throttling skips. -/
theorem witness_NearMemoryRuns_clone :
    (let x := { unit0 4 0 0xFFFF 1 0 with spage := 0 }
     stepOf x = some (.clone 0 0) ∧ rowKey x.spage 0 = rowKey x.wpage 0 ∧ (withUnit x).memWf) ∧
    rowKey (unit0 4 0 0xFFFF 1 0).spage 0 ≠ rowKey (unit0 4 0 0xFFFF 1 0).wpage 0 ∧
    (let x := unit0 4 0 0xFFFF 1 0
     (∀ k ∈ NmStep.reads x (.clone 0 0), (withUnit x).poisoned k.1 k.2 = false) ∧ (withUnit x).eng.scans = [] ∧
     (withUnit x).hub.skips (withUnit x).ctl.now = false) ∧
    (let s := withUnit (unit0 3 0 0xFFFF 2 0)
     let s := { s with hub := { s.hub with skip := 15, surge := true } }
     s.hub.skips s.ctl.now = true) := by decide +kernel

/-- Two ready checkpoints of a tenant, the younger of a higher effective priority. -/
theorem witness_RestoresWhatItSaved_priority :
    let x := { ckptOf saved0 with entered := 1900000 }
    let y := { ckptOf saved0 with entered := 0 }
    let s := { saved0 with drv := { saved0.drv with ckpts := [x, y] }, ctl := { saved0.ctl with now := 1900000 } }
    s.drv.ckpts[0]? = some x ∧ s.drv.ckpts[1]? = some y ∧ y.ready = true ∧ x.prio s < y.prio s ∧ (s.pad? x.conf.pad).map (restoringNow s) = some false ∧
    ckptBefore s y x 1 0 = true ∧ ckptBefore saved0 (ckptOf saved0) (ckptOf saved0) 0 0 = false := by decide +kernel

/-- A slot that is not enabled, whose next function has been assigned before. -/
theorem witness_PaddocksChange_disabled :
    let s := tenanted (bare []) (fun v => { v with enabled := false })
    let s := { s with ten := { s.ten with vfs := [(1, 5, 7)] } }
    (s.tenant 0 0).enabled = false ∧ (usedVfs s).length < 64 ∧ leastFree (usedVfs s) 0 = 1 ∧
    s.ten.vfs.find? (fun y => y.1 = 1) = some (1, 5, 7) ∧ (s.pad? 0).map Paddock.frozen = some false ∧ s.drv.launches = [] ∧ s.fab.confs = [] ∧
    s.drv.ckpts = [] := by decide +kernel

/-- A request in the device's own number; a store of an ended configuration on its way to a device. -/
theorem witness_DevicesAndPagesMove_own :
    ({ exported with ten := { exported.ten with device := 2 } } : State).ten.device = 2 ∧ (2 : Nat) ≠ exported.ten.device ∧
    (let s := withReq (.stw 0 1 0 0) (regionKey 3 64)
     let z : List Retired := (tk s).queue.map (fun r => { task := tk s, req := r })
     let s := { bare [] with mem := { (bare []).mem with retired := z } }
     (∀ t ∈ s.cores.tasks, t.queue = [] ∧ t.reds = []) ∧ s.mem.retired.length = 1 ∧ s.mem.retired.all (fun y => decide (y.req.toDevice 0 = 1)) = true) := by
  decide +kernel

/-- The paddock of the tests holds a strip of die 0. -/
theorem witness_HousekeepingActs_paddocks :
    ((bare []).ten.paddocks.filter (fun p => decide (dieOfStrip p.first ≤ 0 ∧ 0 ≤ dieOfStrip (p.first + p.count - 1)))).length = 1 := by decide +kernel

end Sys2Proof.Tests
end

section
/-! PROOF. Integer arithmetic of a PE: the words of IALU and of its immediate forms (R89, R103, R105), the operations of IALU's table
as operations on bit vectors (R104), and the statements O10 and O11. -/

namespace Sys2Proof.Machine

/-! #### Numbers and the bit vectors they stand for (R37, R41) -/

theorem sgn_eq_toInt_ofNat (n x : Nat) : sgn n x = (BitVec.ofNat n x).toInt := by
  have positive : x % 2 ^ n < 2 ^ (n - 1) ↔ 2 * (x % 2 ^ n) < 2 ^ n := by
    cases n with
    | zero => simp [Nat.mod_one]
    | succ k => rw [Nat.add_sub_cancel, pow_succ']; omega
  simp only [sgn, BitVec.toInt_eq_toNat_cond, BitVec.toNat_ofNat, positive]

theorem sgn_toNat_narrow {n : Nat} (m : Nat) (A : BitVec n) : sgn m A.toNat = (A.truncate m).toInt := by
  rw [sgn_eq_toInt_ofNat, BitVec.ofNat_toNat]

@[simp] theorem sgn_toNat {n : Nat} (A : BitVec n) : sgn n A.toNat = A.toInt := by
  rw [sgn_eq_toInt_ofNat, BitVec.ofNat_toNat, BitVec.setWidth_eq]

theorem wrap_eq_toNat_ofInt (n : Nat) (x : Int) : wrap n x = (BitVec.ofInt n x).toNat := by
  rw [wrap, BitVec.toNat_ofInt]

theorem sext_toNat {n : Nat} (A : BitVec n) : sext n A.toNat = A.signExtend 64 := by
  rw [sext, sgn_toNat, BitVec.signExtend]

theorem signExtend_ofNat_of_lt {n z : Nat} (h : 2 * z < 2 ^ n) : (BitVec.ofNat n z).signExtend 64 = BitVec.ofNat 64 z := by
  have small : (BitVec.ofNat n z).toNat = z := by rw [BitVec.toNat_ofNat, Nat.mod_eq_of_lt (by omega)]
  rw [BitVec.signExtend, BitVec.toInt_eq_toNat_of_lt (by rw [small]; exact h), small, BitVec.ofInt_natCast]

theorem signExtend_bool {n : Nat} (hn : 2 ≤ n) (p : Prop) [Decidable p] :
    (if p then (1 : BitVec n) else 0).signExtend 64 = if p then (1 : Word) else 0 := by
  have four : 2 ^ 2 ≤ 2 ^ n := Nat.pow_le_pow_right (by omega) hn
  split
  · exact signExtend_ofNat_of_lt (z := 1) (by omega)
  · exact signExtend_ofNat_of_lt (z := 0) (by omega)

theorem ofInt_neg_one (n : Nat) : BitVec.ofInt n (-1) = BitVec.allOnes n := by
  rw [BitVec.ofInt_neg, ← BitVec.neg_one_eq_allOnes]; rfl

theorem toNat_eq_zero_iff {n : Nat} (B : BitVec n) : B.toNat = 0 ↔ B = 0 := by rw [← BitVec.toNat_inj]; rfl

theorem ofInt_sgn_narrow {n : Nat} (m : Nat) (A : BitVec n) : BitVec.ofInt n (sgn m A.toNat) = (A.truncate m).signExtend n := by
  rw [sgn_toNat_narrow, BitVec.signExtend]

theorem ofNat_mod_two_pow {n : Nat} (m : Nat) (A : BitVec n) : BitVec.ofNat n (A.toNat % 2 ^ m) = (A.truncate m).zeroExtend n := by
  apply BitVec.eq_of_toNat_eq; simp

/-! #### Bits of a number: rotations, counts, reversals -/

theorem getLsbD_eq_div_mod {n : Nat} (A : BitVec n) (i : Nat) : A.getLsbD i = decide (A.toNat / 2 ^ i % 2 = 1) := by
  rw [BitVec.getLsbD, Nat.testBit_eq_decide_div_mod_eq]

/-- The two parts of a rotated number have no bit in common, so that their sum is their OR. -/
theorem rotated_add_eq_or {n k x : Nat} (hk : k ≤ n) (hx : x < 2 ^ n) :
    x * 2 ^ k % 2 ^ n + x / 2 ^ (n - k) = x <<< k % 2 ^ n ||| x >>> (n - k) := by
  have split : 2 ^ n = 2 ^ k * 2 ^ (n - k) := by rw [← pow_add, Nat.add_sub_cancel' hk]
  have low : x / 2 ^ (n - k) < 2 ^ k := Nat.div_lt_of_lt_mul (by rw [Nat.mul_comm, ← split]; exact hx)
  have high : x * 2 ^ k % 2 ^ n = 2 ^ k * (x % 2 ^ (n - k)) := by rw [split, Nat.mul_comm x, Nat.mul_mod_mul_left]
  rw [Nat.shiftLeft_eq, Nat.shiftRight_eq_div_pow, high, Nat.two_pow_add_eq_or_of_lt low]

theorem clz_le (n x : Nat) : clz n x ≤ n := by
  unfold clz; split <;> omega

theorem getMsbD_of_lt_clz {n i : Nat} (A : BitVec n) (h : i < clz n A.toNat) : A.getMsbD i = false := by
  have small : A.toNat < 2 ^ (n - 1 - i) := by
    unfold clz at h
    split at h
    next zero => rw [zero]; exact Nat.two_pow_pos _
    next => exact Nat.lt_log2_self.trans_le (Nat.pow_le_pow_right (by omega) (by omega))
  rw [BitVec.getMsbD, BitVec.getLsbD, Nat.testBit_lt_two_pow small, Bool.and_false]

theorem getMsbD_clz {n : Nat} (A : BitVec n) (h : clz n A.toNat < n) : A.getMsbD (clz n A.toNat) = true := by
  rw [BitVec.getMsbD, decide_eq_true h, Bool.true_and, BitVec.getLsbD]
  unfold clz at h ⊢
  split at h
  next => omega
  next nonzero =>
    have top : A.toNat.log2 < n := (Nat.log2_lt nonzero).2 A.isLt
    rw [if_neg nonzero, show n - 1 - (n - 1 - A.toNat.log2) = A.toNat.log2 by omega]
    exact Nat.testBit_log2 nonzero

theorem ctz_le (n x : Nat) : ctz n x ≤ n := by
  unfold ctz
  cases h : (List.range n).find? (fun i => decide (x / 2 ^ i % 2 = 1)) with
  | none => simp
  | some z => simpa using (List.mem_range.1 (List.mem_of_find?_eq_some h)).le

theorem getLsbD_of_lt_ctz {n i : Nat} (A : BitVec n) (h : i < ctz n A.toNat) : A.getLsbD i = false := by
  rw [getLsbD_eq_div_mod]
  unfold ctz at h
  cases hz : (List.range n).find? (fun i => decide (A.toNat / 2 ^ i % 2 = 1)) with
  | none =>
    rw [hz] at h
    simpa using List.find?_eq_none.1 hz i (List.mem_range.2 h)
  | some z =>
    rw [hz] at h
    simpa using (List.find?_range_eq_some.1 hz).2.2 i h

theorem getLsbD_ctz {n : Nat} (A : BitVec n) (h : ctz n A.toNat < n) : A.getLsbD (ctz n A.toNat) = true := by
  rw [getLsbD_eq_div_mod]
  unfold ctz at h ⊢
  cases hz : (List.range n).find? (fun i => decide (A.toNat / 2 ^ i % 2 = 1)) with
  | none => simp [hz] at h
  | some z => simpa [hz] using List.find?_some hz

theorem popCount_toNat {n : Nat} (A : BitVec n) : popCount n A.toNat = (List.range n).countP (fun i => A.getLsbD i) := by
  simp only [popCount, List.countP_eq_length_filter, getLsbD_eq_div_mod]

theorem popCount_le (n x : Nat) : popCount n x ≤ n := by
  simpa [popCount] using List.length_filter_le (fun i => decide (x / 2 ^ i % 2 = 1)) (List.range n)

/-- The first `k` units of `w` bits of a number in reverse order: BREV's units are bits, BSWAP's bytes. -/
def unitReverse (w k x : Nat) : Nat := (List.range k).foldl (fun r i => 2 ^ w * r + x / (2 ^ w) ^ i % 2 ^ w) 0

theorem bitReverse_eq (n x : Nat) : bitReverse n x = unitReverse 1 n x := rfl

theorem byteReverse_eq (n x : Nat) : byteReverse n x = unitReverse 8 (n / 8) x := rfl

theorem unitReverse_succ (w k x : Nat) : unitReverse w (k + 1) x = 2 ^ w * unitReverse w k x + x / (2 ^ w) ^ k % 2 ^ w := by
  simp [unitReverse, List.range_succ]

theorem testBit_unitReverse {w : Nat} (hw : 0 < w) (k x j : Nat) (h : j < w * k) :
    (unitReverse w k x).testBit j = x.testBit (w * k - w * (j / w + 1) + j % w) := by
  induction k generalizing j with
  | zero => omega
  | succ k ih =>
    rw [unitReverse_succ, Nat.testBit_two_pow_mul_add _ (Nat.mod_lt _ (Nat.two_pow_pos w))]
    split
    next low =>
      rw [Nat.testBit_mod_two_pow, ← pow_mul, Nat.testBit_div_two_pow, Nat.div_eq_of_lt low, Nat.mod_eq_of_lt low]
      simp [low, Nat.mul_succ, Nat.add_comm]
    next high =>
      obtain ⟨j, rfl⟩ := Nat.exists_eq_add_of_le' (not_lt.1 high)
      rw [Nat.mul_succ] at h
      rw [Nat.add_sub_cancel, ih j (by omega), Nat.add_div_right _ hw, Nat.add_mod_right, Nat.mul_succ w k,
        Nat.mul_succ w (j / w + 1), Nat.add_sub_add_right]

theorem getLsbD_bitReverse {n i : Nat} (A : BitVec n) (h : i < n) :
    (BitVec.ofNat n (bitReverse n A.toNat)).getLsbD i = A.getLsbD (n - 1 - i) := by
  have mirror : 1 * n - 1 * (i / 1 + 1) + i % 1 = n - 1 - i := by omega
  rw [BitVec.getLsbD_ofNat, decide_eq_true h, Bool.true_and, bitReverse_eq, testBit_unitReverse Nat.one_pos _ _ _ (by omega), mirror,
    BitVec.getLsbD]

theorem getLsbD_byteReverse {n i : Nat} (A : BitVec n) (whole : 8 ∣ n) (h : i < n) :
    (BitVec.ofNat n (byteReverse n A.toNat)).getLsbD i = A.getLsbD (n - 8 * (i / 8 + 1) + i % 8) := by
  have bytes := Nat.mul_div_cancel' whole
  rw [BitVec.getLsbD_ofNat, decide_eq_true h, Bool.true_and, byteReverse_eq, testBit_unitReverse (by omega) _ _ _ (by omega), bytes,
    BitVec.getLsbD]

/-! #### IALU's table on bit vectors of any width (R104) -/

/-- The bit vector that an operation of IALU's table gives: the integer of `ialuOp` modulo 2^n. -/
def ialuBits (n code : Nat) (A B C : BitVec n) : BitVec n := BitVec.ofInt n (ialuOp n code A.toNat B.toNat C.toNat)

section
variable {n : Nat} {A B C : BitVec n}

theorem ialuBits_of_nat {code k : Nat} (h : ialuOp n code A.toNat B.toNat C.toNat = (k : Int)) :
    ialuBits n code A B C = BitVec.ofNat n k := by
  rw [ialuBits, h, BitVec.ofInt_natCast]

theorem ialuBits_of_toNat {code : Nat} {R : BitVec n} (h : ialuOp n code A.toNat B.toNat C.toNat = (R.toNat : Int)) :
    ialuBits n code A B C = R := by
  rw [ialuBits_of_nat h, BitVec.ofNat_toNat, BitVec.setWidth_eq]

theorem ialuBits_of_toInt {code : Nat} {R : BitVec n} (h : ialuOp n code A.toNat B.toNat C.toNat = R.toInt) :
    ialuBits n code A B C = R := by
  rw [ialuBits, h, BitVec.ofInt_toInt]

theorem ialuBits_of_ofBool {code : Nat} {p : Prop} [Decidable p] (h : ialuOp n code A.toNat B.toNat C.toNat = ofBool (decide p)) :
    ialuBits n code A B C = if p then 1 else 0 := by
  by_cases hp : p <;> simp [ialuBits, h, hp, ofBool]

end

section
variable {n : Nat} (A B C : BitVec n)

theorem ialuBits_add : ialuBits n 0 A B C = A + B := by
  simp [ialuBits, ialuOp, BitVec.ofInt_add]

theorem ialuBits_sub : ialuBits n 1 A B C = A - B := by
  simp [ialuBits, ialuOp, BitVec.ofInt_add, Int.sub_eq_add_neg, BitVec.ofInt_neg, BitVec.sub_eq_add_neg]

theorem ialuBits_and : ialuBits n 2 A B C = A &&& B := ialuBits_of_toNat rfl

theorem ialuBits_or : ialuBits n 3 A B C = A ||| B := ialuBits_of_toNat rfl

theorem ialuBits_xor : ialuBits n 4 A B C = A ^^^ B := ialuBits_of_toNat rfl

theorem ialuBits_andn : ialuBits n 5 A B C = A &&& ~~~B :=
  ialuBits_of_toNat (by simp only [ialuOp, BitVec.toNat_and, BitVec.toNat_not])

theorem ialuBits_orn : ialuBits n 6 A B C = A ||| ~~~B :=
  ialuBits_of_toNat (by simp only [ialuOp, BitVec.toNat_or, BitVec.toNat_not])

theorem ialuBits_shl : ialuBits n 7 A B C = A <<< (B.toNat % n) := by
  rw [ialuBits_of_nat (k := A.toNat * 2 ^ (B.toNat % n)) rfl]
  apply BitVec.eq_of_toNat_eq
  rw [BitVec.toNat_ofNat, BitVec.toNat_shiftLeft, Nat.shiftLeft_eq]

theorem ialuBits_shr : ialuBits n 8 A B C = A >>> (B.toNat % n) :=
  ialuBits_of_toNat (by simp only [ialuOp, BitVec.toNat_ushiftRight, Nat.shiftRight_eq_div_pow])

theorem ialuBits_sar : ialuBits n 9 A B C = A.sshiftRight (B.toNat % n) :=
  ialuBits_of_toInt (by simp [ialuOp, sarInt, Int.shiftRight_eq_div_pow, BitVec.toInt_sshiftRight])

theorem amount_le : B.toNat % n ≤ n := by
  cases n with
  | zero => simp [BitVec.of_length_zero]
  | succ k => exact (Nat.mod_lt _ (Nat.succ_pos k)).le

theorem ialuBits_rol : ialuBits n 10 A B C = A.rotateLeft (B.toNat % n) := by
  refine ialuBits_of_toNat (congrArg Int.ofNat ?_)
  rw [rotated_add_eq_or (amount_le B) A.isLt, BitVec.toNat_rotateLeft, Nat.mod_mod]

theorem ialuBits_ror : ialuBits n 11 A B C = A.rotateRight (B.toNat % n) := by
  refine ialuBits_of_toNat (congrArg Int.ofNat ?_)
  have turned := rotated_add_eq_or (k := n - B.toNat % n) (Nat.sub_le _ _) A.isLt
  rw [Nat.sub_sub_self (amount_le B)] at turned
  rw [Nat.add_comm, turned, BitVec.toNat_rotateRight, Nat.mod_mod, Nat.or_comm]

theorem ialuBits_min : ialuBits n 12 A B C = if A.toInt ≤ B.toInt then A else B :=
  ialuBits_of_toInt (by simp only [ialuOp, sgn_toNat, min_def, apply_ite BitVec.toInt])

theorem ialuBits_max : ialuBits n 13 A B C = if A.toInt ≤ B.toInt then B else A :=
  ialuBits_of_toInt (by simp only [ialuOp, sgn_toNat, max_def, apply_ite BitVec.toInt])

theorem ialuBits_minu : ialuBits n 14 A B C = if A.toNat ≤ B.toNat then A else B :=
  ialuBits_of_toNat (by simp only [ialuOp, min_def, apply_ite BitVec.toNat])

theorem ialuBits_maxu : ialuBits n 15 A B C = if A.toNat ≤ B.toNat then B else A :=
  ialuBits_of_toNat (by simp only [ialuOp, max_def, apply_ite BitVec.toNat])

theorem ialuBits_cmpeq : ialuBits n 16 A B C = if A = B then 1 else 0 :=
  ialuBits_of_ofBool (by simp only [ialuOp, BitVec.toNat_inj])

theorem ialuBits_cmpne : ialuBits n 17 A B C = if A ≠ B then 1 else 0 :=
  ialuBits_of_ofBool (by simp only [ialuOp, ne_eq, BitVec.toNat_inj])

theorem ialuBits_cmplt : ialuBits n 18 A B C = if A.toInt < B.toInt then 1 else 0 :=
  ialuBits_of_ofBool (by simp only [ialuOp, sgn_toNat])

theorem ialuBits_cmple : ialuBits n 19 A B C = if A.toInt ≤ B.toInt then 1 else 0 :=
  ialuBits_of_ofBool (by simp only [ialuOp, sgn_toNat])

theorem ialuBits_cmpltu : ialuBits n 20 A B C = if A.toNat < B.toNat then 1 else 0 := ialuBits_of_ofBool rfl

theorem ialuBits_cmpleu : ialuBits n 21 A B C = if A.toNat ≤ B.toNat then 1 else 0 := ialuBits_of_ofBool rfl

theorem ialuBits_mul : ialuBits n 22 A B C = A * B := by
  simp [ialuBits, ialuOp, BitVec.ofInt_mul]

theorem ialuBits_mulh : ialuBits n 23 A B C = BitVec.ofInt n (A.toInt * B.toInt / 2 ^ n) := by
  simp [ialuBits, ialuOp]

theorem ialuBits_mulhu : ialuBits n 24 A B C = BitVec.ofNat n (A.toNat * B.toNat / 2 ^ n) := ialuBits_of_nat rfl

theorem ialuBits_div : ialuBits n 25 A B C = if B = 0 then BitVec.allOnes n else A.sdiv B := by
  simp only [ialuBits, ialuOp, toNat_eq_zero_iff, sgn_toNat]
  split
  next => exact ofInt_neg_one n
  next => exact BitVec.eq_of_toInt_eq (by rw [BitVec.toInt_ofInt, BitVec.toInt_sdiv])

theorem ialuBits_divu : ialuBits n 26 A B C = if B = 0 then BitVec.allOnes n else A / B := by
  simp only [ialuBits, ialuOp, toNat_eq_zero_iff]
  split
  next => exact ofInt_neg_one n
  next => rw [← BitVec.toNat_udiv, BitVec.ofInt_natCast, BitVec.ofNat_toNat, BitVec.setWidth_eq]

theorem ialuBits_rem : ialuBits n 27 A B C = if B = 0 then A else A.srem B :=
  ialuBits_of_toInt (by simp only [ialuOp, toNat_eq_zero_iff, sgn_toNat, apply_ite BitVec.toInt, BitVec.toInt_srem])

theorem ialuBits_remu : ialuBits n 28 A B C = if B = 0 then A else A % B :=
  ialuBits_of_toNat (by simp only [ialuOp, toNat_eq_zero_iff, apply_ite BitVec.toNat, apply_ite Nat.cast, BitVec.toNat_umod])

theorem ialuBits_clz : ialuBits n 29 A B C = BitVec.ofNat n (clz n A.toNat) := ialuBits_of_nat rfl

theorem ialuBits_ctz : ialuBits n 30 A B C = BitVec.ofNat n (ctz n A.toNat) := ialuBits_of_nat rfl

theorem ialuBits_popc : ialuBits n 31 A B C = BitVec.ofNat n (popCount n A.toNat) := ialuBits_of_nat rfl

theorem ialuBits_sextb : ialuBits n 32 A B C = (A.truncate 8).signExtend n := ofInt_sgn_narrow 8 A

theorem ialuBits_sexth : ialuBits n 33 A B C = (A.truncate 16).signExtend n := ofInt_sgn_narrow 16 A

theorem ialuBits_sextw : ialuBits n 34 A B C = (A.truncate 32).signExtend n := ofInt_sgn_narrow 32 A

theorem ialuBits_zextb : ialuBits n 35 A B C = (A.truncate 8).zeroExtend n := (ialuBits_of_nat rfl).trans (ofNat_mod_two_pow 8 A)

theorem ialuBits_zexth : ialuBits n 36 A B C = (A.truncate 16).zeroExtend n := (ialuBits_of_nat rfl).trans (ofNat_mod_two_pow 16 A)

theorem ialuBits_zextw : ialuBits n 37 A B C = (A.truncate 32).zeroExtend n := (ialuBits_of_nat rfl).trans (ofNat_mod_two_pow 32 A)

theorem ialuBits_madd : ialuBits n 38 A B C = A * B + C := by
  simp [ialuBits, ialuOp, BitVec.ofInt_mul, BitVec.ofInt_add]

theorem ialuBits_bswap : ialuBits n 39 A B C = BitVec.ofNat n (byteReverse n A.toNat) := ialuBits_of_nat rfl

theorem ialuBits_brev : ialuBits n 40 A B C = BitVec.ofNat n (bitReverse n A.toNat) := ialuBits_of_nat rfl

theorem ialuBits_abs : ialuBits n 41 A B C = if A.toInt < 0 then -A else A := by
  simp only [ialuBits, ialuOp, sgn_toNat]
  split
  next neg => rw [Int.ofNat_natAbs_of_nonpos neg.le, BitVec.ofInt_neg, BitVec.ofInt_toInt]
  next pos => rw [Int.natAbs_of_nonneg (not_lt.1 pos), BitVec.ofInt_toInt]

theorem ialuBits_neg : ialuBits n 42 A B C = -A := by
  simp [ialuBits, ialuOp, BitVec.ofInt_neg]

end

/-! #### The result at both widths (R103) -/

/-- W and the width that it stands for. -/
abbrev IaluWidth (W n : Nat) : Prop := (W = 0 ∧ n = 64) ∨ (W = 1 ∧ n = 32)

theorem IaluWidth.two_mul_lt {W n z : Nat} (h : IaluWidth W n) (hz : z ≤ n) : 2 * z < 2 ^ n := by
  rcases h with ⟨-, rfl⟩ | ⟨-, rfl⟩ <;> omega

section
variable {W n code : Nat} {a b c : Word} (h : IaluWidth W n)
include h

/-- The result is the operation's bit vector, sign-extended. -/
theorem ialuResult_of_bits {R : BitVec n} (e : ialuBits n code (a.truncate n) (b.truncate n) (c.truncate n) = R) :
    ialuResult W code a b c = R.signExtend 64 := by
  have width : (if W = 0 then 64 else 32) = n := by rcases h with ⟨rfl, rfl⟩ | ⟨rfl, rfl⟩ <;> rfl
  rw [← e]
  simp only [ialuResult, width, wrap_eq_toNat_ofInt, sext_toNat, ialuBits, BitVec.truncate_eq_setWidth, BitVec.toNat_setWidth]

/-- The result of a comparison is 0 or 1 at both widths. -/
theorem ialuResult_of_compare {p : Prop} [Decidable p]
    (e : ialuBits n code (a.truncate n) (b.truncate n) (c.truncate n) = if p then 1 else 0) :
    ialuResult W code a b c = if p then 1 else 0 := by
  have two : 2 ≤ n := by rcases h with ⟨-, rfl⟩ | ⟨-, rfl⟩ <;> omega
  rw [ialuResult_of_bits h e, signExtend_bool two]

/-- The sign extension leaves a count of at most `n` as it is. -/
theorem ialuResult_of_count {z : Nat} (hz : z ≤ n)
    (e : ialuBits n code (a.truncate n) (b.truncate n) (c.truncate n) = BitVec.ofNat n z) :
    ialuResult W code a b c = BitVec.ofNat 64 z := by
  rw [ialuResult_of_bits h e, signExtend_ofNat_of_lt (h.two_mul_lt hz)]

end

/-! #### Words (R89, R103, R105) -/

theorem encode_ialu (w : BitVec 1) (c : BitVec 6) (t u : BitVec 9) :
    encode (.ialu w c t u) = some (0x10 * 2 ^ 25 + w.toNat * 2 ^ 24 + c.toNat * 2 ^ 18 + t.toNat * 2 ^ 9 + u.toNat) := by
  change some (0x10 * 2 ^ 25 + place 24 w + place 18 c + place 9 t + place 0 u) = _
  simp only [place, pow_zero, mul_one]

theorem decodeWord_ialu (w : BitVec 1) (c : BitVec 6) (t u : BitVec 9) :
    decodeWord (0x10 * 2 ^ 25 + w.toNat * 2 ^ 24 + c.toNat * 2 ^ 18 + t.toNat * 2 ^ 9 + u.toNat) = some (.ialu w c t u) := by
  have := w.isLt; have := c.isLt; have := t.isLt; have := u.isLt
  have opcode : (0x10 * 2 ^ 25 + w.toNat * 2 ^ 24 + c.toNat * 2 ^ 18 + t.toNat * 2 ^ 9 + u.toNat) / 2 ^ 25 = 0x10 := by omega
  rw [decodeWord, opcode]
  simp only [decodeOp10, field, Option.some.injEq, Instr.ialu.injEq]
  refine ⟨?_, ?_, ?_, ?_⟩ <;> apply BitVec.eq_of_toNat_eq <;> rw [BitVec.toNat_ofNat] <;> omega

theorem slots_ialu (w : BitVec 1) (c : BitVec 6) (t u : BitVec 9) : (Instr.ialu w c t u).slots.length =
    if 29 ≤ c.toNat ∧ c.toNat ≤ 37 ∨ 39 ≤ c.toNat then 1 else if c.toNat = 38 then 3 else 2 := by
  change (List.replicate (ialuArity c.toNat) Plane.ctl).length = _
  rw [List.length_replicate, ialuArity]

theorem badSub_ialu_of_le {w : BitVec 1} {c : BitVec 6} {t u : BitVec 9} (h : 43 ≤ c.toNat) : (Instr.ialu w c t u).badSub = some 2 :=
  if_pos h

/-- The fields of a word of the I format. -/
theorem immFields {n : Nat} (op : Nat) (m : BitVec n) (u : BitVec 9) :
    some (op * 2 ^ 25 + place 9 m + place 0 u) = some (op * 2 ^ 25 + m.toNat * 2 ^ 9 + u.toNat) := by
  rw [place, place, pow_zero, mul_one]

section
variable {op m : Nat} (u : BitVec 9) (shift : op ∈ [0x15, 0x16, 0x17]) (high : m < 2 ^ 16)
include shift high

/-- A shift immediate with one of its bits 6 to 15 set is no instruction. -/
theorem decodeWord_shift_eq_none (low : 64 ≤ m) : decodeWord (op * 2 ^ 25 + m * 2 ^ 9 + u.toNat) = none := by
  have := u.isLt
  have opcode : (op * 2 ^ 25 + m * 2 ^ 9 + u.toNat) / 2 ^ 25 = op := by omega
  have rest : (op * 2 ^ 25 + m * 2 ^ 9 + u.toNat) / 2 ^ 15 % 2 ^ 10 ≠ 0 := by omega
  simp only [List.mem_cons, List.not_mem_nil, or_false] at shift
  rw [decodeWord, opcode]
  rcases shift with rfl | rfl | rfl <;> exact if_neg rest

theorem illegalSub_shift : illegalSub (op * 2 ^ 25 + m * 2 ^ 9 + u.toNat) = 2 := by
  have := u.isLt
  have opcode : (op * 2 ^ 25 + m * 2 ^ 9 + u.toNat) / 2 ^ 25 = op := by omega
  simp only [List.mem_cons, List.not_mem_nil, or_false] at shift
  rw [illegalSub, opcode, if_neg (by omega), if_neg (by omega)]

end

/-! #### A word with a field value that is not allocated (R63, R64) -/

section
variable {i : Instr} {s : State} {t : Task} {f : Frame} {idx sub : Nat} {x : Ins}
  (hf : firing? s i = some (t, f, idx, x)) (hb : i.badSub = some sub)
include hf hb

/-- It raises ILLEGAL with its subcode, whatever its operands hold. -/
theorem fireWith_illegal (tgts : Ins → List Tgt) (n b : Body) :
    fireWith i s tgts n b = .next (blockFault s (t.count 1) (f.fired idx x) { code := 0x01, sub := sub, idx := idx }) := by
  simp [fireWith, hf, hb, firingFault, Frame.fired]

theorem fireScalar_illegal (r : Ins → Word) :
    fireScalar i s r = .next (blockFault s (t.count 1) (f.fired idx x) { code := 0x01, sub := sub, idx := idx }) := by
  rw [fireScalar, fireResult, fireWith_illegal hf hb]

end

/-! #### The statements -/

/-- Settles O10: the words by their fields, each result by the instruction's own meaning. -/
theorem integerImmediates : Obligations.IntegerImmediates := by
  unfold Obligations.IntegerImmediates
  refine ⟨fun imm k u => ⟨immFields 0x11 imm u, immFields 0x12 imm u, immFields 0x13 imm u, immFields 0x14 imm u, immFields 0x15 k u,
      immFields 0x16 k u, immFields 0x17 k u, immFields 0x18 imm u, immFields 0x19 imm u, immFields 0x1A imm u, immFields 0x1B imm u,
      fun op shift low => ⟨decodeWord_shift_eq_none u shift imm.isLt low, illegalSub_shift u shift imm.isLt⟩, ?_⟩, fun imm k u => ?_⟩
  · intro i hi
    simp only [List.mem_cons, List.not_mem_nil, or_false] at hi
    rcases hi with rfl | rfl | rfl | rfl | rfl | rfl | rfl | rfl | rfl | rfl | rfl <;> exact ⟨rfl, rfl⟩
  · exact ⟨sends_of_scalar _ (exec_addi imm u) (fun _ => rfl), sends_of_scalar _ (exec_andi imm u) (fun _ => rfl),
      sends_of_scalar _ (exec_ori imm u) (fun _ => rfl), sends_of_scalar _ (exec_xori imm u) (fun _ => rfl),
      sends_of_scalar _ (exec_shli k u) (fun _ => rfl), sends_of_scalar _ (exec_shri k u) (fun _ => rfl),
      sends_of_scalar _ (exec_sari k u) (fun _ => rfl), sends_of_scalar _ (exec_cmpeqi imm u) (fun _ => rfl),
      sends_of_scalar _ (exec_cmplti imm u) (fun _ => by simp only [BitVec.slt_eq_decide, decide_eq_true_eq]),
      sends_of_scalar _ (exec_cmpltui imm u) (fun _ => by simp only [BitVec.ult_eq_decide, decide_eq_true_eq]),
      sends_of_scalar _ (exec_muli imm u) (fun _ => rfl)⟩

/-- Settles O11: each row of the table by its operation on bit vectors, `ialuBits`, extended to 64 bits. -/
theorem ialuTable : Obligations.IaluTable := by
  unfold Obligations.IaluTable
  refine ⟨fun w c t u => ⟨fun _ => ⟨encode_ialu w c t u, rfl, slots_ialu w c t u⟩,
      fun bad => ⟨decodeWord_ialu w c t u, fun s k f idx x _ hf _ => ?_⟩⟩,
    fun W n a b c h => ?_, fun w c t u _ => sends_of_scalar _ (exec_ialu w c t u) (fun _ => rfl)⟩
  · rw [exec_ialu, execIalu]
    exact fireScalar_illegal hf (badSub_ialu_of_le bad) _
  · intro A B C k r bool
    have bits {code : Nat} {R : BitVec n} (e : ialuBits n code A B C = R) : r code = R.signExtend 64 := ialuResult_of_bits h e
    have compare {code : Nat} {p : Prop} [Decidable p] (e : ialuBits n code A B C = if p then 1 else 0) : r code = bool p :=
      ialuResult_of_compare h e
    have count {code z : Nat} (hz : z ≤ n) (e : ialuBits n code A B C = BitVec.ofNat n z) : r code = BitVec.ofNat 64 z :=
      ialuResult_of_count h hz e
    have whole : 8 ∣ n := by rcases h with ⟨-, rfl⟩ | ⟨-, rfl⟩ <;> decide
    exact ⟨bits (ialuBits_add A B C), bits (ialuBits_sub A B C), bits (ialuBits_and A B C), bits (ialuBits_or A B C),
      bits (ialuBits_xor A B C), bits (ialuBits_andn A B C), bits (ialuBits_orn A B C), bits (ialuBits_shl A B C),
      bits (ialuBits_shr A B C), bits (ialuBits_sar A B C), bits (ialuBits_rol A B C), bits (ialuBits_ror A B C),
      bits (ialuBits_min A B C), bits (ialuBits_max A B C), bits (ialuBits_minu A B C), bits (ialuBits_maxu A B C),
      compare (ialuBits_cmpeq A B C), compare (ialuBits_cmpne A B C), compare (ialuBits_cmplt A B C), compare (ialuBits_cmple A B C),
      compare (ialuBits_cmpltu A B C), compare (ialuBits_cmpleu A B C),
      bits (ialuBits_mul A B C), bits (ialuBits_mulh A B C), bits (ialuBits_mulhu A B C),
      bits (ialuBits_div A B C), bits (ialuBits_divu A B C), bits (ialuBits_rem A B C), bits (ialuBits_remu A B C),
      ⟨_, count (clz_le _ _) (ialuBits_clz A B C), clz_le _ _, fun _ => getMsbD_of_lt_clz A, getMsbD_clz A⟩,
      ⟨_, count (ctz_le _ _) (ialuBits_ctz A B C), ctz_le _ _, fun _ => getLsbD_of_lt_ctz A, getLsbD_ctz A⟩,
      popCount_toNat A ▸ count (popCount_le _ _) (ialuBits_popc A B C),
      bits (ialuBits_sextb A B C), bits (ialuBits_sexth A B C), bits (ialuBits_sextw A B C),
      bits (ialuBits_zextb A B C), bits (ialuBits_zexth A B C), bits (ialuBits_zextw A B C), bits (ialuBits_madd A B C),
      ⟨_, bits (ialuBits_bswap A B C), fun _ => getLsbD_byteReverse A whole⟩,
      ⟨_, bits (ialuBits_brev A B C), fun _ => getLsbD_bitReverse A⟩,
      bits (ialuBits_abs A B C), bits (ialuBits_neg A B C)⟩

end Sys2Proof.Machine
end

section
/-! PROOF. The integer lanes of a PE: a vector and its lanes (R36), the words of VIALU (R116, R124), the operations of its table as
operations on bit vectors (R125), of which most are operations of IALU's, and the statement O16. -/

namespace Sys2Proof.Machine

/-! #### A vector and its lanes (R36) -/

theorem packNat_lt (w : Nat) (l : List Nat) : packNat w l < 2 ^ (w * l.length) := by
  induction l with
  | nil => exact Nat.two_pow_pos _
  | cons x l ih =>
    have low : x % 2 ^ w < 2 ^ w := Nat.mod_lt _ (Nat.two_pow_pos w)
    calc packNat w (x :: l) < 2 ^ w * (packNat w l + 1) := by rw [packNat, Nat.mul_succ]; omega
      _ ≤ 2 ^ w * 2 ^ (w * l.length) := Nat.mul_le_mul_left _ ih
      _ = 2 ^ (w * (x :: l).length) := by rw [List.length_cons, Nat.mul_succ, pow_add, Nat.mul_comm]

/-- Lane `i + 1` of a number is lane `i` of what stands above its lowest lane. -/
theorem div_two_pow_lane_succ (w x i : Nat) : x / 2 ^ (w * (i + 1)) = x / 2 ^ w / 2 ^ (w * i) := by
  rw [Nat.mul_succ, Nat.add_comm, pow_add, Nat.div_div_eq_div_mul]

theorem packNat_cons_div (w x : Nat) (l : List Nat) : packNat w (x :: l) / 2 ^ w = packNat w l := by
  have pos := Nat.two_pow_pos w
  rw [packNat, Nat.add_mul_div_left _ _ pos, Nat.div_eq_of_lt (Nat.mod_lt _ pos), Nat.zero_add]

theorem packNat_div_mod (w : Nat) (l : List Nat) (i : Nat) (h : i < l.length) : packNat w l / 2 ^ (w * i) % 2 ^ w = l[i] % 2 ^ w := by
  induction l generalizing i with
  | nil => exact absurd h (Nat.not_lt_zero i)
  | cons x l ih =>
    cases i with
    | zero => simp [packNat]
    | succ i => rw [div_two_pow_lane_succ, packNat_cons_div, ih i (Nat.lt_of_succ_lt_succ h), List.getElem_cons_succ]

/-- The lowest `k` lanes of a number, packed, are its lowest `w * k` bits. -/
theorem packNat_map_range (w k x : Nat) : packNat w ((List.range k).map (fun i => x / 2 ^ (w * i) % 2 ^ w)) = x % 2 ^ (w * k) := by
  induction k generalizing x with
  | zero => simp [packNat, Nat.mod_one]
  | succ k ih =>
    have above : List.map ((fun i => x / 2 ^ (w * i) % 2 ^ w) ∘ Nat.succ) (List.range k) =
        (List.range k).map (fun i => x / 2 ^ w / 2 ^ (w * i) % 2 ^ w) :=
      List.map_congr_left fun i _ => by rw [Function.comp_apply, Nat.succ_eq_add_one, div_two_pow_lane_succ]
    rw [List.range_succ_eq_map, List.map_cons, List.map_map, above, packNat, ih, Nat.mul_zero, pow_zero, Nat.div_one, Nat.mod_mod,
      Nat.mul_succ, Nat.add_comm (w * k), pow_add, Nat.mod_mul]

theorem toNat_ofNat_packNat {w n : Nat} {l : List Nat} (fits : w * l.length ≤ n) :
    (BitVec.ofNat n (packNat w l)).toNat = packNat w l := by
  rw [BitVec.toNat_ofNat, Nat.mod_eq_of_lt ((packNat_lt w l).trans_le (Nat.pow_le_pow_right Nat.two_pos fits))]

/-- Lanes that fit a vector read back from it. -/
theorem lane_pack {w i : Nat} {l : List Nat} (fits : w * l.length ≤ 512) (h : i < l.length) : lane w (pack w l) i = l[i] % 2 ^ w := by
  rw [lane, pack, toNat_ofNat_packNat fits, packNat_div_mod w l i h]

/-- A vector is its lanes, when they divide it. -/
theorem pack_lanes {w : Nat} (whole : w * (512 / w) = 512) (v : Vec) : pack w (lanes w v) = v := by
  have number : packNat w (lanes w v) = v.toNat := by
    rw [show lanes w v = (List.range (512 / w)).map (fun i => v.toNat / 2 ^ (w * i) % 2 ^ w) from rfl, packNat_map_range, whole,
      Nat.mod_eq_of_lt v.isLt]
  rw [pack, number, BitVec.ofNat_toNat, BitVec.setWidth_eq]

/-- The lane widths of R36 divide a vector. -/
theorem mul_div_laneWidth {w : Nat} (h : w ∈ [4, 8, 16, 32, 64]) : w * (512 / w) = 512 := by
  simp only [List.mem_cons, List.not_mem_nil, or_false] at h
  rcases h with rfl | rfl | rfl | rfl | rfl <;> rfl

/-! #### VIALU's table on bit vectors of any width (R125) -/

/-- The bit vector that an operation of VIALU's table gives on a lane: the integer of `vialuOp` modulo 2^n. -/
def vialuBits (n code : Nat) (A B C : BitVec n) : BitVec n := BitVec.ofInt n (vialuOp n code A.toNat B.toNat C.toNat)

/-- It is the number that `execVialu` writes to the lane. -/
theorem ofNat_wrap_vialuOp {n : Nat} (code : Nat) (A B C : BitVec n) :
    BitVec.ofNat n (wrap n (vialuOp n code A.toNat B.toNat C.toNat)) = vialuBits n code A B C := by
  rw [wrap_eq_toNat_ofInt, BitVec.ofNat_toNat, BitVec.setWidth_eq, vialuBits]

section
variable {n code : Nat} {A B C : BitVec n}

/-- An operation that IALU has too gives what IALU's gives. -/
theorem vialuBits_of_ialuBits {same : Nat} {R : BitVec n} (e : ialuBits n same A B C = R)
    (h : vialuOp n code A.toNat B.toNat C.toNat = ialuOp n same A.toNat B.toNat C.toNat) : vialuBits n code A B C = R := by
  rw [vialuBits, h, ← ialuBits, e]

/-- A mask is all ones or 0. -/
theorem vialuBits_of_mask {p : Prop} [Decidable p] (h : vialuOp n code A.toNat B.toNat C.toNat = if p then -1 else 0) :
    vialuBits n code A B C = if p then BitVec.allOnes n else 0 := by
  rw [vialuBits, h, apply_ite (BitVec.ofInt n), ofInt_neg_one]; rfl

/-- A number below 2^n is exact. -/
theorem vialuBits_toNat {z : Nat} (small : z < 2 ^ n) (h : vialuOp n code A.toNat B.toNat C.toNat = (z : Int)) :
    (vialuBits n code A B C).toNat = z := by
  rw [vialuBits, h, BitVec.ofInt_natCast, BitVec.toNat_ofNat, Nat.mod_eq_of_lt small]

/-- A clamped number is exact. -/
theorem vialuBits_toInt {z : Int} (pos : 0 < n)
    (h : vialuOp n code A.toNat B.toNat C.toNat = max (-2 ^ (n - 1)) (min (2 ^ (n - 1) - 1) z)) :
    (vialuBits n code A B C).toInt = max (-2 ^ (n - 1)) (min (2 ^ (n - 1) - 1) z) := by
  have half : (0 : Int) < 2 ^ (n - 1) := by positivity
  rw [vialuBits, h]
  exact BitVec.toInt_ofInt_eq_self pos (by omega) (by omega)

end

section
variable {n : Nat} (A B C : BitVec n)

theorem vialuBits_add : vialuBits n 0 A B C = A + B := vialuBits_of_ialuBits (ialuBits_add A B C) rfl

theorem vialuBits_sub : vialuBits n 1 A B C = A - B := vialuBits_of_ialuBits (ialuBits_sub A B C) rfl

theorem vialuBits_adds (pos : 0 < n) :
    (vialuBits n 2 A B C).toInt = max (-2 ^ (n - 1)) (min (2 ^ (n - 1) - 1) (A.toInt + B.toInt)) :=
  vialuBits_toInt pos (by simp only [vialuOp, sgn_toNat])

theorem vialuBits_subs (pos : 0 < n) :
    (vialuBits n 3 A B C).toInt = max (-2 ^ (n - 1)) (min (2 ^ (n - 1) - 1) (A.toInt - B.toInt)) :=
  vialuBits_toInt pos (by simp only [vialuOp, sgn_toNat])

theorem vialuBits_mul : vialuBits n 4 A B C = A * B := vialuBits_of_ialuBits (ialuBits_mul A B C) rfl

theorem vialuBits_mulh : vialuBits n 5 A B C = BitVec.ofInt n (A.toInt * B.toInt / 2 ^ n) := by
  simp only [vialuBits, vialuOp, sgn_toNat]

theorem vialuBits_and : vialuBits n 6 A B C = A &&& B := vialuBits_of_ialuBits (ialuBits_and A B C) rfl

theorem vialuBits_or : vialuBits n 7 A B C = A ||| B := vialuBits_of_ialuBits (ialuBits_or A B C) rfl

theorem vialuBits_xor : vialuBits n 8 A B C = A ^^^ B := vialuBits_of_ialuBits (ialuBits_xor A B C) rfl

theorem vialuBits_shl : vialuBits n 9 A B C = A <<< (B.toNat % n) := vialuBits_of_ialuBits (ialuBits_shl A B C) rfl

theorem vialuBits_shr : vialuBits n 10 A B C = A >>> (B.toNat % n) := vialuBits_of_ialuBits (ialuBits_shr A B C) rfl

theorem vialuBits_sar : vialuBits n 11 A B C = A.sshiftRight (B.toNat % n) := vialuBits_of_ialuBits (ialuBits_sar A B C) rfl

theorem vialuBits_min : vialuBits n 12 A B C = if A.toInt ≤ B.toInt then A else B := vialuBits_of_ialuBits (ialuBits_min A B C) rfl

theorem vialuBits_max : vialuBits n 13 A B C = if A.toInt ≤ B.toInt then B else A := vialuBits_of_ialuBits (ialuBits_max A B C) rfl

theorem vialuBits_minu : vialuBits n 14 A B C = if A.toNat ≤ B.toNat then A else B := vialuBits_of_ialuBits (ialuBits_minu A B C) rfl

theorem vialuBits_maxu : vialuBits n 15 A B C = if A.toNat ≤ B.toNat then B else A := vialuBits_of_ialuBits (ialuBits_maxu A B C) rfl

theorem vialuBits_abs : vialuBits n 16 A B C = if A.toInt < 0 then -A else A := vialuBits_of_ialuBits (ialuBits_abs A B C) rfl

theorem vialuBits_cmpeq : vialuBits n 17 A B C = if A.toNat = B.toNat then BitVec.allOnes n else 0 :=
  vialuBits_of_mask (by simp only [vialuOp, decide_eq_true_eq])

theorem vialuBits_cmplt : vialuBits n 18 A B C = if A.toInt < B.toInt then BitVec.allOnes n else 0 :=
  vialuBits_of_mask (by simp only [vialuOp, sgn_toNat, decide_eq_true_eq])

theorem vialuBits_cmpltu : vialuBits n 19 A B C = if A.toNat < B.toNat then BitVec.allOnes n else 0 :=
  vialuBits_of_mask (by simp only [vialuOp, decide_eq_true_eq])

/-- The largest difference, 2^n - 1, fits the unsigned lane. -/
theorem natAbs_toInt_sub_lt : (A.toInt - B.toInt).natAbs < 2 ^ n := by
  have := A.two_mul_toInt_lt; have := A.le_two_mul_toInt
  have := B.two_mul_toInt_lt; have := B.le_two_mul_toInt
  zify
  exact abs_lt.2 ⟨by omega, by omega⟩

theorem vialuBits_absd : (vialuBits n 20 A B C).toNat = (A.toInt - B.toInt).natAbs :=
  vialuBits_toNat (natAbs_toInt_sub_lt A B) (by simp only [vialuOp, sgn_toNat])

theorem vialuBits_avg : (vialuBits n 21 A B C).toNat = (A.toNat + B.toNat + 1) / 2 :=
  vialuBits_toNat (by have := A.isLt; have := B.isLt; omega) rfl

theorem vialuBits_madd : vialuBits n 22 A B C = A * B + C := vialuBits_of_ialuBits (ialuBits_madd A B C) rfl

theorem vialuBits_popc : (vialuBits n 23 A B C).toNat = (List.range n).countP (fun i => A.getLsbD i) :=
  popCount_toNat A ▸ vialuBits_toNat ((popCount_le n _).trans_lt Nat.lt_two_pow_self) rfl

theorem vialuBits_clz : (vialuBits n 24 A B C).toNat = clz n A.toNat :=
  vialuBits_toNat ((clz_le n _).trans_lt Nat.lt_two_pow_self) rfl

end

/-! #### Words (R60, R124) -/

section
variable (w : BitVec 2) (c : BitVec 5) (t u : BitVec 9)

theorem encode_vialu :
    encode (.vialu w c t u) = some (0x50 * 2 ^ 25 + w.toNat * 2 ^ 23 + c.toNat * 2 ^ 18 + t.toNat * 2 ^ 9 + u.toNat) := by
  change some (0x50 * 2 ^ 25 + place 23 w + place 18 c + place 9 t + place 0 u) = _
  simp only [place, pow_zero, mul_one]

theorem decodeWord_vialu :
    decodeWord (0x50 * 2 ^ 25 + w.toNat * 2 ^ 23 + c.toNat * 2 ^ 18 + t.toNat * 2 ^ 9 + u.toNat) = some (.vialu w c t u) := by
  have := w.isLt; have := c.isLt; have := t.isLt; have := u.isLt
  have opcode : (0x50 * 2 ^ 25 + w.toNat * 2 ^ 23 + c.toNat * 2 ^ 18 + t.toNat * 2 ^ 9 + u.toNat) / 2 ^ 25 = 0x50 := by omega
  rw [decodeWord, opcode]
  simp only [decodeOp50, field, Option.some.injEq, Instr.vialu.injEq]
  refine ⟨?_, ?_, ?_, ?_⟩ <;> apply BitVec.eq_of_toNat_eq <;> rw [BitVec.toNat_ofNat] <;> omega

theorem slots_vialu : (Instr.vialu w c t u).slots.length = if c = 16 ∨ c = 23 ∨ c = 24 then 1 else if c = 22 then 3 else 2 := by
  change (List.replicate (vialuArity c.toNat) Plane.data).length = _
  simp only [List.length_replicate, vialuArity, ← BitVec.toNat_inj]
  rfl

variable {w c t u}

theorem badSub_vialu_of_bad (h : w = 3 ∨ 25 ≤ c.toNat) : (Instr.vialu w c t u).badSub = some 2 :=
  if_pos (h.imp_left (congrArg BitVec.toNat))

end

theorem fireVector_illegal {i : Instr} {s : State} {t : Task} {f : Frame} {idx sub : Nat} {x : Ins}
    (hf : firing? s i = some (t, f, idx, x)) (hb : i.badSub = some sub) (r : Ins → Vec) :
    fireVector i s r = .next (blockFault s (t.count 1) (f.fired idx x) { code := 0x01, sub := sub, idx := idx }) := by
  rw [fireVector, fireResult, fireWith_illegal hf hb]

/-! #### The statement -/

/-- A number below 2^w is the reading of a bit vector. -/
theorem exists_toNat_of_lt {w a : Nat} (h : a < 2 ^ w) : ∃ A : BitVec w, A.toNat = a :=
  ⟨BitVec.ofNatLT a h, rfl⟩

/-- Settles O16: the words by their fields, each row of the table by its operation on bit vectors, `vialuBits`, and packed vectors by
`packNat`, whose digits to the base 2^w are the lanes. -/
theorem vialuTable : Obligations.VialuTable := by
  unfold Obligations.VialuTable
  refine ⟨fun w c t u => ⟨fun _ _ => ⟨encode_vialu w c t u, rfl, slots_vialu w c t u⟩,
      fun bad => ⟨decodeWord_vialu w c t u, fun s k f idx x _ hf _ => ?_⟩, sends_of_vector _ (exec_vialu w c t u) (fun _ => rfl)⟩,
    fun w a b c hw ha hb hc => ?_,
    fun w l i hw hl h => lane_pack (hl ▸ (mul_div_laneWidth hw).le) h, fun w v hw => pack_lanes (mul_div_laneWidth hw) v⟩
  · rw [exec_vialu, execVialu]
    exact fireVector_illegal hf (badSub_vialu_of_bad bad) _
  · obtain ⟨A, rfl⟩ := exists_toNat_of_lt ha
    obtain ⟨B, rfl⟩ := exists_toNat_of_lt hb
    obtain ⟨C, rfl⟩ := exists_toNat_of_lt hc
    have pos : 0 < w := by simp only [List.mem_cons, List.not_mem_nil, or_false] at hw; omega
    simp only [ofNat_wrap_vialuOp, BitVec.ofNat_toNat, BitVec.setWidth_eq]
    refine ⟨vialuBits_add A B C, vialuBits_sub A B C, vialuBits_adds A B C pos, vialuBits_subs A B C pos,
      vialuBits_mul A B C, vialuBits_mulh A B C, vialuBits_and A B C, vialuBits_or A B C, vialuBits_xor A B C,
      vialuBits_shl A B C, vialuBits_shr A B C, vialuBits_sar A B C, vialuBits_min A B C, vialuBits_max A B C,
      vialuBits_minu A B C, vialuBits_maxu A B C, vialuBits_abs A B C,
      vialuBits_cmpeq A B C, vialuBits_cmplt A B C, vialuBits_cmpltu A B C,
      vialuBits_absd A B C, vialuBits_avg A B C, vialuBits_madd A B C, vialuBits_popc A B C, ?_⟩
    rw [vialuBits_clz]
    exact ⟨clz_le _ _, fun _ => getMsbD_of_lt_clz A, getMsbD_clz A⟩

end Sys2Proof.Machine
end
